-- ==== Sys2Proof/Word.lean ====
section
/-! DEFINITION. Word types and the plainest arithmetic on them (R6, R9, R60). -/

namespace Sys2Proof

/-- A 64-bit scalar register, address or sysreg (R60). -/
abbrev Word := BitVec 64
/-- A 32-bit value: FP32, INT32, an instruction word. -/
abbrev Word32 := BitVec 32
/-- One byte of memory (R6). -/
abbrev Byte := BitVec 8
/-- A vector register (R174). -/
abbrev VWord := BitVec 512

/-- `SEXT(v)` of R9: sign extension to 64 bits. -/
abbrev sext64 {w : Nat} (v : BitVec w) : Word := v.signExtend 64
/-- `ZEXT(v)` of R9: zero extension to 64 bits. -/
abbrev zext64 {w : Nat} (v : BitVec w) : Word := v.setWidth 64
/-- Bits [31:0] of a scalar register. -/
abbrev lo32 (v : Word) : Word32 := v.setWidth 32
/-- A truth value as the 64-bit 1 or 0 that comparisons deliver (R127). -/
def boolWord (b : Bool) : Word := if b then 1#64 else 0#64

end Sys2Proof
end

