-- ==== Sys2Proof/Syntax.lean ====
section
/-! DEFINITION. The instruction set as one inductive: one constructor per row of spec/opcode_table.json.
The first 269 constructors are instructions with an encoding (Table 5.5); each carries its stall count STL (R106) first.
The rest are the package's EVENTS: steps of the table without an encoding, each with the operands that say which agent
takes the step and what the outside world supplies. -/

namespace Sys2Proof

/-- STL, the stall count in bits [31:29] of every word (R106). -/
abbrev Stl := BitVec 3
/-- A five-bit register field (R107). -/
abbrev Reg := BitVec 5
/-- A mask register number m0–m7 (R106). -/
abbrev MReg := BitVec 3

/-- Scopes of Table 4.2; codes 0–4 in this order (R121). -/
inductive Scope | core | cl | die | pkg | sys
  deriving DecidableEq, Repr, Inhabited

/-- Orderings of R83. -/
inductive MemOrder | plain | acq | rel | ar
  deriving DecidableEq, Repr, Inhabited

/-- Rounding modes of Table 3.2; codes 0–4 in this order. -/
inductive RMode | rne | rtz | rdn | rup | sr
  deriving DecidableEq, Repr, Inhabited

/-- Element types of majors 0x30–0x34 in that order (Table 5.5). -/
inductive VType | f32 | bf16 | i32 | i16 | i8
  deriving DecidableEq, Repr, Inhabited

/-- Relations of FCMP and float VCMP, codes 0–6 (R136). -/
inductive FRel | eq | ne | lt | le | gt | ge | un
  deriving DecidableEq, Repr, Inhabited

/-- Relations of integer VCMP, codes 0–7 (R181). -/
inductive IRel | eq | ne | lt | le | gt | ge | ltu | geu
  deriving DecidableEq, Repr, Inhabited

/-- The literal of VRED: 0 sum, 1 minimum, 2 maximum (R178). -/
inductive RedOp | sum | min | max
  deriving DecidableEq, Repr, Inhabited

/-- Widths of KRED and KMAX, fn2 0–2 (Table 10.9). -/
inductive KWidth | k8 | k16 | k32
  deriving DecidableEq, Repr, Inhabited

/-- Forms of KRBS, fn2 0–3 (Table 10.9). -/
inductive KrbsForm | bsm8 | bsm4 | bsm8bnd | bsm4bnd
  deriving DecidableEq, Repr, Inhabited

/-- A physical core of the package (R1). -/
abbrev CoreId := Fin 1024
/-- A context of a core (R17). -/
abbrev CtxId := Fin 11
/-- A cluster of the package, die × 32 + cluster-in-die (R1). -/
abbrev ClusterId := Fin 128
/-- A tile die (R1). -/
abbrev DieId := Fin 4
/-- A Kweman port: 0 is port A, 1 is port B (R216). -/
abbrev PortId := Fin 2
/-- A partition (R304). -/
abbrev PartId := Fin 4
/-- A launch queue of a partition (R304). -/
abbrev QueueId := Fin 64

/-- Trap causes of Table 15.3. -/
inductive Cause
  | illegal | blockFormat | branchTarget | stallUnderrun | misaligned | loadPageFault | storePageFault | access
  | windowPermission | unallocatedWindow | contextClass | leaseState | ringMisuse | powerStop | breakpoint | trap
  | interrupt
  deriving DecidableEq, Repr, Inhabited

/-- What a trap reports (R263, R264): ECAUSE's fields and EVAL. -/
structure TrapInfo where
  cause  : Cause
  sub    : Byte := 0#8
  fetch  : Bool := false
  poison : Bool := false
  eval   : Word := 0#64
  deriving DecidableEq, Repr, Inhabited

/-- A bank of Table 2.6: what it is and its number. -/
inductive BankRef
  | array (c : CoreId) (bank : Nat)
  | l2 (d : DieId) (slice : Nat)
  | weight (d : DieId) (bank : Nat)
  | rank (d : DieId) (rank : Nat)
  deriving DecidableEq, Repr, Inhabited

/-- Where an uncorrectable error in a memory array or a fetched-ahead line stands (R284, R285). -/
inductive ErrorPlace
  | home (pa : Nat)
  | array (c : CoreId) (off : Nat)
  | l1 (c : CoreId) (pa : Nat)
  | l2 (pa : Nat)                          -- the L2's copy of an LPDDR line
  | weight (d : DieId) (off : Nat)
  | engineWeights (g : ClusterId) (sec : Nat)  -- sectors of W, four a row; of the two banks, eight a row
  | workingBank (g : ClusterId) (sec : Nat)
  | visibleBank (g : ClusterId) (sec : Nat)
  | bezel (d : DieId) (pa sec : Nat)       -- the staging of the window at pa
  | fetched (c : CoreId) (pa : Nat)
  deriving DecidableEq, Repr, Inhabited

/-- What a port's detectors report in one window of a circle (R221): the HOLD count of window w, the counts of the unit of
window w (in the order of Table 10.5 or R227), the largest count in the wave's other data positions, the NAK group of window
w − LAG and the verdict group of window w − 2·LAG. -/
structure WindowReading where
  hold    : Nat
  unit    : List Nat
  pad     : Nat
  nak     : List Nat
  verdict : List Nat
  deriving DecidableEq, Repr, Inhabited

/-- What the members other than this port light in the planes of a maximum wave is part of `WindowReading.unit`; a circle
on a port is named by its id (T10.1). -/
abbrev CircleId := BitVec 4

/-- What calibration of a segment measures (R355). -/
structure Calibration where
  leader     : Bool
  margins    : List Nat      -- m(c) × 10 for c = 0, 1, …, as far as measured
  roundSlots : Nat           -- round trip in slots, rounded up
  trip       : Nat           -- round trip plus guard evaluation, in positions
  deriving DecidableEq, Repr, Inhabited

/-- Divisions of the package into partitions (R304). -/
inductive Division | s1024 | s512x2 | s512s256x2 | s256x4
  deriving DecidableEq, Repr, Inhabited

/-- What the outside world decides in the boot sequence of Table 21.4. -/
structure BootPlan where
  slot0Ok     : Bool
  slot1Ok     : Bool
  badDies     : BitVec 4     -- dies that fail in step 2
  badChannels : BitVec 48    -- LPDDR channels that fail in step 2, twelve a physical die
  division    : Division
  quantaUs    : List Nat     -- Q of each partition
  faultQueues : List (Word × Nat)  -- FQBASE and FQCTL.SZ of each physical die
  cxlBytes    : List Nat     -- reported capacity of each CXL port, 0 for a port that fails
  calibrations : List (Option Calibration)
  deriving DecidableEq, Repr, Inhabited

/-- What has a meter of its own (R323): a core, an engine, a memory resource; and the filler of a ramp (R331). -/
inductive MeterUnit
  | core (c : CoreId)
  | copy (g : ClusterId)
  | matrix (g : ClusterId)
  | merge (d : DieId)
  | port (p : PortId)
  | memory (b : BankRef)
  | filler
  deriving DecidableEq, Repr, Inhabited

/-- One meter's energy of the ended interval, in µJ, with the team for which the unit drew it. -/
structure MeterEntry where
  unit   : MeterUnit
  lid    : Nat
  team   : Nat
  energy : Nat
  deriving DecidableEq, Repr, Inhabited

/-- What the meters and the light deliver at the start of an accounting interval (R323, R325). -/
structure MeterReading where
  other  : Nat               -- hub, light die and refresh draw of the ended interval, in µJ
  meters : List MeterEntry
  deriving DecidableEq, Repr, Inhabited

/-- What a core's temperature sensor reads, in steps of 0.5 °C (R336). -/
structure CoreHeat where
  core  : CoreId
  reads : Nat
  deriving DecidableEq, Repr, Inhabited
/-- An offer of carats, named by its lender and its number among its lender's offers of the interval (R328). -/
structure OfferName where
  lender : Nat
  num    : Nat
  deriving DecidableEq, Repr, Inhabited
/-- What the host sends to be written; with `expect`, an atomic that writes where the old bytes are those (R316, R351). -/
structure HostData where
  expect : Option (List Byte)
  bytes  : List Byte
  deriving DecidableEq, Repr, Inhabited

/-- The instructions and events of spec/opcode_table.json. -/
inductive Instr
  /-- NOP: No effect (R148). -/
  | nop (stl : Stl)
  /-- TRAP: Completes its step, raises Trap at the next boundary (R270). -/
  | trap (stl : Stl) (k : BitVec 5)
  /-- ERET: Return from a trap (R271). -/
  | eret (stl : Stl)
  /-- WFI: Waits for an enabled interrupt or a pending pre-emption (R272). -/
  | wfi (stl : Stl)
  /-- TLBINV: Invalidates translations (R273, R299). -/
  | tlbinv (stl : Stl) (a b : Reg)
  /-- CFLUSH: Writes a line back (R274). -/
  | cflush (stl : Stl) (a : Reg)
  /-- CINV: Invalidates a line, discarding dirty bytes (R274). -/
  | cinv (stl : Stl) (a : Reg)
  /-- IFENCE: Instruction fence (R275). -/
  | ifence (stl : Stl)
  /-- BKPT: Raises Breakpoint (R270). -/
  | bkpt (stl : Stl)
  /-- ADD: Table 6.1, 64 bits (R127). -/
  | add (stl : Stl) (d a b : Reg)
  /-- SUB: Table 6.1, 64 bits (R127). -/
  | sub (stl : Stl) (d a b : Reg)
  /-- AND: Table 6.1, 64 bits (R127). -/
  | and (stl : Stl) (d a b : Reg)
  /-- OR: Table 6.1, 64 bits (R127). -/
  | or (stl : Stl) (d a b : Reg)
  /-- XOR: Table 6.1, 64 bits (R127). -/
  | xor (stl : Stl) (d a b : Reg)
  /-- ANDN: Table 6.1, 64 bits (R127). -/
  | andn (stl : Stl) (d a b : Reg)
  /-- SLL: Table 6.1, 64 bits (R127). -/
  | sll (stl : Stl) (d a b : Reg)
  /-- SRL: Table 6.1, 64 bits (R127). -/
  | srl (stl : Stl) (d a b : Reg)
  /-- SRA: Table 6.1, 64 bits (R127). -/
  | sra (stl : Stl) (d a b : Reg)
  /-- ROL: Table 6.1, 64 bits (R127). -/
  | rol (stl : Stl) (d a b : Reg)
  /-- ROR: Table 6.1, 64 bits (R127). -/
  | ror (stl : Stl) (d a b : Reg)
  /-- SLT: Table 6.1, 64 bits (R127). -/
  | slt (stl : Stl) (d a b : Reg)
  /-- SLTU: Table 6.1, 64 bits (R127). -/
  | sltu (stl : Stl) (d a b : Reg)
  /-- SEQ: Table 6.1, 64 bits (R127). -/
  | seq (stl : Stl) (d a b : Reg)
  /-- SNE: Table 6.1, 64 bits (R127). -/
  | sne (stl : Stl) (d a b : Reg)
  /-- MIN: Table 6.1, 64 bits (R127). -/
  | min (stl : Stl) (d a b : Reg)
  /-- MAX: Table 6.1, 64 bits (R127). -/
  | max (stl : Stl) (d a b : Reg)
  /-- MINU: Table 6.1, 64 bits (R127). -/
  | minu (stl : Stl) (d a b : Reg)
  /-- MAXU: Table 6.1, 64 bits (R127). -/
  | maxu (stl : Stl) (d a b : Reg)
  /-- CLZ: Table 6.1, 64 bits (R127). -/
  | clz (stl : Stl) (d a : Reg)
  /-- CTZ: Table 6.1, 64 bits (R127). -/
  | ctz (stl : Stl) (d a : Reg)
  /-- POPC: Table 6.1, 64 bits (R127). -/
  | popc (stl : Stl) (d a : Reg)
  /-- ADD_W: Table 6.1, 32 bits (R127). -/
  | addW (stl : Stl) (d a b : Reg)
  /-- SUB_W: Table 6.1, 32 bits (R127). -/
  | subW (stl : Stl) (d a b : Reg)
  /-- AND_W: Table 6.1, 32 bits (R127). -/
  | andW (stl : Stl) (d a b : Reg)
  /-- OR_W: Table 6.1, 32 bits (R127). -/
  | orW (stl : Stl) (d a b : Reg)
  /-- XOR_W: Table 6.1, 32 bits (R127). -/
  | xorW (stl : Stl) (d a b : Reg)
  /-- ANDN_W: Table 6.1, 32 bits (R127). -/
  | andnW (stl : Stl) (d a b : Reg)
  /-- SLL_W: Table 6.1, 32 bits (R127). -/
  | sllW (stl : Stl) (d a b : Reg)
  /-- SRL_W: Table 6.1, 32 bits (R127). -/
  | srlW (stl : Stl) (d a b : Reg)
  /-- SRA_W: Table 6.1, 32 bits (R127). -/
  | sraW (stl : Stl) (d a b : Reg)
  /-- ROL_W: Table 6.1, 32 bits (R127). -/
  | rolW (stl : Stl) (d a b : Reg)
  /-- ROR_W: Table 6.1, 32 bits (R127). -/
  | rorW (stl : Stl) (d a b : Reg)
  /-- CLZ_W: Table 6.1, 32 bits (R127). -/
  | clzW (stl : Stl) (d a : Reg)
  /-- CTZ_W: Table 6.1, 32 bits (R127). -/
  | ctzW (stl : Stl) (d a : Reg)
  /-- POPC_W: Table 6.1, 32 bits (R127). -/
  | popcW (stl : Stl) (d a : Reg)
  /-- MUL: Table 6.2 (R128). -/
  | mul (stl : Stl) (d a b : Reg)
  /-- MULH: Table 6.2 (R128). -/
  | mulh (stl : Stl) (d a b : Reg)
  /-- MULHU: Table 6.2 (R128). -/
  | mulhu (stl : Stl) (d a b : Reg)
  /-- DIV: Table 6.2 (R128). -/
  | div (stl : Stl) (d a b : Reg)
  /-- DIVU: Table 6.2 (R128). -/
  | divu (stl : Stl) (d a b : Reg)
  /-- REM: Table 6.2 (R128). -/
  | rem (stl : Stl) (d a b : Reg)
  /-- REMU: Table 6.2 (R128). -/
  | remu (stl : Stl) (d a b : Reg)
  /-- MUL_W: Table 6.2, 32 bits (R128). -/
  | mulW (stl : Stl) (d a b : Reg)
  /-- DIV_W: Table 6.2, 32 bits (R128). -/
  | divW (stl : Stl) (d a b : Reg)
  /-- DIVU_W: Table 6.2, 32 bits (R128). -/
  | divuW (stl : Stl) (d a b : Reg)
  /-- REM_W: Table 6.2, 32 bits (R128). -/
  | remW (stl : Stl) (d a b : Reg)
  /-- REMU_W: Table 6.2, 32 bits (R128). -/
  | remuW (stl : Stl) (d a b : Reg)
  /-- ADD_IMM: x[a] with SEXT(imm12) (R129). -/
  | addImm (stl : Stl) (d a : Reg) (imm : BitVec 12)
  /-- ADD_W_IMM: x[a] with SEXT(imm12) (R129). -/
  | addWImm (stl : Stl) (d a : Reg) (imm : BitVec 12)
  /-- AND_IMM: x[a] with SEXT(imm12) (R129). -/
  | andImm (stl : Stl) (d a : Reg) (imm : BitVec 12)
  /-- OR_IMM: x[a] with SEXT(imm12) (R129). -/
  | orImm (stl : Stl) (d a : Reg) (imm : BitVec 12)
  /-- XOR_IMM: x[a] with SEXT(imm12) (R129). -/
  | xorImm (stl : Stl) (d a : Reg) (imm : BitVec 12)
  /-- ANDN_IMM: x[a] with SEXT(imm12) (R129). -/
  | andnImm (stl : Stl) (d a : Reg) (imm : BitVec 12)
  /-- SLL_IMM: Shift by a constant; w selects the 32-bit form (R130). -/
  | sllImm (stl : Stl) (w : Bool) (d a : Reg) (sh : BitVec 6)
  /-- SRL_IMM: Shift by a constant; w selects the 32-bit form (R130). -/
  | srlImm (stl : Stl) (w : Bool) (d a : Reg) (sh : BitVec 6)
  /-- SRA_IMM: Shift by a constant; w selects the 32-bit form (R130). -/
  | sraImm (stl : Stl) (w : Bool) (d a : Reg) (sh : BitVec 6)
  /-- ROL_IMM: Shift by a constant; w selects the 32-bit form (R130). -/
  | rolImm (stl : Stl) (w : Bool) (d a : Reg) (sh : BitVec 6)
  /-- ROR_IMM: Shift by a constant; w selects the 32-bit form (R130). -/
  | rorImm (stl : Stl) (w : Bool) (d a : Reg) (sh : BitVec 6)
  /-- SEL: x[c] ≠ 0 ? x[a] : x[b] (R131). -/
  | sel (stl : Stl) (d a b c : Reg)
  /-- BFX: Extracts len + 1 bits at pos (R132). -/
  | bfx (stl : Stl) (d a : Reg) (len pos : BitVec 6)
  /-- BFI: Inserts len + 1 bits at pos (R132). -/
  | bfi (stl : Stl) (d a : Reg) (len pos : BitVec 6)
  /-- LIW: x[d] := SEXT(L) (R133). -/
  | liw (stl : Stl) (d : Reg) (lit : Word32)
  /-- LIWH: Literal into bits [63:32] (R133). -/
  | liwh (stl : Stl) (d : Reg) (lit : Word32)
  /-- ADDPC: Address of the first word + SEXT(L) (R133). -/
  | addpc (stl : Stl) (d : Reg) (lit : Word32)
  /-- BR: Branch always (R138). -/
  | br (stl : Stl) (n : Bool) (off : BitVec 13)
  /-- BEQZ: Conditional branch (R138, Table 5.3). -/
  | beqz (stl : Stl) (n : Bool) (a : Reg) (off : BitVec 13)
  /-- BNEZ: Conditional branch (R138, Table 5.3). -/
  | bnez (stl : Stl) (n : Bool) (a : Reg) (off : BitVec 13)
  /-- BLTZ: Conditional branch (R138, Table 5.3). -/
  | bltz (stl : Stl) (n : Bool) (a : Reg) (off : BitVec 13)
  /-- BGEZ: Conditional branch (R138, Table 5.3). -/
  | bgez (stl : Stl) (n : Bool) (a : Reg) (off : BitVec 13)
  /-- BGTZ: Conditional branch (R138, Table 5.3). -/
  | bgtz (stl : Stl) (n : Bool) (a : Reg) (off : BitVec 13)
  /-- BLEZ: Conditional branch (R138, Table 5.3). -/
  | blez (stl : Stl) (n : Bool) (a : Reg) (off : BitVec 13)
  /-- BAL: Branch and link (R139). -/
  | bal (stl : Stl) (d : Reg) (off : BitVec 17)
  /-- JR: Jump to register (R140). -/
  | jr (stl : Stl) (a : Reg)
  /-- JAL: Jump to register and link (R140). -/
  | jal (stl : Stl) (d a : Reg)
  /-- SYSR: Reads a sysreg (R146). -/
  | sysr (stl : Stl) (d : Reg) (num : BitVec 12)
  /-- SYSW: Writes a sysreg (R146). -/
  | sysw (stl : Stl) (a : Reg) (num : BitVec 12)
  /-- LD_B: Plain load (R151, Table 7.2). -/
  | ldB (stl : Stl) (d a : Reg) (off : BitVec 9)
  /-- LD_BU: Plain load (R151, Table 7.2). -/
  | ldBu (stl : Stl) (d a : Reg) (off : BitVec 9)
  /-- LD_H: Plain load (R151, Table 7.2). -/
  | ldH (stl : Stl) (d a : Reg) (off : BitVec 9)
  /-- LD_HU: Plain load (R151, Table 7.2). -/
  | ldHu (stl : Stl) (d a : Reg) (off : BitVec 9)
  /-- LD_W: Plain load (R151, Table 7.2). -/
  | ldW (stl : Stl) (d a : Reg) (off : BitVec 9)
  /-- LD_WU: Plain load (R151, Table 7.2). -/
  | ldWu (stl : Stl) (d a : Reg) (off : BitVec 9)
  /-- LD_D: Plain load (R151, Table 7.2). -/
  | ldD (stl : Stl) (d a : Reg) (off : BitVec 9)
  /-- ST_B: Plain store (R153). -/
  | stB (stl : Stl) (d a : Reg) (off : BitVec 9)
  /-- ST_H: Plain store (R153). -/
  | stH (stl : Stl) (d a : Reg) (off : BitVec 9)
  /-- ST_W: Plain store (R153). -/
  | stW (stl : Stl) (d a : Reg) (off : BitVec 9)
  /-- ST_D: Plain store (R153). -/
  | stD (stl : Stl) (d a : Reg) (off : BitVec 9)
  /-- ST_Q: Plain store (R153). -/
  | stQ (stl : Stl) (d a : Reg) (off : BitVec 9)
  /-- LD_B_ACQ: Acquire load (R152). -/
  | ldBAcq (stl : Stl) (d a : Reg) (sc : Scope)
  /-- LD_BU_ACQ: Acquire load (R152). -/
  | ldBuAcq (stl : Stl) (d a : Reg) (sc : Scope)
  /-- LD_H_ACQ: Acquire load (R152). -/
  | ldHAcq (stl : Stl) (d a : Reg) (sc : Scope)
  /-- LD_HU_ACQ: Acquire load (R152). -/
  | ldHuAcq (stl : Stl) (d a : Reg) (sc : Scope)
  /-- LD_W_ACQ: Acquire load (R152). -/
  | ldWAcq (stl : Stl) (d a : Reg) (sc : Scope)
  /-- LD_WU_ACQ: Acquire load (R152). -/
  | ldWuAcq (stl : Stl) (d a : Reg) (sc : Scope)
  /-- LD_D_ACQ: Acquire load (R152). -/
  | ldDAcq (stl : Stl) (d a : Reg) (sc : Scope)
  /-- ST_B_REL: Ordered store, .rel or .ar (R154). -/
  | stBRel (stl : Stl) (ar : Bool) (sc : Scope) (a b : Reg)
  /-- ST_H_REL: Ordered store, .rel or .ar (R154). -/
  | stHRel (stl : Stl) (ar : Bool) (sc : Scope) (a b : Reg)
  /-- ST_W_REL: Ordered store, .rel or .ar (R154). -/
  | stWRel (stl : Stl) (ar : Bool) (sc : Scope) (a b : Reg)
  /-- ST_D_REL: Ordered store, .rel or .ar (R154). -/
  | stDRel (stl : Stl) (ar : Bool) (sc : Scope) (a b : Reg)
  /-- ST_Q_REL: Ordered store, .rel or .ar (R154). -/
  | stQRel (stl : Stl) (ar : Bool) (sc : Scope) (a b : Reg)
  /-- ST_B_CNT: Counted remote store (R155). -/
  | stBCnt (stl : Stl) (d a : Reg) (off : BitVec 9)
  /-- ST_H_CNT: Counted remote store (R155). -/
  | stHCnt (stl : Stl) (d a : Reg) (off : BitVec 9)
  /-- ST_W_CNT: Counted remote store (R155). -/
  | stWCnt (stl : Stl) (d a : Reg) (off : BitVec 9)
  /-- ST_D_CNT: Counted remote store (R155). -/
  | stDCnt (stl : Stl) (d a : Reg) (off : BitVec 9)
  /-- PFCH: Prefetch (R156). -/
  | pfch (stl : Stl) (a : Reg) (off : BitVec 12)
  /-- AMOSWAP: Atomic (R157, Table 7.3). -/
  | amoSwap (stl : Stl) (far dw : Bool) (ord : MemOrder) (d a b : Reg)
  /-- AMOADD: Atomic (R157, Table 7.3). -/
  | amoAdd (stl : Stl) (far dw : Bool) (ord : MemOrder) (d a b : Reg)
  /-- AMOAND: Atomic (R157, Table 7.3). -/
  | amoAnd (stl : Stl) (far dw : Bool) (ord : MemOrder) (d a b : Reg)
  /-- AMOOR: Atomic (R157, Table 7.3). -/
  | amoOr (stl : Stl) (far dw : Bool) (ord : MemOrder) (d a b : Reg)
  /-- AMOXOR: Atomic (R157, Table 7.3). -/
  | amoXor (stl : Stl) (far dw : Bool) (ord : MemOrder) (d a b : Reg)
  /-- AMOMIN: Atomic (R157, Table 7.3). -/
  | amoMin (stl : Stl) (far dw : Bool) (ord : MemOrder) (d a b : Reg)
  /-- AMOMAX: Atomic (R157, Table 7.3). -/
  | amoMax (stl : Stl) (far dw : Bool) (ord : MemOrder) (d a b : Reg)
  /-- AMOMINU: Atomic (R157, Table 7.3). -/
  | amoMinu (stl : Stl) (far dw : Bool) (ord : MemOrder) (d a b : Reg)
  /-- AMOMAXU: Atomic (R157, Table 7.3). -/
  | amoMaxu (stl : Stl) (far dw : Bool) (ord : MemOrder) (d a b : Reg)
  /-- AMOCAS: Compare and swap (R158). -/
  | amocas (stl : Stl) (far dw : Bool) (ord : MemOrder) (d a b : Reg)
  /-- FENCE: Fence (R159, R90). -/
  | fence (stl : Stl) (sc : Scope) (succ pred : BitVec 2)
  /-- ARRIVE: Barrier arrival (R26). -/
  | arrive (stl : Stl) (a : Reg) (ch : BitVec 3)
  /-- WAITB: Barrier wait (R26). -/
  | waitb (stl : Stl) (d : Reg) (ch : BitVec 3)
  /-- PHASE: Advances the phase counter (R24). -/
  | phase (stl : Stl)
  /-- QWAIT: Quiescence wait (R29). -/
  | qwait (stl : Stl) (d : Reg)
  /-- SLEEP: Sleep (R161). -/
  | sleep (stl : Stl) (a : Reg)
  /-- WANY: Waits for any channel of a mask (R26). -/
  | wany (stl : Stl) (d : Reg) (mask : BitVec 8)
  /-- FADD: Table 6.3 (R134). -/
  | fadd (stl : Stl) (rm : RMode) (d a b : Reg)
  /-- FSUB: Table 6.3 (R134). -/
  | fsub (stl : Stl) (rm : RMode) (d a b : Reg)
  /-- FMUL: Table 6.3 (R134). -/
  | fmul (stl : Stl) (rm : RMode) (d a b : Reg)
  /-- FMIN: Table 6.3 (R134). -/
  | fmin (stl : Stl) (d a b : Reg)
  /-- FMAX: Table 6.3 (R134). -/
  | fmax (stl : Stl) (d a b : Reg)
  /-- FSGN: Table 6.3 (R134). -/
  | fsgn (stl : Stl) (d a b : Reg)
  /-- FEXP2: Table 3.8 (R75). -/
  | fexp2 (stl : Stl) (d a : Reg)
  /-- FLOG2: Table 3.8 (R75). -/
  | flog2 (stl : Stl) (d a : Reg)
  /-- FRCP: Table 3.8 (R75). -/
  | frcp (stl : Stl) (d a : Reg)
  /-- FRSQ: Table 3.8 (R75). -/
  | frsq (stl : Stl) (d a : Reg)
  /-- FFMA: Fused multiply-add (R135). -/
  | ffma (stl : Stl) (d a b c : Reg)
  /-- FFMS: Fused multiply-add (R135). -/
  | ffms (stl : Stl) (d a b c : Reg)
  /-- FCMP: FP comparison (R136). -/
  | fcmp (stl : Stl) (rel : FRel) (d a b : Reg)
  /-- FCVT_I32_F32: Table 6.4 (R137). -/
  | fcvtI32F32 (stl : Stl) (rm : RMode) (d a : Reg)
  /-- FCVT_UINT32_F32: Table 6.4 (R137). -/
  | fcvtUint32F32 (stl : Stl) (rm : RMode) (d a : Reg)
  /-- FCVT_I64_F32: Table 6.4 (R137). -/
  | fcvtI64F32 (stl : Stl) (rm : RMode) (d a : Reg)
  /-- FCVT_UINT64_F32: Table 6.4 (R137). -/
  | fcvtUint64F32 (stl : Stl) (rm : RMode) (d a : Reg)
  /-- FCVT_F32_I32: Table 6.4 (R137). -/
  | fcvtF32I32 (stl : Stl) (rm : RMode) (d a : Reg)
  /-- FCVT_F32_UINT32: Table 6.4 (R137). -/
  | fcvtF32Uint32 (stl : Stl) (rm : RMode) (d a : Reg)
  /-- FCVT_F32_I64: Table 6.4 (R137). -/
  | fcvtF32I64 (stl : Stl) (rm : RMode) (d a : Reg)
  /-- FCVT_F32_UINT64: Table 6.4 (R137). -/
  | fcvtF32Uint64 (stl : Stl) (rm : RMode) (d a : Reg)
  /-- FCVT_BF16_F32: Table 6.4 (R137). -/
  | fcvtBf16F32 (stl : Stl) (rm : RMode) (d a : Reg)
  /-- FCVT_F32_BF16: Table 6.4 (R137). -/
  | fcvtF32Bf16 (stl : Stl) (d a : Reg)
  /-- FCVT_E4M3_F32: Table 6.4 (R137). -/
  | fcvtE4m3F32 (stl : Stl) (rm : RMode) (d a : Reg)
  /-- FCVT_E5M2_F32: Table 6.4 (R137). -/
  | fcvtE5m2F32 (stl : Stl) (rm : RMode) (d a : Reg)
  /-- FCVT_F32_E4M3: Table 6.4 (R137). -/
  | fcvtF32E4m3 (stl : Stl) (d a : Reg)
  /-- FCVT_F32_E5M2: Table 6.4 (R137). -/
  | fcvtF32E5m2 (stl : Stl) (d a : Reg)
  /-- VADD: Element operation (R177, Table 8.1). -/
  | vadd (stl : Stl) (t : VType) (d a b : Reg) (m : MReg)
  /-- VSUB: Element operation (R177, Table 8.1). -/
  | vsub (stl : Stl) (t : VType) (d a b : Reg) (m : MReg)
  /-- VMUL: Element operation (R177, Table 8.1). -/
  | vmul (stl : Stl) (t : VType) (d a b : Reg) (m : MReg)
  /-- VFMA: Element operation (R177, Table 8.1). -/
  | vfma (stl : Stl) (t : VType) (d a b : Reg) (m : MReg)
  /-- VMIN: Element operation (R177, Table 8.1). -/
  | vmin (stl : Stl) (t : VType) (d a b : Reg) (m : MReg)
  /-- VMAX: Element operation (R177, Table 8.1). -/
  | vmax (stl : Stl) (t : VType) (d a b : Reg) (m : MReg)
  /-- VRED: Reduction (R178). -/
  | vred (stl : Stl) (t : VType) (d a : Reg) (op : RedOp) (m : MReg)
  /-- VDOT: Dot product (R178). -/
  | vdot (stl : Stl) (t : VType) (d a b : Reg) (m : MReg)
  /-- VSQSUM: Sum of squares, float only (R178). -/
  | vsqsum (stl : Stl) (t : VType) (d a : Reg) (m : MReg)
  /-- VADD_SS: Saturating addition, .i16 and .i8 (R177). -/
  | vaddSs (stl : Stl) (t : VType) (d a b : Reg) (m : MReg)
  /-- VAND: Integer element operation (R177). -/
  | vand (stl : Stl) (t : VType) (d a b : Reg) (m : MReg)
  /-- VOR: Integer element operation (R177). -/
  | vor (stl : Stl) (t : VType) (d a b : Reg) (m : MReg)
  /-- VXOR: Integer element operation (R177). -/
  | vxor (stl : Stl) (t : VType) (d a b : Reg) (m : MReg)
  /-- VSHL: Integer element operation (R177). -/
  | vshl (stl : Stl) (t : VType) (d a b : Reg) (m : MReg)
  /-- VSHR: Integer element operation (R177). -/
  | vshr (stl : Stl) (t : VType) (d a b : Reg) (m : MReg)
  /-- VSRA: Integer element operation (R177). -/
  | vsra (stl : Stl) (t : VType) (d a b : Reg) (m : MReg)
  /-- VSUB_SS: Saturating subtraction, .i16 and .i8 (R177). -/
  | vsubSs (stl : Stl) (t : VType) (d a b : Reg) (m : MReg)
  /-- VCVT_BF16_F32: Table 8.2 (R179). -/
  | vcvtBf16F32 (stl : Stl) (rm : RMode) (d a : Reg) (m : MReg)
  /-- VCVT_F32_BF16: Table 8.2 (R179). -/
  | vcvtF32Bf16 (stl : Stl) (rm : RMode) (d a : Reg) (m : MReg)
  /-- VCVT_I32_F32: Table 8.2 (R179). -/
  | vcvtI32F32 (stl : Stl) (rm : RMode) (d a : Reg) (m : MReg)
  /-- VCVT_F32_I32: Table 8.2 (R179). -/
  | vcvtF32I32 (stl : Stl) (rm : RMode) (d a : Reg) (m : MReg)
  /-- VCVT_I16_I32: Table 8.2 (R179). -/
  | vcvtI16I32 (stl : Stl) (rm : RMode) (d a : Reg) (m : MReg)
  /-- VCVT_I8_I16: Table 8.2 (R179). -/
  | vcvtI8I16 (stl : Stl) (rm : RMode) (d a : Reg) (m : MReg)
  /-- VCVT_I32_I16: Table 8.2 (R179). -/
  | vcvtI32I16 (stl : Stl) (rm : RMode) (d a : Reg) (m : MReg)
  /-- VCVT_I16_I8: Table 8.2 (R179). -/
  | vcvtI16I8 (stl : Stl) (rm : RMode) (d a : Reg) (m : MReg)
  /-- VCMP_FLOAT: Float comparison into a mask (R181). -/
  | vcmpFloat (stl : Stl) (t : VType) (rel : FRel) (k : MReg) (a b : Reg) (m : MReg)
  /-- VCMP_INTEGER: Integer comparison into a mask (R181). -/
  | vcmpInteger (stl : Stl) (t : VType) (rel : IRel) (k : MReg) (a b : Reg) (m : MReg)
  /-- VSEL: Table 8.3 (R183). -/
  | vsel (stl : Stl) (d a b : Reg) (m : MReg)
  /-- VBCAST_32: Table 8.3 (R183). -/
  | vbcast32 (stl : Stl) (d a : Reg) (m : MReg)
  /-- VBCAST_16: Table 8.3 (R183). -/
  | vbcast16 (stl : Stl) (d a : Reg) (m : MReg)
  /-- VBCAST_8: Table 8.3 (R183). -/
  | vbcast8 (stl : Stl) (d a : Reg) (m : MReg)
  /-- VMOV: Table 8.3 (R183). -/
  | vmov (stl : Stl) (d a : Reg) (m : MReg)
  /-- VEXT_32: Table 8.3 (R183). -/
  | vext32 (stl : Stl) (d a b : Reg)
  /-- VEXT_16: Table 8.3 (R183). -/
  | vext16 (stl : Stl) (d a b : Reg)
  /-- VEXT_8: Table 8.3 (R183). -/
  | vext8 (stl : Stl) (d a b : Reg)
  /-- VPERM_32: Table 8.3 (R183). -/
  | vperm32 (stl : Stl) (d a b : Reg) (m : MReg)
  /-- VPERM_16: Table 8.3 (R183). -/
  | vperm16 (stl : Stl) (d a b : Reg) (m : MReg)
  /-- VPERM_8: Table 8.3 (R183). -/
  | vperm8 (stl : Stl) (d a b : Reg) (m : MReg)
  /-- VSLIDE_32: Table 8.3 (R183). -/
  | vslide32 (stl : Stl) (d a b : Reg) (m : MReg)
  /-- VSLIDE_16: Table 8.3 (R183). -/
  | vslide16 (stl : Stl) (d a b : Reg) (m : MReg)
  /-- VSLIDE_8: Table 8.3 (R183). -/
  | vslide8 (stl : Stl) (d a b : Reg) (m : MReg)
  /-- MAND: Mask instruction (R182). -/
  | mand (stl : Stl) (d a b : MReg)
  /-- MOR: Mask instruction (R182). -/
  | mor (stl : Stl) (d a b : MReg)
  /-- MXOR: Mask instruction (R182). -/
  | mxor (stl : Stl) (d a b : MReg)
  /-- MNOT: Mask instruction (R182). -/
  | mnot (stl : Stl) (d a : MReg)
  /-- MPOP: Number of set mask bits (R182). -/
  | mpop (stl : Stl) (d : Reg) (a : MReg)
  /-- MFIRST: Lowest set mask bit (R182). -/
  | mfirst (stl : Stl) (d : Reg) (a : MReg)
  /-- VLD: Vector load (R184). -/
  | vld (stl : Stl) (d a : Reg) (off : BitVec 12)
  /-- VST: Vector store (R184). -/
  | vst (stl : Stl) (d a : Reg) (off : BitVec 12)
  /-- VLDS_32: Element-wise access (R185, R186). -/
  | vlds32 (stl : Stl) (d a b : Reg) (m : MReg)
  /-- VLDS_16: Element-wise access (R185, R186). -/
  | vlds16 (stl : Stl) (d a b : Reg) (m : MReg)
  /-- VLDS_8: Element-wise access (R185, R186). -/
  | vlds8 (stl : Stl) (d a b : Reg) (m : MReg)
  /-- VSTS_32: Element-wise access (R185, R186). -/
  | vsts32 (stl : Stl) (d a b : Reg) (m : MReg)
  /-- VSTS_16: Element-wise access (R185, R186). -/
  | vsts16 (stl : Stl) (d a b : Reg) (m : MReg)
  /-- VSTS_8: Element-wise access (R185, R186). -/
  | vsts8 (stl : Stl) (d a b : Reg) (m : MReg)
  /-- VGTH_32: Element-wise access (R185, R186). -/
  | vgth32 (stl : Stl) (d a b : Reg) (m : MReg)
  /-- VGTH_16: Element-wise access (R185, R186). -/
  | vgth16 (stl : Stl) (d a b : Reg) (m : MReg)
  /-- VGTH_8: Element-wise access (R185, R186). -/
  | vgth8 (stl : Stl) (d a b : Reg) (m : MReg)
  /-- VSCT_32: Element-wise access (R185, R186). -/
  | vsct32 (stl : Stl) (d a b : Reg) (m : MReg)
  /-- VSCT_16: Element-wise access (R185, R186). -/
  | vsct16 (stl : Stl) (d a b : Reg) (m : MReg)
  /-- VSCT_8: Element-wise access (R185, R186). -/
  | vsct8 (stl : Stl) (d a b : Reg) (m : MReg)
  /-- VEXP2: Table 3.8 on each element (R180). -/
  | vexp2 (stl : Stl) (d a : Reg) (m : MReg)
  /-- VLOG2: Table 3.8 on each element (R180). -/
  | vlog2 (stl : Stl) (d a : Reg) (m : MReg)
  /-- VRCP: Table 3.8 on each element (R180). -/
  | vrcp (stl : Stl) (d a : Reg) (m : MReg)
  /-- VRSQ: Table 3.8 on each element (R180). -/
  | vrsq (stl : Stl) (d a : Reg) (m : MReg)
  /-- MLEASE: Takes the matrix engine lease (R192). -/
  | mlease (stl : Stl) (n : BitVec 12)
  /-- MREL: Ends the lease (R192). -/
  | mrel (stl : Stl)
  /-- MSHAPE: Sets the active bands (R194). -/
  | mshape (stl : Stl) (b : BitVec 5)
  /-- MZACC: Zeroes the working bank (R197). -/
  | mzacc (stl : Stl)
  /-- MSWAP: Exchanges the banks (R197). -/
  | mswap (stl : Stl)
  /-- MGANG: Joins or leaves a gang (R199). -/
  | mgang (stl : Stl) (a : Reg)
  /-- MWAIT_MATRIX: Waits for a matrix job (R193). -/
  | mwaitMatrix (stl : Stl) (a : Reg)
  /-- MLDW: Latches weights (R195). -/
  | mldw (stl : Stl) (i8 : Bool) (d : Reg) (ring : BitVec 3)
  /-- MMUL: Forward product (R196). -/
  | mmul (stl : Stl) (acc : Bool) (d : Reg) (ring : BitVec 3) (b c : Reg)
  /-- MMULT: Backward product (R196). -/
  | mmult (stl : Stl) (acc : Bool) (d : Reg) (ring : BitVec 3) (b c : Reg)
  /-- MRD: Reads the visible bank (R198). -/
  | mrd (stl : Stl) (d a b : Reg)
  /-- MST: Stores a row of the visible bank (R198). -/
  | mst (stl : Stl) (d a b : Reg)
  /-- CPY: Byte copy job (R202). -/
  | cpy (stl : Stl) (d a b c : Reg)
  /-- CPY2: Descriptor copy job (R203–R205). -/
  | cpy2 (stl : Stl) (d a : Reg)
  /-- CPYT: Descriptor copy job (R203–R205). -/
  | cpyt (stl : Stl) (d a : Reg)
  /-- CGTH: Descriptor copy job (R203–R205). -/
  | cgth (stl : Stl) (d a : Reg)
  /-- CDEC: Descriptor copy job (R203–R205). -/
  | cdec (stl : Stl) (d a : Reg)
  /-- CENC: Encoding copy job (R203, R205). -/
  | cenc (stl : Stl) (rm : RMode) (d a : Reg)
  /-- CSEAL: Closes the open batch (R209). -/
  | cseal (stl : Stl)
  /-- CSTAGE: Submits a stage of the static schedule (R210). -/
  | cstage (stl : Stl)
  /-- CWAIT: Waits for batches (R209). -/
  | cwait (stl : Stl) (n : BitVec 12)
  /-- RBIND: Binds or unbinds a ring (R211). -/
  | rbind (stl : Stl) (ring : BitVec 3) (a b c : Reg)
  /-- RACQ: Ring instruction (R212). -/
  | racq (stl : Stl) (d : Reg) (ring : BitVec 3)
  /-- RREL: Ring instruction (R212). -/
  | rrel (stl : Stl) (d : Reg) (ring : BitVec 3)
  /-- RSTAT: Ring instruction (R212). -/
  | rstat (stl : Stl) (d : Reg) (ring : BitVec 3)
  /-- SBIND_RING: Binds v(28+k) to a ring (R187). -/
  | sbindRing (stl : Stl) (k : BitVec 2) (ring : BitVec 3)
  /-- SBIND_ADDR: Binds v(28+k) to an address stream (R187). -/
  | sbindAddr (stl : Stl) (k : BitVec 2) (a b c : Reg)
  /-- SUNBIND: Unbinds v(28+k) (R188). -/
  | sunbind (stl : Stl) (k : BitVec 2)
  /-- MOPEN: Opens a merge window (R165). -/
  | mopen (stl : Stl) (d a : Reg)
  /-- MCLASP: Clasps a contributor (R167). -/
  | mclasp (stl : Stl) (d a b : Reg)
  /-- MZERO: Starts the next generation (R170). -/
  | mzero (stl : Stl) (d a : Reg)
  /-- MWAIT_MERGE: Waits for the commit (R169). -/
  | mwaitMerge (stl : Stl) (d a : Reg)
  /-- MSTAT: Merge counters (R171). -/
  | mstat (stl : Stl) (d a : Reg)
  /-- MPUT: Puts elements into a bezel (R166). -/
  | mput (stl : Stl) (a b c : Reg)
  /-- KRED: Bus sum (R236). -/
  | kred (stl : Stl) (wd : KWidth) (d a b c : Reg)
  /-- KMAX: Bus maximum (R236). -/
  | kmax (stl : Stl) (wd : KWidth) (d a b c : Reg)
  /-- KRBS: Block-scaled bus sum (R233, R236). -/
  | krbs (stl : Stl) (form : KrbsForm) (d a b c : Reg)
  /-- KWAIT: Waits for a bus job (R238). -/
  | kwait (stl : Stl) (d a : Reg)
  /-- KSTAT: Counters of a bus job (R239). -/
  | kstat (stl : Stl) (d a : Reg)
  /-- SPAWN: Starts a charm (R144). -/
  | spawn (stl : Stl) (d j : Reg) (off : BitVec 12)
  /-- HEXIT: Ends the context (R16, R19). -/
  | hexit (stl : Stl) (a : Reg)
  /-- HJOIN: Joins a charm (R19). -/
  | hjoin (stl : Stl) (d j : Reg)
  /-- HSTAT: Mask of live charms (R19). -/
  | hstat (stl : Stl) (d : Reg)
  /-- LOOP: Arms the hardware loop (R141). -/
  | loop (stl : Stl) (a : Reg)
  /-- RNG: The generator (R143). -/
  | rng (stl : Stl) (d a b : Reg)
  /-- ANNULLED_STEP: An annulled word of the issuing context advances its queue (R115). -/
  | annulledStep (stl : Stl)
  /-- BREAKPOINT_MATCH: An instruction at BPk reaches PC (R357). -/
  | breakpointMatch (c : CoreId) (j : CtxId) (k : Fin 4)
  /-- TRAP_ENTRY: The context enters its handler (R264). -/
  | trapEntry (c : CoreId) (j : CtxId) (t : TrapInfo)
  /-- INTERRUPT: ctx0 recognises a pending enabled interrupt (R266). -/
  | interrupt (c : CoreId)
  /-- TIMER_MATCH: WSTIME reaches TCMP (R268). -/
  | timerMatch (c : CoreId)
  /-- DOORBELL_WRITE: A write to the doorbell of a physical core (R352). -/
  | doorbellWrite (c : CoreId)
  /-- IPEND_WRITE: The issuing context writes IPEND (R268). -/
  | ipendWrite (v : Word)
  /-- STATUS_WRITE: The issuing context writes STATUS (R262). -/
  | statusWrite (v : Word)
  /-- LOOP_STATE_WRITE: The issuing context writes LC or LBLK (R147). -/
  | loopStateWrite (lblk : Bool) (v : Word)
  /-- ALLOW_WRITE: The issuing context writes ALLOW (R23). -/
  | allowWrite (v : Word)
  /-- BMASK_WRITE: The issuing context writes BMASKk (R23). -/
  | bmaskWrite (k : BitVec 3) (v : Word)
  /-- PEERMASK_WRITE: The issuing context writes PEERMASK (R44). -/
  | peermaskWrite (v : Word)
  /-- BWPHASE_WRITE: The issuing context writes BWPHASE (R56). -/
  | bwphaseWrite (v : Word)
  /-- PREEMPTION_REQUEST: The scheduler pre-empts the team bound on c (R313). -/
  | preemptionRequest (c : CoreId)
  /-- CONTEXT_STOP: A context stops for a pending request (R33). -/
  | contextStop (c : CoreId) (j : CtxId)
  /-- TEAM_SAVE: The stopped team of c is saved and unbound (R279). -/
  | teamSave (c : CoreId)
  /-- MIGRATION_REQUEST: Migration of a hot core to a cooler one is requested (R336). -/
  | migrationRequest (c target : CoreHeat)
  /-- MIGRATE_CORE: The stopped team-core moves (R337). -/
  | migrateCore (c target : CoreId)
  /-- THERMAL_CLOCK_LIMIT: A core's sensor reads; from 105 °C its clock is 1.6 GHz (R336). -/
  | thermalClockLimit (c : CoreHeat)
  /-- DIE_POWER_OFF: 115 °C: the die powers off (R336). -/
  | diePowerOff (d : DieId)
  /-- BARRIER_GENERATION_COMPLETE: The generation of c on channel k completes (R26). -/
  | barrierGenerationComplete (c : CoreId) (k : BitVec 3)
  /-- QUIESCENCE_WAVE: A wave of the team of c (R29). -/
  | quiescenceWave (c : CoreId)
  /-- STORE_DRAIN: Entry i of a store buffer drains (R86). -/
  | storeDrain (c : CoreId) (j : CtxId) (i : Nat)
  /-- LINE_WRITEBACK: Dirty bytes of an L1 line go home (R87). -/
  | lineWriteback (c : CoreId) (line : Nat)
  /-- LINE_INVALIDATE: A clean L1 line is invalidated or evicted (R87). -/
  | lineInvalidate (c : CoreId) (line : Nat)
  /-- PAGE_WALK: A walk whose result is cached (R294, R295). -/
  | pageWalk (d : DieId) (asid : BitVec 9) (root : BitVec 35) (va : Word)
  /-- ENGINE_JOB_START: The copy unit acquires the kick of a job (R92). -/
  | engineJobStart (g : ClusterId) (seq : Word32)
  /-- COPY_BEAT: The copy unit performs one beat of a job (R201). -/
  | copyBeat (g : ClusterId) (seq : Word32)
  /-- ENGINE_RING_TAKE: The engine side of a ring takes a slot (R213). -/
  | engineRingTake (c : CoreId) (ring : BitVec 3)
  /-- FAULT_RECORD_POST: The die posts its oldest waiting fault record (R276). -/
  | faultRecordPost (d : DieId)
  /-- FQDOOR_RING: The service doorbell rings (R277). -/
  | fqdoorRing (d : DieId)
  /-- LEASE_GRANT: The lease passes to a waiting core (R192). -/
  | leaseGrant (g : ClusterId)
  /-- MATRIX_COMMAND_COMPLETE: The engine completes its next command (R193). -/
  | matrixCommandComplete (g : ClusterId)
  /-- MST_BEAT: The MST at the head performs a beat (R198). -/
  | mstBeat (g : ClusterId)
  /-- GANG_DISSOLVE: The gang of the cluster dissolves (R199). -/
  | gangDissolve (g : ClusterId)
  /-- BAND_WAKE: Waking bands become usable (R330). -/
  | bandWake (g : ClusterId)
  /-- MERGE_PUT_AT_UNIT: The i-th travelling put of the die reaches the unit (R166). -/
  | mergePutAtUnit (d : DieId) (i : Nat)
  /-- MERGE_CLASP_AT_UNIT: A clasp on the window at pa is judged (R167). -/
  | mergeClaspAtUnit (d : DieId) (pa : Nat) (desc : Word)
  /-- MERGE_COMMIT: Phase two of the window at pa (R168). -/
  | mergeCommit (d : DieId) (pa : Nat)
  /-- MZERO_AT_UNIT: The unit zeroes the window at pa (R170). -/
  | mzeroAtUnit (d : DieId) (pa : Nat)
  /-- BUS_JOB_START: The port acquires its oldest kick (R236). -/
  | busJobStart (p : PortId)
  /-- KWEMAN_WINDOW: A window of a circle passes (R221). -/
  | kwemanWindow (p : PortId) (circle : CircleId) (rd : WindowReading)
  /-- FRAME_START: A frame begins; the lowest beacon read (R220, R329). -/
  | frameStart (p : PortId) (lowest : Option Word32)
  /-- KWHEEL_WRITE: The wheel register is written (R356). -/
  | kwheelWrite (p : PortId) (v : Word)
  /-- WRITER_LEAVES_SEGMENT: A writer of the circle leaves (R242). -/
  | writerLeavesSegment (p : PortId) (circle : CircleId) (idx : BitVec 5)
  /-- SEGMENT_CALIBRATION: The segment is calibrated (R355). -/
  | segmentCalibration (p : PortId) (cal : Calibration)
  /-- RECALIBRATION_REQUEST: The supervisor requests recalibration (R356). -/
  | recalibrationRequest (p : PortId) (cal : Calibration)
  /-- CARAT_OFFER: An OFFER symbol (R328). -/
  | caratOffer (mine : Bool) (lender carats term : Nat)
  /-- CARAT_ACCEPT: An ACCEPT symbol (R328). -/
  | caratAccept (mine : Bool) (offer : OfferName) (borrower : Nat)
  /-- CARAT_CONFIRM: A CONFIRM symbol (R328). -/
  | caratConfirm (readHere : Bool) (lender borrower : Nat)
  /-- LOAN_TERM_END: A loan ends (R328). -/
  | loanTermEnd (lender borrower : Nat)
  /-- INTERVAL_START: An accounting interval begins (R323, R325). -/
  | intervalStart (m : MeterReading)
  /-- ALLOWANCE_REACHED: The team of c reaches its allowance (R326). -/
  | allowanceReached (c : CoreId)
  /-- PCARAT_WRITE: PCARAT is written (R324). -/
  | pcaratWrite (v : Word)
  /-- SUPPLY_LOSS_WARNING: The supply fails (R332). -/
  | supplyLossWarning (clean : Bool)
  /-- CKPT_GO: A checkpoint starts (R353). -/
  | ckptGo
  /-- CKPT_DONE: The checkpoint ends (R353). -/
  | ckptDone (err : Bool)
  /-- QHEAD_WRITE: QHEAD is written (R305). -/
  | qheadWrite (p : PartId) (q : QueueId) (v : Word)
  /-- QCTL_WRITE: QCTL is written (R305). -/
  | qctlWrite (p : PartId) (q : QueueId) (v : Word)
  /-- QUEUE_RECORD_READ: The front-end reads the record at TAIL (R306, R309). -/
  | queueRecordRead (p : PartId) (q : QueueId)
  /-- WAIT_POLL: The front-end polls a semaphore (R308). -/
  | waitPoll (p : PartId) (q : QueueId)
  /-- WEIGHT_ACTION: The weight action of the record at the front (R311). -/
  | weightAction (p : PartId) (q : QueueId)
  /-- GRAPH_NODE_READ: The front-end reads the next graph node (R315). -/
  | graphNodeRead (p : PartId) (q : QueueId)
  /-- PLOCK_TAKE: The front-end takes PLOCK (R316). -/
  | plockTake (p : PartId) (q : QueueId)
  /-- SCHEDULE_BIND: The scheduler places the first bindable team (R312). -/
  | scheduleBind (p : PartId) (slot : Nat)
  /-- DISPATCH_WRITE: DISPATCH is written with a bind record's PA (R317). -/
  | dispatchWrite (d : DieId) (pa : Nat)
  /-- TEAM_FINISH: The finished team of c is unbound (R318). -/
  | teamFinish (c : CoreId)
  /-- LAUNCH_COMPLETION: The launch completes (R310). -/
  | launchCompletion (lid : Word32)
  /-- LAUNCH_CANCEL: The operating system cancels a launch (R310). -/
  | launchCancel (lid : Word32)
  /-- BANK_IDLE_DEEPEN: An idle bank moves deeper (R56). -/
  | bankIdleDeepen (b : BankRef) (st : BitVec 2)
  /-- BANK_WAKE: A bank finishes waking (R54). -/
  | bankWake (b : BankRef) (st : BitVec 2)
  /-- REFRESH_WINDOW: The next refresh window opens (R51). -/
  | refreshWindow
  /-- CLUSTER_GATE: A cluster without a team is gated (R59). -/
  | clusterGate (g : ClusterId)
  /-- FQCTL_WRITE: FQCTL is written (R362). -/
  | fqctlWrite (d : DieId) (v : Word)
  /-- TRCTL_WRITE: TRCTL is written (R362). -/
  | trctlWrite (d : DieId) (v : Word)
  /-- CGCTL_WRITE: CGCTL is written (R362). -/
  | cgctlWrite (d : DieId) (v : Word)
  /-- HUB_REGISTER_WRITE: A register at a BAR0 offset is written (R352, R362). -/
  | hubRegisterWrite (off : Nat) (v : Word)
  /-- COUNTER_GRID_STORE: The counter grid is stored (R360). -/
  | counterGridStore (d : DieId)
  /-- EOLH_UPDATE: EOLH is recomputed (R361). -/
  | eolhUpdate (d : DieId)
  /-- DBGCTL_HALT: HALT is set (R358). -/
  | dbgctlHalt (c : CoreId)
  /-- DBGCTL_RESUME: HALT is cleared (R358). -/
  | dbgctlResume (c : CoreId)
  /-- DBGCTL_STEP: STEP is set for a context (R358). -/
  | dbgctlStep (c : CoreId) (j : CtxId)
  /-- DBGCTL_ATTACH: ATTACH is set (R357). -/
  | dbgctlAttach (c : CoreId)
  /-- CORRECTED_ERROR: A corrected error is counted (R283). -/
  | correctedError (d : DieId) (k : Fin 7)
  /-- UNCORRECTABLE_ERROR: A sector or line is poisoned (R284, R285). -/
  | uncorrectableError (pl : ErrorPlace)
  /-- REGISTER_UNCORRECTABLE: A register error (R286). -/
  | registerUncorrectable (c : CoreId) (j : CtxId)
  /-- LINK_CRC_REPLAY: A flit is replayed (R349). -/
  | linkCrcReplay (d : DieId) (l : Nat)
  /-- LANE_SHED: A link halves its width (R350). -/
  | laneShed (d : DieId) (l : Nat)
  /-- LANE_RESTORE: A link returns to full width (R350). -/
  | laneRestore (d : DieId) (l : Nat)
  /-- HOST_READ: The host reads through BAR2, or a hub register (R351, R352). -/
  | hostRead (pa n : Nat)
  /-- HOST_WRITE: The host writes through BAR2, plainly or by an atomic (R316, R351). -/
  | hostWrite (pa : Nat) (data : HostData)
  /-- PACKAGE_RESET: The package leaves reset and boots (R354). -/
  | packageReset (plan : BootPlan)
  /-- SLEEP_TIMEOUT: A sleeping context resumes (R161). -/
  | sleepTimeout (c : CoreId) (j : CtxId)
  /-- DIE_STARTS_AGAIN: A powered-off die restarts (R51). -/
  | dieStartsAgain (d : DieId)
  deriving DecidableEq, Repr

end Sys2Proof
end

