-- ==== Sys2Proof/Config.lean ====
section
/-! DEFINITION. What the spec leaves open: constants without a body, so that no proof can see a value of theirs. Each is
applied to the step counter `State.free` (a fresh value at each step) or to the operands it depends on. -/

namespace Sys2Proof

/-- Nanoseconds that pass in the n-th step (log 6): the spec times no step. In deterministic mode WSTIME is derived from the slot clock
(Table 2.5), by a rule that the spec does not give: the free time stands for it too (log 114). -/
opaque Config.stepNs : Nat → Nat
/-- Core cycles beyond one that pass at the n-th issue (R359's cycle count; log 6). -/
opaque Config.stallCycles : Nat → Nat
/-- Whether a read that comes before its producer's latency under SCHK = 0 returns the old value (R120; log 7): step, register. -/
opaque Config.earlyReadOld : Nat → Nat → Bool
/-- The home slice of a line: "a fixed function of PA[51:8]" (R49; log 11). -/
opaque Config.homeSlice : Nat → Fin 48
/-- Whether a fetch that meets an unordered code store returns the cached old word (R275; log 12). -/
opaque Config.fetchOld : Nat → Nat → Bool
/-- Whether PFCH fills its sector (R156; log 13). -/
opaque Config.prefetchFills : Nat → Bool
/-- Predicted hours to end of life (R361; log 14): die, step. -/
opaque Config.hoursToEnd : Nat → Nat → Word32
/-- Whether voltage, temperature and activity are those of the last recomputation of EOLH (R361; log 14): die, step. -/
opaque Config.conditionsHold : Nat → Nat → Bool
/-- What the meters and the light deliver for the interval that ends in a step (R323, R325; log 26). -/
opaque Config.meterReading : Nat → MeterReading
/-- Flits sent on a link and channel since the grid was last counted (R360; log 15): die, entry, step. -/
opaque Config.flits : Nat → Nat → Nat → Word32
/-- Cycles stalled on a link and channel since then (R360; log 15): die, entry, step. -/
opaque Config.stalls : Nat → Nat → Nat → Word32
/-- Entries of one counter grid store: links times virtual channels of a die (R360; log 15). -/
opaque Config.gridEntries : Nat
/-- The safe-tier address of the supply-loss marker, "set by the firmware" (R332; log 16). -/
opaque Config.markerAddress : Nat
/-- Which of the cached translations of one page an access takes when several pass (R292, R297; log 17): step. -/
opaque Config.tlbPick : Nat → Nat
/-- Entry i of a launch's static copy schedule for a team core and stage (R210): form code of R203, rounding mode and
descriptor address, none where the entry is not due there. The spec gives no layout of an entry (log 22): launch, team core,
stage, entry. -/
opaque Config.scheduleEntry : Nat → Nat → Nat → Nat → Option (Nat × Nat × Word)
/-- SEQ of a fault record of kind 2, which Table 15.7 does not state (log 19). -/
opaque Config.seqOfKind2 : Nat → Word32
/-- Whether a port's receive staging has no room left beside results it holds (R222, R279; log 25): step, bytes held. -/
opaque Config.stagingFull : Nat → Nat → Bool
/-- Whether a plain load that issues in a step is performed later (R84, R85; log 4): step. -/
opaque Config.loadLater : Nat → Bool
/-- Whether an engine's write stays in its store buffer for a while (R81, R93; log 4): step. -/
opaque Config.engineWaits : Nat → Bool
/-- Whether the header that an issued word leads to is consumed only before the next issue (R30; log 87): step. -/
opaque Config.headerLater : Nat → Bool
/-- Whether an access to a line of LPDDR misses the L2 and reaches its rank (R49, R51; log 52): step, line. -/
opaque Config.l2Misses : Nat → Nat → Bool
/-- Energy in µJ that a team draws after the last interval that the meters have reported of it (R327; log 26): step. -/
opaque Config.tailEnergy : Nat → Nat
/-- Energy in µJ that a team has drawn so far in the interval in progress, banks apart (R326; log 118): step, launch, team. -/
opaque Config.drawnSoFar : Nat → Nat → Nat → Nat
/-- Whether the package's ceiling allows a step up of the tile clock (R329; log 6): step. -/
opaque Config.ceilingAllows : Nat → Bool
/-- Whether a checkpoint meets a failed CXL write (Table 21.3; log 35): step. -/
opaque Config.ckptFails : Nat → Bool
/-- Offset in a CXL port's window of 2^48 bytes at which its quarter of the checkpoint image, 192 GiB, begins (R353; log 35): port. -/
opaque Config.persistBase : Nat → Fin 281268818280448
/-- UNIT of a fault record of kind 7, which Table 15.7 does not state (log 19). -/
opaque Config.unitOfKind7 : Nat → Word

end Sys2Proof
end

