-- ==== Sys2Proof/Machine/State.lean ====
section
/-! DEFINITION. The state of the package, as plain data: one structure per agent of the spec, each field with the rule that
names it. Sparse stores are lists of (key, value) pairs, keys strictly rising, no value equal to the default. -/

namespace Sys2Proof.Machine

/-- A sparse map from natural numbers: keys strictly rising, no entry equal to the default of the map. -/
abbrev SMap (α : Type) := List (Nat × α)

/-! ### A context -/

/-- One entry of the PC queue (R114): an instruction address and the header of the block it stands in. -/
structure QSlot where
  addr : Word
  hdr  : Word
  deriving DecidableEq, Repr, Inhabited

/-- Kinds of a stream binding (R187). -/
inductive StreamKind | unbound | ring | addr
  deriving DecidableEq, Repr, Inhabited

/-- Directions of a stream binding (R189). -/
inductive StreamDir | unset | source | sink | update
  deriving DecidableEq, Repr, Inhabited

/-- The binding of one of v28–v31 (R187–R190). -/
structure Stream where
  kind   : StreamKind
  dir    : StreamDir
  pos    : Word32        -- 64-byte groups popped, pushed or updated
  count  : Word32        -- address stream: number of groups
  base   : Word
  stride : Word
  ring   : BitVec 3
  off    : Nat           -- byte offset within the current slot; meaningful while `holds`
  holds  : Bool          -- the binding holds a ring slot
  out    : Bool          -- that slot is the one at HEAD, taken for a push
  made   : Nat           -- the region in which ctx0 bound it, as `epoch` numbers them (R190; model's own)
  deriving DecidableEq, Repr, Inhabited

/-- The region record of R30, with the LIVE word of the region's header and the stream bindings at RSTART (R190). -/
structure Region where
  npc     : QSlot
  nnpc    : QSlot
  nul     : BitVec 2
  lc      : Word
  lblk    : Word
  srctr   : Word32
  live    : Word32
  streams : Vector Stream 4
  deriving DecidableEq, Repr, Inhabited

/-- Where the bytes of an access stand once it is checked and translated (R38, R52): translated memory at a physical
address, a physical core's array, or a die's weight store. -/
inductive Place
  | mem (pa : Nat) (uncached : Bool)
  | array (c : CoreId) (off : Nat)
  | weight (d : DieId) (off : Nat)
  deriving DecidableEq, Repr, Inhabited

/-- Who makes an access: the core, its context, privilege and address space, as they stood at submission (R43, R294). -/
structure Who where
  core : CoreId
  ctx  : CtxId
  priv : Bool
  asid : BitVec 9
  root : BitVec 35
  lid  : Word32
  team : Nat
  lc   : BitVec 10
  deriving DecidableEq, Repr, Inhabited

/-- A cached entry of a TLB or walker cache (R295): a leaf or a table entry as read, tagged with its address space. -/
structure TlbEntry where
  asid  : BitVec 9
  vbase : Nat                  -- first address covered
  size  : Nat                  -- bytes covered
  level : Nat
  entry : Word
  deriving DecidableEq, Repr, Inhabited

/-- An entry of an engine hart's store buffer (T4.1): a write of whole bytes not yet performed (R93). -/
structure HartStore where
  place : Place
  bytes : List Byte
  job   : Word32   -- the copy job whose beat it is: its next beat reads after the write is performed (R201); 0 for other harts
  deriving DecidableEq, Repr, Inhabited

/-- Where a load's result goes: x[d], extended, or element `i` of width `w` of v[d]. -/
inductive LoadDest
  | x (d : Reg) (signed : Bool)
  | lane (d : Reg) (w i : Nat)
  deriving DecidableEq, Repr, Inhabited

/-- A plain load that has issued and is performed later (R84, R85). Until then its register shows the value that the load would
have had at its issue, which no instruction can read: it is performed first (log 4). -/
structure LateLoad where
  place : Place
  n     : Nat
  dest  : LoadDest
  deriving DecidableEq, Repr, Inhabited

/-- An entry of a store buffer (T4.1): a store not yet drained, or a fence that orders later accesses (R90). `epoch` numbers
the region it was issued in, from 1; 0 stands for S mode (log 21). `pin` is the cached translation that a store accepted into the
buffer keeps (R298, R303). -/
inductive SbItem
  | store (place : Place) (bytes : List Byte) (rel : Bool) (scope : Scope) (counted : Bool) (epoch : Nat)
      (pin : Option TlbEntry)
  | fence (pred succ : BitVec 2) (scope : Scope) (epoch : Nat)
  deriving DecidableEq, Repr, Inhabited

/-- A result whose latency has not passed (R119): the register (0–31 x, 32–63 v, 64–71 m), its value before the producer
and the cycle at which it is due. -/
structure Inflight where
  reg : Nat
  old : VWord
  due : Nat
  deriving DecidableEq, Repr, Inhabited

/-- What an instruction at PC that has issued and is not complete has seen so far (R29, R161, R169, R170, R199, R272). -/
inductive Wait
  | none
  | sleep (deadline : Nat) (woken : Bool)
  | qwait (last : Option Word32) (result : Option Word32)
  | merge (pa : Nat) (gen : Word32) (born : Nat)  -- the window, the generation waited for and the window's opening
  | zero (pa : Nat) (elem : Nat)   -- an MZERO whose unit has zeroed the total's elements below `elem` (R170)
  | wfi                            -- a WFI (R272)
  deriving DecidableEq, Repr, Inhabited

/-- Whether a context issues; the stop kinds are those of Table 15.8 (R18, R33, R267). -/
inductive RunState
  | off                      -- not live (stop kind 0)
  | on
  | discarded                -- stop kind 1
  | atHeader                 -- stop kind 2
  | atWait                   -- stop kind 3
  | dead                     -- stopped for good: double trap, power stop, end of the launch
  deriving DecidableEq, Repr, Inhabited

/-- A context of a core (R17). -/
structure Ctx where
  run     : RunState
  x       : Vector Word 32       -- x0 is never written (R60)
  pc      : QSlot
  npc     : QSlot
  nnpc    : QSlot
  nul     : BitVec 2             -- R114
  lc      : Word
  lblk    : Word
  rstart  : Word                 -- Table 6.8
  region  : Region
  status  : Word                 -- Table 15.2
  epc     : Word
  enpc    : Word
  ennpc   : Word
  enul    : BitVec 2
  ecause  : Word
  eval    : Word
  tvec    : Word
  savedQ  : Vector QSlot 3       -- the queue saved at the last trap, with its headers (model's own; log 8)
  sscratch : Word                -- Table 15.5
  elc     : Word
  elblk   : Word
  erst    : Word
  asid    : BitVec 9             -- Table 16.1
  root    : BitVec 35
  fflags  : BitVec 5             -- Table 3.3
  cvtovf  : Bool
  srkey   : Word32
  srctr   : Word32
  bankqSel : BitVec 3            -- Table 2.9
  exitVal : Word                 -- R19
  arrived : Vector Nat 8         -- arrivals since RSTART, per channel (R34)
  phased  : Nat                  -- PHASE advances since RSTART
  credit  : Vector Nat 8         -- discard credits per channel
  phaseCredit : Nat
  sbuf    : List SbItem          -- the store buffer, oldest first
  late    : List LateLoad        -- loads issued and not yet performed, oldest first (R84, R85)
  epoch   : Nat                  -- regions begun, to tell the region a buffered store belongs to (model's own; log 21)
  inflight : List Inflight
  cyc     : Nat                  -- Σ (1 + STL) of the context's issues (R119)
  wait    : Wait
  trapDue : Option Word          -- a TRAP has completed; its Trap is raised at this boundary (R270): literal and address
  trapLit : BitVec 5
  powerStop : Bool               -- Power Stop is due (R326)
  powerDone : Bool               -- Power Stop has been taken: the context stops at its ERET (R326)
  rsDue   : Bool                 -- the header of the region just begun counts as consumed only at the boundary before its first word (R33; log 87)
  stopHere : Bool                -- the region just begun ended a non-discardable stretch with a stop pending (R33)
  openJobs : List Word32         -- the open batch: sequence numbers of copy jobs (R209)
  batches : List (List Word32)   -- the sealed unfinished batches, oldest first
  ringsHeld : List (Nat × Bool)  -- rings whose slot this context holds, and whether it was acquired since RSTART (R212)
  bpPass  : Bool                 -- the debugger lets the next instruction pass its match (R358)
  lastPc  : Option Word          -- PC of the context's previous trace record (R359)
  deriving DecidableEq, Repr, Inhabited

/-! ### A core -/

/-- A byte of an L1 line (T4.1): its value and, when dirty, its stamp. -/
structure L1Byte where
  val   : Byte
  dirty : Option Nat
  deriving DecidableEq, Repr, Inhabited

/-- A line of an L1 (R47): its line number (address / 256), its bank and the valid bytes by offset. -/
structure L1Line where
  line  : Nat
  bank  : Nat
  bytes : SMap L1Byte
  deriving DecidableEq, Repr, Inhabited

/-- A ring of a core (R211–R213). -/
structure Ring where
  bound   : Bool
  base    : Nat            -- scratchpad offset
  slot    : Nat            -- slot size in bytes
  count   : Nat
  side    : Bool           -- SIDE: the core produces
  free    : Nat
  filled  : Nat
  head    : Nat
  tail    : Nat
  held    : Bool           -- HELD: a context holds a slot
  strm    : Bool           -- STRM: bound to a stream register
  rel     : Nat            -- stamp of the core's last release of a slot (R88, R212)
  prod    : Option (Word32 × Nat)  -- the copy job that holds the slot at HEAD, and the bytes of it already written
  cons    : Option Nat     -- the matrix engine holds the slot at TAIL; the bytes of it already read
  deriving DecidableEq, Repr, Inhabited

/-- The team bound on a core, from its bind record (Table 17.6). -/
structure Binding where
  lid    : Word32
  team   : Nat
  tci    : Nat
  n      : Nat
  bindPa : Nat
  bindAt : Nat             -- WSTIME at which it was bound (R325)
  asid   : BitVec 9
  root   : BitVec 35
  save   : Word
  l2f    : Nat
  det    : Bool
  deriving DecidableEq, Repr, Inhabited

/-- A pending stop of a core's contexts (R33). -/
inductive StopReq | none | preempt | migrate (target : CoreId)
  deriving DecidableEq, Repr, Inhabited

/-- What is addressed to a halted core and waits for it (R358). -/
inductive DebugEvent
  | door
  | generation (k : BitVec 3) (andV orV : Bool) (members : List (Nat × Nat))
  | stop (r : StopReq)
  deriving DecidableEq, Repr, Inhabited

/-- The debug module of a core (Table 21.5). -/
structure Debug where
  halt    : Bool
  step    : Bool
  attach  : Bool
  ctx     : BitVec 4
  bp      : Vector Word 4
  wp      : Vector Word 4
  wpa     : Vector Word 4
  queued  : List DebugEvent -- what is addressed to the core while it is halted, oldest first (R358)
  deriving DecidableEq, Repr, Inhabited

/-- A physical core. -/
structure Core where
  ctxs    : Vector Ctx 11
  v       : Vector VWord 32        -- R174
  m       : Vector Word 8          -- m0 reads all ones and is never written
  streams : Vector Stream 4        -- v28–v31
  lcore   : BitVec 10              -- Table 1.4
  lclus   : BitVec 7
  domcl   : BitVec 8
  domdie  : Word32
  dompkg  : BitVec 4
  phase   : Word32
  allow   : Vector Byte 3          -- ALC, ALD, ALP
  bmask   : Vector Word 8
  qsent   : Word32
  qrecv   : Word32
  peermask : Word                  -- Table 2.2
  bwph    : BitVec 2               -- Table 2.7
  bwfloor : BitVec 2
  kcfg    : Word                   -- Table 10.1
  kretry  : BitVec 3               -- Table 10.2
  door    : Bool                   -- IPEND.DOOR
  ienab   : BitVec 2
  tcmp    : Word
  arr     : BitVec 8               -- barrier channels (R26)
  ready   : BitVec 8
  vote    : BitVec 8
  resAnd  : BitVec 8
  resOr   : BitVec 8
  start   : BitVec 3
  arrStamp : Vector Nat 8          -- stamp of each pending arrival (R94)
  genMembers : Vector (List (Nat × Nat)) 8  -- cores of the last generation and the stamps of their arrivals (R94)
  rings   : Vector Ring 8
  grant   : Nat                    -- G of R45
  l1k     : Nat                    -- K of R45
  array   : SMap Byte              -- scratchpad bytes, 0 where unlisted (R46)
  arrayPoison : List Nat           -- poisoned 64-byte sectors (R284)
  l1      : List L1Line            -- most recently used first (R47)
  l1Poison : List Nat              -- poisoned 64-byte sectors held in the L1
  stamp   : Nat                    -- stamp counter (T4.1)
  releases : List (Nat × Scope)    -- release list (T4.1)
  icache  : SMap Word32            -- fetched words by physical address (R275)
  fetchPoison : List Nat           -- poisoned fetched lines (R285)
  power   : BitVec 80              -- states of the 40 banks, 2 bits each (Table 2.6)
  lastUse : SMap Nat               -- WSTIME of the last access of each bank (R56)
  team    : Option Binding
  everBound : Bool                 -- R55
  slot    : Word                   -- SLOT entry (Table 17.7)
  finished : Bool                  -- ctx0 has executed HEXIT (R16)
  stage   : BitVec 16              -- R210
  stageDone : Nat                  -- entries of the stage already submitted by an unfinished CSTAGE (model's own)
  stopReq : StopReq
  frozen  : Bool                   -- the window is frozen for a migration (R337)
  leaseSaved : Option (Nat × Nat)  -- a lease given up at a stop: count and counts used (R192)
  paused  : Bool                   -- paused for carats (R326)
  temp    : Nat                    -- the sensor's last reading in steps of 0.5 °C (R336)
  hot     : Bool                   -- held at 1.6 GHz (R336)
  last    : CtxId                  -- the context that issued last (R21)
  cycles  : Nat                    -- core cycles (R359)
  traceCyc : Nat                   -- core cycle of the previous trace record
  dbg     : Debug
  deriving DecidableEq, Repr, Inhabited

/-! ### A cluster's engines -/

/-- Operations of the matrix engine (R194–R199). -/
inductive MOp
  | shape (b : Nat)
  | ldw (i8 : Bool) (ring : BitVec 3)
  | mul (back acc : Bool) (ring : BitVec 3) (row0 rows : Nat)
  | zacc
  | st (ea : Word) (row : Nat) (beat : Nat)
  | leave (before : List (Nat × Word32))  -- cluster and number of the gang's commands accepted before it
  deriving DecidableEq, Repr, Inhabited

/-- An accepted command (R193). -/
structure MCmd where
  seq : Word32
  op  : MOp
  who : Who
  stamp : Nat              -- stamp of the submission (R92)
  started : Bool           -- its kick has been acquired (R92)
  buf : List Byte          -- stream bytes taken from its ring so far (R195, R196, R213)
  ahead : List (Nat × Word32) -- a ganged command: cluster and number of its gang's commands accepted before it (R199)
  suspended : Bool         -- an MST waits for fault service (R198, R208)
  deriving DecidableEq, Repr, Inhabited

/-- The matrix engine of a logical cluster (Table 9.1, R192, R193, R199). -/
structure Engine where
  w       : SMap (BitVec 16)   -- W[k][n] at k × 128 + n; zero where unlisted
  int8    : Bool               -- FMT
  bands   : Nat
  wb      : SMap Word32        -- row × 128 + word
  vb      : SMap Word32
  wPoison : List Nat           -- poisoned 64-byte sectors (R283, R284) of W, four a row; of the two banks, eight a row
  wbPoison : List Nat
  vbPoison : List Nat
  strip   : Option (BitVec 2)  -- gang
  joining : Bool               -- an MGANG waits for the others
  cseq    : Word32
  seq     : Word32             -- last sequence number given
  queue   : List MCmd
  holder  : Option CoreId      -- the lease
  count   : Nat
  used    : Nat                -- counts used of the lease
  waiting : List Nat           -- cores waiting in MLEASE
  lastGrant : Nat              -- core-in-cluster last granted
  wakingBands : Bool           -- R330
  owner   : Option Word32      -- the launch whose state the engine holds (R282)
  deriving DecidableEq, Repr, Inhabited

/-- Forms of a copy job (R202, R203). -/
inductive CopyForm | cpy | cpy2 | cpyt | cgth | cdec | cenc
  deriving DecidableEq, Repr, Inhabited

/-- A copy job (R201–R208). Before the start `desc` is zero for the descriptor forms. -/
structure CopyJob where
  seq     : Word32
  form    : CopyForm
  who     : Who
  stamp   : Nat              -- stamp of the submission (R92)
  started : Bool
  suspended : Bool
  mode    : RMode            -- CENC
  key     : Word32           -- CENC.sr: SRKEY at submission (R67)
  ctr     : Word32           -- CENC.sr: SRCTR at submission (R205)
  capture : Option (Word32 × Word32) -- CENC.sr: ROWS and RLEN read at issue (R203)
  descVa  : Word
  desc    : BitVec 512       -- Table 9.4; for CPY destination, source and count are placed in DST, SRC and ROWS
  row     : Nat              -- position in the reference program
  idx     : Nat
  ovf     : Nat
  rowOvf  : Bool             -- the row in progress has overflowed
  buffer  : List Byte        -- CPYT: the row read; CGTH: the row's index (R204)
  status  : Nat              -- STATUS of Table 9.5 once the rows are done; 0 while it runs
  deriving DecidableEq, Repr, Inhabited

/-- A logical cluster of the package: die × 32 + cluster-in-die. -/
structure Cluster where
  engine  : Engine
  jobs    : List CopyJob       -- in order of acceptance
  copySeq : Word32             -- last sequence number given (R201)
  copyBuf : List HartStore     -- store buffers of the copy unit and of the matrix engine, oldest first (T4.1)
  matBuf  : List HartStore
  gated   : Bool               -- R59; by physical cluster
  deriving DecidableEq, Repr, Inhabited

/-! ### A die -/

/-- A merge put on its way to the unit (R166), with the translation of its window that it pins (R298). -/
structure MPut where
  who  : Who
  pa   : Nat
  pin  : Option TlbEntry
  desc : Word
  vals : List Word32
  deriving DecidableEq, Repr, Inhabited

/-- An open window as its merge unit holds it (R165–R170); `gen`, `state` and the counters are also written at the home. -/
structure MWin where
  pa      : Nat
  who     : Who
  n       : Nat
  g       : Nat
  lim     : Word32
  total   : Word
  gen     : Word32
  state   : BitVec 2
  nan     : Bool
  sat     : Bool
  abandon : Bool
  scaled  : Bool
  late    : Word32
  rej     : Word32
  commits : Word32
  clasped : List Nat           -- contributors clasped this generation
  bezel   : SMap Word32        -- contributor × g + element; +0 where unlisted
  bezelPoison : List Nat       -- poisoned 64-byte sectors of the staging (R283, R284)
  elem    : Nat                -- element at which a suspended commit resumes
  suspended : Bool
  ended   : Bool               -- the commit of this generation ended on a refused element (R168)
  zeroer  : Option (CoreId × CtxId)  -- whose MZERO is being performed, while that context waits in it (R170)
  zeroPin : Option TlbEntry    -- the translation of the window that it pins (R298)
  born    : Nat                -- the step at which it was opened (model's own; R169)
  deriving DecidableEq, Repr, Inhabited

/-- A record of the fault queue (Table 15.7). -/
structure FaultRec where
  va    : Word
  kind  : BitVec 3
  cause : BitVec 4
  asid  : BitVec 9
  lc    : BitVec 10
  seq   : Word32
  unit  : Word
  ref   : Nat                  -- what the record is about where SEQ does not say it: a window's address (model's own)
  deriving DecidableEq, Repr, Inhabited

/-- A die-to-die link (R349, R350). -/
structure Link where
  width   : Nat                -- data lanes in use
  replays : Nat
  deriving DecidableEq, Repr, Inhabited

/-- A physical tile die: shared units and the registers of Table 21.8. -/
structure Die where
  wins     : List MWin          -- open merge windows
  puts     : List MPut          -- travelling puts, oldest first
  mergeBuf : List HartStore     -- store buffer of the merge unit (T4.1)
  weights  : SMap Byte          -- weight store (R50)
  marks    : BitVec 64          -- holds-weights marks
  weightPoison : List Nat
  l2Power  : BitVec 96          -- 48 slices
  wPower   : BitVec 128         -- 64 weight banks
  rankPower : BitVec 48         -- 24 ranks, 2 × channel + rank
  lastUse  : SMap Nat           -- WSTIME of the last access: slices 0–47, weight banks 64–127, ranks 128–151
  l2Floor  : Nat                -- F (R333)
  tlb      : List TlbEntry      -- TLBs and walker caches of the die
  rankuse  : BitVec 24
  defective : Bool              -- marked defective at boot (Table 21.4)
  badChannels : BitVec 12
  busy     : Bool               -- DISPATCH.BUSY: the dispatch in DISPATCH has not bound its team yet (R317)
  dispatchWaits : List Nat      -- values written to DISPATCH while BUSY = 1, oldest first
  dispatch : Word
  bindbase : Word
  fqbase   : Word
  fqsz     : BitVec 5
  fqhead   : BitVec 16
  fqtail   : BitVec 16
  fqdoor   : Bool
  faults   : List FaultRec      -- waiting to be posted
  posted   : List (Nat × FaultRec × Bool)  -- posted, from TAIL on: index, record, acted on
  tren     : Bool
  trsz     : BitVec 5
  trdrop   : Word32
  trbase   : Word
  trhead   : Word32
  trtail   : Word32
  trsel    : Vector Word 4
  cgbase   : Word
  cgen     : Bool
  cgsz     : BitVec 5
  cghead   : Word32
  cgNext   : Nat                -- WSTIME of the next store of the grid (R360)
  grid     : SMap (Word32 × Word32)  -- flits sent and cycles stalled, by link and channel (R360)
  eolh     : Word32
  eolNext  : Nat                -- WSTIME of the next recomputation (R361)
  errs     : Vector (Word32 × Word32) 7  -- CE, UE
  links    : SMap Link           -- by link number; full width where unlisted
  powered  : Bool
  mgmtDoor : Bool                -- the management core's doorbell has been rung
  deriving DecidableEq, Repr, Inhabited

/-! ### A Kweman port -/

/-- The operations of the bus (Table 10.9). -/
inductive BusOp
  | kred (wd : KWidth)
  | kmax (wd : KWidth)
  | krbs (form : KrbsForm)
  deriving DecidableEq, Repr, Inhabited

/-- A bus job (R236–R239). -/
structure BusJob where
  seq     : Word32
  who     : Who
  op      : BusOp
  n       : Nat
  src     : Word
  dst     : Word
  stamp   : Nat               -- of the kick
  cfg     : Word              -- KCFG acquired at the kick (R242)
  retry   : Nat               -- KRETRY.N at submission (R218)
  started : Bool
  num     : Option Nat        -- operation number on its circle (R219)
  desc    : Option (Word × Word × Word32)  -- KRBS: MANT, SCALE and LIM, once read (Table 10.10)
  done    : List Nat          -- indices of finished units
  named   : Nat               -- next unit to be given a window (R222)
  next    : Nat               -- next unsent unit
  staged  : SMap (List Nat)   -- operand patterns of each staged unit
  scales  : List Nat          -- KRBS: this writer's scale bytes
  mants   : Option (List Int) -- KRBS with .BND: this writer's mantissas, once bounded
  exps    : SMap Nat          -- KRBS: committed E* by block
  replays : SMap Nat          -- per unit, counted by the anchor
  resent  : Nat               -- REPLAYS of KSTAT
  holds   : Nat
  gap     : Nat               -- empty windows since the last unit
  guardf  : Nat
  ovf     : Nat
  scaled  : Bool
  elems   : Nat
  status  : Nat               -- STATUS of R238; 0 while it runs
  reason  : Nat               -- of Table 10.11
  ghost   : Bool              -- the job has ended with ABORT; its operation is still followed on the circle (R237)
  suspended : Bool
  pendingOut : List (Word × List Byte) -- results held at the port (R279)
  deriving DecidableEq, Repr, Inhabited

/-- What a port knows of one window in flight (R221–R231). -/
structure WinRec where
  w      : Nat
  carry  : Bool               -- HOLD read as 0
  unit   : Option (Nat × Nat) -- operation and unit carried
  passed : Bool               -- own guard
  result : List Int           -- receive staging
  nak    : Bool               -- anchor: NAK seen
  deriving DecidableEq, Repr, Inhabited

/-- What a port lit in the window that passed last (R222–R230). -/
structure Lit where
  hold    : Bool
  unit    : List Nat          -- offsets lit in the unit
  nak     : Bool
  verdict : Option (BitVec 2)
  deriving DecidableEq, Repr, Inhabited

/-- One circle as a port runs it. -/
structure Circle where
  cfg    : Option Word        -- the configuration its positions are numbered from, LOST apart (R217, R220)
  pos    : Nat                -- position at which the next window begins (R220, R221)
  frames : Nat                -- frames that have begun for the circle since
  win    : Nat                -- next window
  wins   : List WinRec
  resend : List (Nat × Nat)   -- units awaiting resend, oldest first
  nextOp : Nat                -- next operation number
  lost   : Bool
  lit    : Lit
  aborted : List Nat          -- operations this member has aborted under reasons 2–4 (R222, R237)
  deriving DecidableEq, Repr, Inhabited

/-- A Kweman port and what it knows of its segment (R216–R239, R355, R356). -/
structure Port where
  attached : Bool             -- attached to a segment and calibrated
  leader  : Bool
  limit   : Nat               -- L
  lag     : Nat
  turn    : Nat
  wheel   : Word              -- frame wheel in force
  wheelNext : Option Word     -- a wheel sent and not yet taken
  frame   : Nat
  margins : List Nat
  recal   : Option Calibration
  circles : Vector Circle 16
  jobs    : List BusJob       -- outstanding, in order of submission
  buf     : List HartStore    -- store buffer of the port's engine (T4.1)
  seq     : Word32            -- the next job's sequence number (R238)
  wrapped : Bool              -- the numbers have passed 2^32 (model's own; R238)
  ended   : List BusJob       -- the 256 most recently ended, newest first
  members : SMap (BitVec 32)  -- per circle, the writer indices known to have left
  lowest  : Option Word32     -- lowest beacon of the last frame
  beacon  : Option Word32     -- beacon lit
  deriving DecidableEq, Repr, Inhabited

/-! ### The hub -/

/-- Progress of a graph launch at its front-end (R315, R316). -/
structure Graph where
  lid    : Word32             -- the graph launch
  nn     : Nat
  nodes  : Word
  node   : Nat                -- next node to read
  prev   : Option Word32      -- launch of the node read last
  deriving DecidableEq, Repr, Inhabited

/-- What a front-end is doing with the record at its front (R306–R316). -/
inductive FrontEnd
  | idle
  | wait (lid : Word32) (j : Nat) (at_ : Nat)      -- polling: failed polls, time of the next
  | action (lid : Word32) (die : Nat) (bank : Nat) -- weight action in progress
  | header (lid : Word32)                          -- a graph record whose header is to be read
  | lock (lid : Word32) (j : Nat) (at_ : Nat)      -- waiting for PLOCK
  deriving DecidableEq, Repr, Inhabited

/-- A launch queue (Table 17.1). -/
structure Queue where
  en    : Bool
  sz    : BitVec 4
  base  : Word
  head  : Word32
  tail  : Word32
  front : FrontEnd
  graph : Option Graph
  deriving DecidableEq, Repr, Inhabited

/-- A launch the front-ends have read (R310). -/
structure Launch where
  lid      : Word32
  part     : PartId
  queue    : QueueId
  index    : Word32             -- queue index of the record
  rec_     : BitVec 2048        -- Table 17.2
  parent   : Option Word32      -- the graph launch this is a node of
  ready    : Bool
  readyAt  : Nat                -- WSTIME at which it became ready (R312)
  unbound  : Nat                -- every team below it has been bound
  boundOut : List Nat           -- teams from `unbound` on that have been bound, out of order (R321)
  left     : Nat                -- a graph: nodes not yet read (R315)
  locked   : Bool               -- a graph: PLOCK has been taken (R316)
  teams    : Nat                -- teams finished
  exitOr   : Word
  energy   : Nat                -- µJ
  status   : Nat                -- Table 17.4; 0 while it runs
  ending   : Nat                -- status with which it is being ended; 0 none
  done     : Bool               -- completion record written
  endAt    : Option Nat         -- WSTIME at its rejection (R310, R343)
  begun    : Bool               -- first team has been bound
  engines  : SMap Engine        -- cluster records saved (R282)
  deriving DecidableEq, Repr, Inhabited

/-- What the package remembers of a context of a saved team beside its image (model's own): the ring slots it held (R212), and
its Power Stop, due or taken (R326). -/
structure Kept where
  tci       : Nat
  ctx       : Nat
  rings     : List (Nat × Bool)
  powerStop : Bool
  powerDone : Bool
  deriving DecidableEq, Repr, Inhabited

/-- A team waiting in a partition's pool (R312). -/
structure PoolTeam where
  lid     : Word32
  team    : Nat
  readyAt : Nat                 -- WSTIME of its swap
  lc0     : Nat                 -- first logical core of the placement it was saved from (R281)
  kept    : List Kept
  deriving DecidableEq, Repr, Inhabited

/-- A partition (R304). -/
structure Part where
  base    : DieId               -- place of its logical die 0 among the package's logical dies
  ndies   : Nat
  quantum : Nat                 -- Q in ns
  deriving DecidableEq, Repr, Inhabited

/-- A loan of carats (R328). -/
structure Loan where
  lender   : Nat
  borrower : Nat
  num      : Nat                -- which of the lender's offers of its interval it is
  carats   : Nat
  term     : Nat
  mine     : BitVec 2           -- this package: 1 lends, 2 borrows, 0 neither
  phase    : Nat                -- 0 offered, 1 accepted, 2 confirmed, 3 in force
  read     : Bool               -- CONFIRM was read here
  from_    : Nat                -- interval of the offer
  deriving DecidableEq, Repr, Inhabited

/-- Energy and allowance of a team (R325, R327), in µJ but for the bank charges. -/
structure Meter where
  lid    : Word32
  team   : Nat
  total  : Nat                  -- through the last completed interval
  allow  : Nat                  -- allowance of this interval
  dealt  : Bool                 -- the team was bound when this interval was dealt (R325)
  bank   : Nat                  -- charge of the banks it governed in this interval, in fJ (R335)
  saved  : Nat                  -- what their states saved against ON, in fJ
  paused : Bool                 -- the team does not issue until the next interval (R326)
  deriving DecidableEq, Repr, Inhabited

/-- The hub: power arbiter, checkpoint, queues, launches (R305, R323–R332, R351–R354). -/
structure Hub where
  lic     : BitVec 12           -- PCARAT
  minc    : BitVec 12
  ceil    : BitVec 12
  lent    : BitVec 12
  borr    : BitVec 12
  trade   : Bool
  loans   : List Loan
  interval : Nat
  readings : List MeterEntry    -- the meters of the last completed interval (R323)
  meters  : List Meter
  ckptGo  : Bool                -- CKPT
  ckptDone : Bool
  ckptErr : Bool
  ckptSeq : Word32
  ckptGood : Word32             -- SEQ of the last complete checkpoint (R332)
  queues  : Vector (Vector Queue 64) 4
  launches : List Launch
  nextLid : Word32
  pool    : List PoolTeam
  hostData : List Byte          -- bytes the last host read returned (R351)
  stopped : Bool                -- the supply has failed (R332)
  clock   : Nat                 -- tile clock in 100 MHz (R329)
  other   : Nat                 -- carats set aside in this interval (R325)
  deriving DecidableEq, Repr, Inhabited

/-! ### The package -/

/-- Whose turn the step is: a context's issue or a background event (log 2). -/
inductive Turn | issue | background
  deriving DecidableEq, Repr, Inhabited

/-- A last-release record (T4.1): core, stamp, scope. -/
structure Lrr where
  core  : CoreId
  stamp : Nat
  scope : Scope
  deriving DecidableEq, Repr, Inhabited

/-- The whole package. -/
structure State where
  cores    : Vector Core 1024
  clusters : Vector Cluster 128
  dies     : Vector Die 4
  ports    : Vector Port 2
  hub      : Hub
  parts    : List Part
  dieMap   : Vector DieId 4      -- the physical die behind each logical die of the package (R3, R11)
  mem      : List Host.Cell      -- homes (R96): 0 where unlisted (log 1)
  owner    : SMap CoreId         -- owner of each line (R89)
  lrr      : SMap Lrr            -- last-release record of each line
  poison   : List Nat            -- poisoned 64-byte sectors at homes (R284)
  cxl      : Vector Nat 4        -- capacity of each CXL port (R52)
  boot     : Nat                 -- steps of Table 21.4 done
  held     : Bool                -- the package is held in reset (Table 21.4)
  ns       : Nat                 -- WSTIME (Table 2.5)
  agenda   : List Instr          -- events to come, soonest first (model's own; log 2)
  turn     : Turn                -- model's own
  bg       : Nat                 -- background pointer, model's own
  cur      : CoreId × CtxId      -- the issuing context
  next     : CoreId              -- the core that issues next, model's own
  free     : Nat                 -- step counter that free values are applied to, model's own
  deriving DecidableEq, Repr, Inhabited

/-- Reasons for which the machine stops. -/
inductive Fault
  /-- A unit below translation (dispatch, a front-end, the fault queue) is sent to a physical address that no memory backs
  (R52): the spec gives no effect. Safe: no state follows. -/
  | unbacked (pa : Nat)
  deriving DecidableEq, Repr

/-- Reasons for which an instruction has no meaning. -/
inductive Refusal
  /-- No meaning yet: raised by `exec`'s arm of that mnemonic. Safe: no state follows. -/
  | notModelled (mnemonic : String)
  deriving DecidableEq, Repr

/-! ### Reset -/

def QSlot.zero : QSlot := ⟨0#64, 0#64⟩
def Stream.none : Stream := ⟨.unbound, .unset, 0#32, 0#32, 0#64, 0#64, 0#3, 0, false, false, 0⟩
def Region.zero : Region := ⟨.zero, .zero, 0#2, 0#64, 0#64, 0#32, 0#32, Vector.replicate 4 .none⟩

/-- A context at package reset: not live, registers zero (R15, R18; log 10). -/
def Ctx.reset : Ctx where
  run := .off
  x := Vector.replicate 32 0#64
  pc := .zero
  npc := .zero
  nnpc := .zero
  nul := 0#2
  lc := 0#64
  lblk := 0#64
  rstart := 0#64
  region := .zero
  status := 0#64
  epc := 0#64
  enpc := 0#64
  ennpc := 0#64
  enul := 0#2
  ecause := 0#64
  eval := 0#64
  tvec := 0#64
  savedQ := Vector.replicate 3 .zero
  sscratch := 0#64
  elc := 0#64
  elblk := 0#64
  erst := 0#64
  asid := 0#9
  root := 0#35
  fflags := 0#5
  cvtovf := false
  srkey := 0#32
  srctr := 0#32
  bankqSel := 0#3
  exitVal := 0#64
  arrived := Vector.replicate 8 0
  phased := 0
  credit := Vector.replicate 8 0
  phaseCredit := 0
  sbuf := []
  late := []
  epoch := 0
  inflight := []
  cyc := 0
  wait := .none
  trapDue := none
  trapLit := 0#5
  powerStop := false
  powerDone := false
  rsDue := false
  stopHere := false
  openJobs := []
  batches := []
  ringsHeld := []
  bpPass := false
  lastPc := none

def Ring.unbound : Ring := ⟨false, 0, 0, 0, false, 0, 0, 0, 0, false, false, 0, none, none⟩

def Debug.reset : Debug where
  halt := false
  step := false
  attach := false
  ctx := 0#4
  bp := Vector.replicate 4 0#64
  wp := Vector.replicate 4 0#64
  wpa := Vector.replicate 4 0#64
  queued := []

/-- A core at package reset: no team bound, every bank in neither role and DARK (R45, R55), its registers at the resets of
Tables 1.4, 2.2, 2.7, 10.1, 10.2 and 15.5 where they are numbers (log 10). -/
def Core.reset : Core where
  ctxs := Vector.replicate 11 .reset
  v := Vector.replicate 32 0#512
  m := Vector.replicate 8 0#64
  streams := Vector.replicate 4 .none
  lcore := 0#10
  lclus := 0#7
  domcl := 0#8
  domdie := 0#32
  dompkg := 0#4
  phase := 0#32
  allow := Vector.replicate 3 255#8
  bmask := Vector.replicate 8 0#64
  qsent := 0#32
  qrecv := 0#32
  peermask := 1#64
  bwph := 0#2
  bwfloor := 0#2
  kcfg := 0#64
  kretry := 3#3
  door := false
  ienab := 0#2
  tcmp := BitVec.allOnes 64
  arr := 0#8
  ready := 0#8
  vote := 0#8
  resAnd := 0xFF#8
  resOr := 0#8
  start := 0#3
  arrStamp := Vector.replicate 8 0
  genMembers := Vector.replicate 8 []
  rings := Vector.replicate 8 .unbound
  grant := 0
  l1k := 0
  array := []
  arrayPoison := []
  l1 := []
  l1Poison := []
  stamp := 0
  releases := []
  icache := []
  fetchPoison := []
  power := BitVec.allOnes 80
  lastUse := []
  team := none
  everBound := false
  slot := 0#64
  finished := false
  stage := 0#16
  stageDone := 0
  stopReq := .none
  frozen := false
  leaseSaved := none
  paused := false
  temp := 0
  hot := false
  last := 0
  cycles := 0
  traceCyc := 0
  dbg := .reset

/-- The initial values of Table 9.1, with an empty queue and no lease. -/
def Engine.reset : Engine where
  w := []
  int8 := false
  bands := 4
  wb := []
  vb := []
  wPoison := []
  wbPoison := []
  vbPoison := []
  strip := none
  joining := false
  cseq := 0#32
  seq := 0#32
  queue := []
  holder := none
  count := 0
  used := 0
  waiting := []
  lastGrant := 7
  wakingBands := false
  owner := none

/-- A cluster at package reset; copy jobs are numbered from 1 (R201). -/
def Cluster.reset : Cluster := ⟨.reset, [], 0#32, [], [], false⟩

/-- A die at package reset (Table 21.8). Nothing is bound and no bank holds anything: every L2 slice below F is as QUIET
lets it be; the spec gives no power state after reset, and ON is taken for slices, weight banks and ranks (log 10). -/
def Die.reset : Die where
  wins := []
  puts := []
  mergeBuf := []
  weights := []
  marks := 0#64
  weightPoison := []
  l2Power := 0#96
  wPower := 0#128
  rankPower := 0#48
  lastUse := []
  l2Floor := 8
  tlb := []
  rankuse := 0xFFFFFF#24
  defective := false
  badChannels := 0#12
  busy := false
  dispatchWaits := []
  dispatch := 0#64
  bindbase := 0#64
  fqbase := 0#64
  fqsz := 8#5
  fqhead := 0#16
  fqtail := 0#16
  fqdoor := false
  faults := []
  posted := []
  tren := false
  trsz := 16#5
  trdrop := 0#32
  trbase := 0#64
  trhead := 0#32
  trtail := 0#32
  trsel := Vector.replicate 4 0#64
  cgbase := 0#64
  cgen := false
  cgsz := 20#5
  cghead := 0#32
  cgNext := 0
  grid := []
  eolh := 0#32
  eolNext := 1000000000
  errs := Vector.replicate 7 (0#32, 0#32)
  links := []
  powered := true
  mgmtDoor := false

def Lit.dark : Lit := ⟨false, [], false, none⟩
def Circle.reset : Circle := ⟨none, 0, 0, 0, [], [], 0, false, .dark, []⟩

/-- A port at package reset: attached to nothing until it is calibrated (R354, R355). -/
def Port.reset : Port where
  attached := false
  leader := false
  limit := 0
  lag := 0
  turn := 0
  wheel := 0#64
  wheelNext := none
  frame := 0
  margins := []
  recal := none
  circles := Vector.replicate 16 .reset
  jobs := []
  buf := []
  seq := 0#32
  wrapped := false
  ended := []
  members := []
  lowest := none
  beacon := none

/-- A launch queue at reset (Table 17.1). -/
def Queue.reset : Queue := ⟨false, 4#4, 0#64, 0#32, 0#32, .idle, none⟩

/-- The hub at reset (Tables 18.1, 21.3); the nominal tile clock is 1.6 GHz. -/
def Hub.reset : Hub where
  lic := 1800#12
  minc := 300#12
  ceil := 1800#12
  lent := 0#12
  borr := 0#12
  trade := false
  loans := []
  interval := 0
  readings := []
  meters := []
  ckptGo := false
  ckptDone := false
  ckptErr := false
  ckptSeq := 0#32
  ckptGood := 0#32
  queues := Vector.replicate 4 (Vector.replicate 64 .reset)
  launches := []
  nextLid := 0#32
  pool := []
  hostData := []
  stopped := false
  clock := 16
  other := 0

/-- The package right after reset: before the boot sequence of Table 21.4, nothing bound, no event pending (log 5). -/
def State.reset : State where
  cores := Vector.replicate 1024 .reset
  clusters := Vector.replicate 128 .reset
  dies := Vector.replicate 4 .reset
  ports := Vector.replicate 2 .reset
  hub := .reset
  parts := []
  dieMap := #v[0, 1, 2, 3]
  mem := []
  owner := []
  lrr := []
  poison := []
  cxl := Vector.replicate 4 0
  boot := 0
  held := false
  ns := 0
  agenda := []
  turn := .issue
  bg := 0
  cur := (0, 0)
  next := 0
  free := 0

end Sys2Proof.Machine
end

