-- ==== Sys2Proof/Machine/Sparse.lean ====
section
/-! DEFINITION. Sparse maps and sets in their one canonical form, vectors by Fin, and little-endian byte lists (R6). -/

namespace Sys2Proof.Machine

/-- The value of a sparse map at a key; unlisted keys read the default. -/
def sGet {α : Type} (dflt : α) : SMap α → Nat → α
  | [], _ => dflt
  | (k, v) :: m, a => if a = k then v else if a < k then dflt else sGet dflt m a

/-- Removes a key. -/
def sDel {α : Type} : SMap α → Nat → SMap α
  | [], _ => []
  | (k, v) :: m, a => if a = k then m else if a < k then (k, v) :: m else (k, v) :: sDel m a

/-- Inserts or replaces a key in its place. -/
def sIns {α : Type} : SMap α → Nat → α → SMap α
  | [], a, x => [(a, x)]
  | (k, v) :: m, a, x =>
    if a = k then (k, x) :: m else if a < k then (a, x) :: (k, v) :: m else (k, v) :: sIns m a x

/-- Writes a key, keeping the canonical form: writing the default removes the entry. -/
def sPut {α : Type} [DecidableEq α] (dflt : α) (m : SMap α) (a : Nat) (x : α) : SMap α :=
  if x = dflt then sDel m a else sIns m a x

/-- Removes every key in [lo, lo + n). -/
def sClear {α : Type} (m : SMap α) (lo n : Nat) : SMap α := m.filter fun e => e.1 < lo || lo + n ≤ e.1

/-- Keys strictly rising from a lower bound. -/
def risingFrom {α : Type} : Nat → SMap α → Bool
  | _, [] => true
  | lo, (k, _) :: m => decide (lo ≤ k) && risingFrom (k + 1) m

/-- The canonical form of a sparse map: keys strictly rising, no value equal to the default. -/
def sWf {α : Type} [DecidableEq α] (dflt : α) (m : SMap α) : Bool := risingFrom 0 m && m.all fun e => decide (e.2 ≠ dflt)

/-- Adds a number to a sorted set. -/
def setAdd : List Nat → Nat → List Nat
  | [], a => [a]
  | k :: m, a => if a = k then k :: m else if a < k then a :: k :: m else k :: setAdd m a

/-- Removes a number from a sorted set. -/
def setDel (m : List Nat) (a : Nat) : List Nat := m.filter (· != a)

/-- Consecutive bytes of a byte map, 0 where unlisted. -/
def bytesAt (m : SMap Byte) (a : Nat) : Nat → List Byte
  | 0 => []
  | n + 1 => sGet 0#8 m a :: bytesAt m (a + 1) n

/-- Writes consecutive bytes of a byte map. -/
def putBytes (m : SMap Byte) (a : Nat) : List Byte → SMap Byte
  | [] => m
  | b :: bs => putBytes (sPut 0#8 m a b) (a + 1) bs

/-- The number a byte list stands for, least significant byte first (R6). -/
def leNat : List Byte → Nat
  | [] => 0
  | b :: bs => b.toNat + 256 * leNat bs

/-- The n bytes of a number, least significant first (R6). -/
def leBytes : Nat → Nat → List Byte
  | 0, _ => []
  | n + 1, v => BitVec.ofNat 8 v :: leBytes n (v / 256)

/-- The bytes of a bit vector. -/
abbrev bytesOf {w : Nat} (n : Nat) (v : BitVec w) : List Byte := leBytes n v.toNat

/-- Two bits of a packed state map (Table 2.6). -/
def two {w : Nat} (m : BitVec w) (i : Nat) : BitVec 2 := m.extractLsb' (2 * i) 2
/-- Writes two bits of a packed state map. -/
def putTwo {w : Nat} (m : BitVec w) (i : Nat) (v : BitVec 2) : BitVec w :=
  (m &&& ~~~(3#w <<< (2 * i))) ||| (v.setWidth w <<< (2 * i))
/-- One bit of a bit vector written. -/
def putBit {w : Nat} (m : BitVec w) (i : Nat) (v : Bool) : BitVec w :=
  if v then m ||| (1#w <<< i) else m &&& ~~~(1#w <<< i)
/-- A field of `n` bits at `lo` written. -/
def putField {w n : Nat} (m : BitVec w) (lo : Nat) (v : BitVec n) : BitVec w :=
  (m &&& ~~~((BitVec.allOnes n).setWidth w <<< lo)) ||| (v.setWidth w <<< lo)

/-- An element of a vector by its index, written. -/
abbrev vPut {α : Type} {n : Nat} (v : Vector α n) (i : Fin n) (x : α) : Vector α n := v.set i.val x i.isLt

end Sys2Proof.Machine
end

