-- ==== Sys2Proof/Machine/Flags.lean ====
section
/-! DEFINITION. Number formats (R60–R76): unpacked values, the one rounding of R62–R66, FP32 and BF16 arithmetic, FP8,
conversions and the transcendentals of Table 3.8. Flag computations of FFLAGS (Table 3.3) come with each result. -/

namespace Sys2Proof.Machine

/-! ### Formats (Table 3.1) -/

/-- A binary floating-point format; `noInf` marks E4M3, whose only special codes are its two NaNs (R70). -/
structure Fmt where
  width : Nat
  ebits : Nat
  fbits : Nat
  bias  : Int
  noInf : Bool
  deriving DecidableEq, Repr

def fmtF32 : Fmt := ⟨32, 8, 23, 127, false⟩
def fmtBf16 : Fmt := ⟨16, 8, 7, 127, false⟩
def fmtE4m3 : Fmt := ⟨8, 4, 3, 7, true⟩
def fmtE5m2 : Fmt := ⟨8, 5, 2, 15, false⟩

/-- Exponent of the least significant fraction bit of a subnormal. -/
def fmtQmin (f : Fmt) : Int := 1 - f.bias - f.fbits
/-- Largest finite value, as mantissa and exponent of its last bit. -/
def fmtMaxM (f : Fmt) : Nat := if f.noInf then 14 else 2 ^ (f.fbits + 1) - 1
def fmtMaxQ (f : Fmt) : Int := if f.noInf then 5 else (2 ^ f.ebits : Nat) - 2 - f.bias - f.fbits

/-- An unpacked value: a finite one is (−1)^neg × m × 2^e. -/
inductive Fl
  | nan (signalling : Bool)
  | inf (neg : Bool)
  | fin (neg : Bool) (m : Nat) (e : Int)
  deriving DecidableEq, Repr, Inhabited

/-- The value of a code (R62, R70). Every FP8 NaN code is quiet. -/
def unpackFl (f : Fmt) (b : Nat) : Fl :=
  let neg := b.testBit (f.width - 1)
  let ex := b >>> f.fbits % 2 ^ f.ebits
  let fr := b % 2 ^ f.fbits
  if f.noInf then
    if ex = 15 && fr = 7 then .nan false
    else if ex = 0 then .fin neg fr (fmtQmin f) else .fin neg (fr + 2 ^ f.fbits) (ex - f.bias - f.fbits)
  else if ex = 2 ^ f.ebits - 1 then
    if fr = 0 then .inf neg else .nan (f.width != 8 && !fr.testBit (f.fbits - 1))
  else if ex = 0 then .fin neg fr (fmtQmin f)
  else .fin neg (fr + 2 ^ f.fbits) (ex - f.bias - f.fbits)

/-! ### Flags (Table 3.3) -/

/-- FFLAGS bits NX, UF, OF, DZ, NV. -/
abbrev FFlags := BitVec 5
def fNX : FFlags := 1#5
def fUF : FFlags := 2#5
def fOF : FFlags := 4#5
def fDZ : FFlags := 8#5
def fNV : FFlags := 16#5
def flagIf (b : Bool) (f : FFlags) : FFlags := if b then f else 0#5

/-- A result: its code, its flags, and whether the value overflowed the format. -/
structure FRes where
  bits  : Nat
  flags : FFlags
  ovf   : Bool := false
  deriving DecidableEq, Repr

/-- The canonical NaN (R63); the positive NaN code of an FP8 format (R71). -/
def nanCode (f : Fmt) : Nat := if f.width = 8 then 0x7F else (2 ^ f.ebits - 1) * 2 ^ f.fbits + 2 ^ (f.fbits - 1)
def signCode (f : Fmt) (neg : Bool) : Nat := if neg then 2 ^ (f.width - 1) else 0
/-- The code of ±∞; in E4M3 the NaN code with that sign (R71). -/
def infCode (f : Fmt) (neg : Bool) : Nat :=
  signCode f neg + (if f.noInf then 0x7F else (2 ^ f.ebits - 1) * 2 ^ f.fbits)
def zeroCode (f : Fmt) (neg : Bool) : Nat := signCode f neg
def maxCode (f : Fmt) (neg : Bool) : Nat :=
  signCode f neg + (if f.noInf then 0x7E else (2 ^ f.ebits - 1) * 2 ^ f.fbits - 1)
def nanRes (f : Fmt) (nv : Bool) : FRes := ⟨nanCode f, flagIf nv fNV, false⟩

/-! ### Rounding (R62, R65, R66) -/

/-- m × 2^e rounded to a multiple of 2^q by a mode: the multiple and whether it is inexact. `rand` is the draw of R66. -/
def roundTo (rm : RMode) (rand : Nat) (neg : Bool) (m : Nat) (e q : Int) : Nat × Bool :=
  if q ≤ e then (m <<< (e - q).toNat, false) else
  let sh := (q - e).toNat
  let t := m >>> sh
  let rem := m % 2 ^ sh
  if rem = 0 then (t, false) else
  let up := match rm with
    | .rne => decide (2 ^ sh < 2 * rem) || (decide (2 * rem = 2 ^ sh) && t % 2 == 1)
    | .rtz => false
    | .rdn => neg
    | .rup => !neg
    | .sr => decide (2 ^ 16 ≤ rem * 2 ^ 16 / 2 ^ sh + rand)
  (if up then t + 1 else t, true)

/-- Whether an overflow by a mode delivers ∞ (IEEE 754-2019) or the largest finite value; SR acts as RTZ (R66). -/
def overflowsToInf (rm : RMode) (neg : Bool) : Bool :=
  match rm with
  | .rne => true
  | .rtz => false
  | .rdn => neg
  | .rup => !neg
  | .sr => false

/-- The rounding of a non-zero or zero finite value into a format, with OF, UF (tiny after rounding and inexact) and NX. -/
def roundFl (f : Fmt) (rm : RMode) (rand : Nat) (neg : Bool) (m : Nat) (e : Int) : FRes :=
  if m = 0 then ⟨zeroCode f neg, 0#5, false⟩ else
  let top : Int := e + m.log2                          -- exponent of the leading bit
  let q := max (top - f.fbits) (fmtQmin f)
  let (t, inexact) := roundTo rm rand neg m e q
  let carry := 2 ^ (f.fbits + 1) ≤ t
  let t := if carry then t / 2 else t
  let q := if carry then q + 1 else q
  if fmtMaxQ f < q || (q = fmtMaxQ f && fmtMaxM f < t) then
    ⟨if overflowsToInf rm neg then infCode f neg else maxCode f neg, fOF ||| fNX, true⟩
  else
    let emin := 1 - f.bias
    let tiny := decide (top < emin) &&
      !(decide (top + 1 = emin) && decide (2 ^ (f.fbits + 1) ≤ (roundTo rm rand neg m e (top - f.fbits)).1))
    let code := if t < 2 ^ f.fbits then t else (q + f.fbits + f.bias).toNat * 2 ^ f.fbits + t % 2 ^ f.fbits
    ⟨signCode f neg + code, flagIf inexact fNX ||| flagIf (tiny && inexact) fUF, false⟩

/-! ### Arithmetic (R62–R63, R134–R136) -/

def flSig : Fl → Bool
  | .nan s => s
  | _ => false
def flNan : Fl → Bool
  | .nan _ => true
  | _ => false
def flNeg : Fl → Fl
  | .nan s => .nan s
  | .inf n => .inf (!n)
  | .fin n m e => .fin (!n) m e
def signedNat (neg : Bool) (m : Nat) : Int := if neg then -(m : Int) else m

/-- The exact sum of two finite values, rounded once; an exact zero sum of opposite signs is +0, −0 under RDN (R62). -/
def sumFin (f : Fmt) (rm : RMode) (n1 : Bool) (m1 : Nat) (e1 : Int) (n2 : Bool) (m2 : Nat) (e2 : Int) : FRes :=
  let e := min e1 e2
  let v := signedNat n1 (m1 <<< (e1 - e).toNat) + signedNat n2 (m2 <<< (e2 - e).toNat)
  if v = 0 then ⟨zeroCode f (if n1 == n2 then n1 else rm == .rdn), 0#5, false⟩
  else roundFl f rm 0 (decide (v < 0)) v.natAbs e
/-- a + b. -/
def addFl (f : Fmt) (rm : RMode) (a b : Fl) : FRes :=
  if flNan a || flNan b then nanRes f (flSig a || flSig b) else
  match a, b with
  | .inf n, .inf n' => if n == n' then ⟨infCode f n, 0#5, false⟩ else nanRes f true
  | .inf n, _ => ⟨infCode f n, 0#5, false⟩
  | _, .inf n => ⟨infCode f n, 0#5, false⟩
  | .fin n1 m1 e1, .fin n2 m2 e2 => sumFin f rm n1 m1 e1 n2 m2 e2
  | _, _ => nanRes f false
/-- a − b. -/
def subFl (f : Fmt) (rm : RMode) (a b : Fl) : FRes := addFl f rm a (flNeg b)
/-- a × b. -/
def mulFl (f : Fmt) (rm : RMode) (a b : Fl) : FRes :=
  if flNan a || flNan b then nanRes f (flSig a || flSig b) else
  match a, b with
  | .inf n, .inf n' => ⟨infCode f (n != n'), 0#5, false⟩
  | .inf n, .fin n' m _ => if m = 0 then nanRes f true else ⟨infCode f (n != n'), 0#5, false⟩
  | .fin n m _, .inf n' => if m = 0 then nanRes f true else ⟨infCode f (n != n'), 0#5, false⟩
  | .fin n1 m1 e1, .fin n2 m2 e2 => roundFl f rm 0 (n1 != n2) (m1 * m2) (e1 + e2)
  | _, _ => nanRes f false
/-- a × b + c with one rounding by RNE (R135): 0 × ∞ raises NV whatever c is. -/
def fmaFl (f : Fmt) (a b c : Fl) : FRes :=
  let badMul := match a, b with
    | .inf _, .fin _ m _ => decide (m = 0)
    | .fin _ m _, .inf _ => decide (m = 0)
    | _, _ => false
  if badMul then nanRes f true
  else if flNan a || flNan b || flNan c then nanRes f (flSig a || flSig b || flSig c) else
  match a, b with
  | .fin n1 m1 e1, .fin n2 m2 e2 => addFl f .rne (.fin (n1 != n2) (m1 * m2) (e1 + e2)) c
  | .inf n, .fin n' _ _ => addFl f .rne (.inf (n != n')) c
  | .fin n _ _, .inf n' => addFl f .rne (.inf (n != n')) c
  | .inf n, .inf n' => addFl f .rne (.inf (n != n')) c
  | _, _ => nanRes f false

/-- a < b as numbers, with −0 equal to +0; neither is a NaN. -/
def ltFl (a b : Fl) : Bool :=
  match a, b with
  | .inf n, .inf n' => n && !n'
  | .inf n, _ => n
  | _, .inf n => !n
  | .fin n1 m1 e1, .fin n2 m2 e2 =>
    let e := min e1 e2
    decide (signedNat n1 (m1 <<< (e1 - e).toNat) < signedNat n2 (m2 <<< (e2 - e).toNat))
  | _, _ => false
/-- a = b as numbers. -/
def eqFl (a b : Fl) : Bool := !flNan a && !flNan b && !ltFl a b && !ltFl b a
/-- The sign of a value. -/
def negFl : Fl → Bool
  | .nan _ => false
  | .inf n => n
  | .fin n _ _ => n
/-- FMIN and FMAX on codes (Table 6.3): −0 counts below +0. -/
def minMaxFl (f : Fmt) (wantMax : Bool) (a b : Nat) : FRes :=
  let x := unpackFl f a
  let y := unpackFl f b
  let nv := flagIf (flSig x || flSig y) fNV
  if flNan x && flNan y then ⟨nanCode f, nv, false⟩
  else if flNan x then ⟨b, nv, false⟩
  else if flNan y then ⟨a, nv, false⟩
  else
    let less := ltFl x y || (eqFl x y && negFl x && !negFl y)
    ⟨if less != wantMax then a else b, nv, false⟩
/-- A relation of Table 6.3's FCMP (R136): its truth and its NV. -/
def cmpFl (rel : FRel) (a b : Fl) : Bool × FFlags :=
  let nan := flNan a || flNan b
  let sig := flSig a || flSig b
  match rel with
  | .eq => (eqFl a b, flagIf sig fNV)
  | .ne => (!eqFl a b, flagIf sig fNV)
  | .lt => (!nan && ltFl a b, flagIf nan fNV)
  | .le => (!nan && !ltFl b a, flagIf nan fNV)
  | .gt => (!nan && ltFl b a, flagIf nan fNV)
  | .ge => (!nan && !ltFl a b, flagIf nan fNV)
  | .un => (nan, flagIf sig fNV)
/-- FSGN (Table 6.3). -/
def sgnFl (a b : Word32) : FRes :=
  let x := unpackFl fmtF32 a.toNat
  if flNan x then nanRes fmtF32 (flSig x)
  else ⟨(putBit a 31 (b.getLsbD 31)).toNat, 0#5, false⟩

/-! ### Conversions (R64, R71, R137) -/

/-- A floating-point value to an integer in [lo, hi] (R64). -/
def flToInt (rm : RMode) (rand : Nat) (lo hi : Int) (v : Fl) : Int × FFlags :=
  match v with
  | .nan _ => (0, fNV)
  | .inf n => (if n then lo else hi, fNV)
  | .fin n m e =>
    let (t, inexact) := roundTo rm rand n m e 0
    let r := signedNat n t
    if r < lo then (lo, fNV) else if hi < r then (hi, fNV) else (r, flagIf inexact fNX)
/-- An integer to a format (R64). -/
def intToFl (f : Fmt) (rm : RMode) (rand : Nat) (v : Int) : FRes := roundFl f rm rand (decide (v < 0)) v.natAbs 0
/-- A value from one format into another (R63, R71, R137). In E4M3 ±∞ counts as an overflow; in the other formats it is
exact. -/
def convFl (dst : Fmt) (rm : RMode) (rand : Nat) (v : Fl) : FRes :=
  match v with
  | .nan sig => nanRes dst sig
  | .inf n => if dst.noInf then ⟨infCode dst n, fOF ||| fNX, true⟩ else ⟨infCode dst n, 0#5, false⟩
  | .fin n m e => roundFl dst rm rand n m e

/-- FP32 value of a code. -/
abbrev f32 (a : Word32) : Fl := unpackFl fmtF32 a.toNat
/-- BF16 value of a code. -/
abbrev bf16 (a : BitVec 16) : Fl := unpackFl fmtBf16 a.toNat
/-- FP32 sum by RNE of two codes, the step of the architected sums (R77–R79). -/
def addF32 (a b : Word32) : Word32 × FFlags :=
  let r := addFl fmtF32 .rne (f32 a) (f32 b)
  (BitVec.ofNat 32 r.bits, r.flags)
/-- FP32 product by RNE of two codes. -/
def mulF32 (a b : Word32) : Word32 × FFlags :=
  let r := mulFl fmtF32 .rne (f32 a) (f32 b)
  (BitVec.ofNat 32 r.bits, r.flags)
/-- FP32 fused multiply-add by RNE of codes. -/
def fmaF32 (a b c : Word32) : Word32 × FFlags :=
  let r := fmaFl fmtF32 (f32 a) (f32 b) (f32 c)
  (BitVec.ofNat 32 r.bits, r.flags)

/-- `x XOR (x >> n)`. -/
def xorShr (x : Word32) (n : Nat) : Word32 := x ^^^ (x >>> n)
/-- The generator G of R143. -/
def genG (k c : Word32) : Word32 := xorShr (xorShr ((c ^^^ k) * 0x6B2F4C95#32) 16 * 0x3A8ED217#32) 15
/-- The draw of R66 for a key and a counter. -/
def draw (key ctr : Word32) : Nat := (genG key ctr).toNat % 2 ^ 16

/-! ### Transcendentals (R74–R76) -/

/-- 2^(i/64) × 2^23 rounded by RNE (Table 3.7). -/
def exp2Tab : List Nat :=
  [8388608, 8479954, 8572295, 8665641, 8760003, 8855394, 8951823, 9049301, 9147842, 9247455, 9348154, 9449948, 9552851] ++
  [9656875, 9762032, 9868333, 9975792, 10084422, 10194234, 10305242, 10417458, 10530897, 10645571, 10761494, 10878679, 10997140] ++
  [11116891, 11237946, 11360319, 11484025, 11609078, 11735492, 11863283, 11992466, 12123055, 12255067, 12388516, 12523418, 12659789] ++
  [12797645, 12937002, 13077877, 13220286, 13364245, 13509772, 13656884, 13805598, 13955931, 14107901, 14261526, 14416824, 14573813] ++
  [14732511, 14892937, 15055111, 15219050, 15384775, 15552304, 15721658, 15892855, 16065917, 16240863, 16417715, 16596492, 16777216]
/-- log2(1 + i/64) × 2^24 rounded by RNE (Table 3.7). -/
def log2Tab : List Nat :=
  [0, 375270, 744810, 1108793, 1467383, 1820738, 2169009, 2512340, 2850868, 3184728, 3514044, 3838941, 4159533] ++
  [4475935, 4788255, 5096595, 5401057, 5701737, 5998727, 6292118, 6581994, 6868440, 7151536, 7431359, 7707984, 7981483] ++
  [8251926, 8519380, 8783912, 9045584, 9304457, 9560591, 9814042, 10064867, 10313120, 10558852, 10802114, 11042956, 11281425] ++
  [11517568, 11751428, 11983051, 12212479, 12439752, 12664911, 12887994, 13109041, 13328087, 13545168, 13760320, 13973576, 14184969] ++
  [14394532, 14602297, 14808293, 15012551, 15215099, 15415967, 15615181, 15812769, 16008758, 16203172, 16396036, 16587377, 16777216]
/-- 2^23 / (1 + i/64) rounded by RNE (Table 3.7). -/
def rcpTab : List Nat :=
  [8388608, 8259552, 8134408, 8012999, 7895160, 7780738, 7669584, 7561562, 7456540, 7354396, 7255012, 7158279, 7064091] ++
  [6972350, 6882960, 6795834, 6710886, 6628036, 6547206, 6468324, 6391320, 6316128, 6242685, 6170930, 6100806, 6032257] ++
  [5965232, 5899680, 5835553, 5772806, 5711393, 5651273, 5592405, 5534752, 5478275, 5422939, 5368709, 5315554, 5263440] ++
  [5212339, 5162220, 5113056, 5064820, 5017485, 4971027, 4925421, 4880645, 4836675, 4793490, 4751070, 4709394, 4668443] ++
  [4628198, 4588640, 4549753, 4511520, 4473924, 4436950, 4400581, 4364804, 4329604, 4294967, 4260880, 4227330, 4194304]
/-- 2^23 / sqrt(1 + i/64) rounded by RNE (Table 3.7). -/
def rsqTab : List Nat :=
  [8388608, 8323830, 8260530, 8198653, 8138145, 8078958, 8021043, 7964357, 7908855, 7854498, 7801247, 7749064, 7697915] ++
  [7647765, 7598583, 7550337, 7502999, 7456540, 7410934, 7366155, 7322177, 7278978, 7236535, 7194825, 7153829, 7113525] ++
  [7073895, 7034920, 6996583, 6958865, 6921751, 6885224, 6849270, 6813873, 6779019, 6744695, 6710886, 6677582, 6644768] ++
  [6612433, 6580566, 6549155, 6518189, 6487659, 6457553, 6427863, 6398579, 6369691, 6341192, 6313071, 6285321, 6257934] ++
  [6230902, 6204217, 6177872, 6151859, 6126173, 6100806, 6075751, 6051002, 6026554, 6002399, 5978533, 5954949, 5931642]

/-- The interpolation of R74: i = f[23:18], r = f[17:0]. -/
def interp (tab : List Nat) (f : Nat) : Int :=
  let i := f / 2 ^ 18
  let a : Int := tab.getD i 0
  let b : Int := tab.getD (i + 1) 0
  a + ((b - a) * ((f % 2 ^ 18 : Nat) : Int) + 2 ^ 17) / 2 ^ 18

/-- A finite non-zero value as 2^e × (1 + m / 2^23) with its 23-bit m (Table 3.8). -/
def normal23 (m : Nat) (e : Int) : Int × Nat :=
  let top := m.log2
  (e + top, if top ≤ 23 then m <<< (23 - top) % 2 ^ 23 else m >>> (top - 23) % 2 ^ 23)

/-- A result from the table path: NX whenever it is not exact (R76), and UF when it is also tiny. -/
def tableRes (r : FRes) (exact : Bool) : FRes :=
  let sub := decide (r.bits % 2 ^ 31 < 2 ^ 23)
  if exact then r else { r with flags := r.flags ||| fNX ||| flagIf sub fUF }

/-- The four functions of Table 3.8. -/
inductive Trans | exp2 | log2 | rcp | rsq
  deriving DecidableEq, Repr

def exp2Fl (v : Fl) : FRes :=
  match v with
  | .nan s => nanRes fmtF32 s
  | .inf n => if n then ⟨0, 0#5, false⟩ else ⟨infCode fmtF32 false, 0#5, false⟩
  | .fin n m e =>
    if eqFl v (.fin false 1 7) || ltFl (.fin false 1 7) v then ⟨infCode fmtF32 false, fOF ||| fNX, true⟩
    else if ltFl v (.fin true 150 0) then ⟨0, fUF ||| fNX, false⟩
    else
      let up := e + 24
      let x : Int := if 0 ≤ up then signedNat n (m <<< up.toNat) else signedNat n m / ((2 ^ (-up).toNat : Nat) : Int)
      let y := interp exp2Tab (x % 2 ^ 24).toNat
      let whole := decide (0 ≤ e) || m % 2 ^ (-e).toNat == 0
      tableRes (roundFl fmtF32 .rne 0 false y.toNat (x / 2 ^ 24 - 23)) whole
def log2Fl (v : Fl) : FRes :=
  match v with
  | .nan s => nanRes fmtF32 s
  | .inf n => if n then nanRes fmtF32 true else ⟨infCode fmtF32 false, 0#5, false⟩
  | .fin n m e =>
    if m = 0 then ⟨infCode fmtF32 true, fDZ, false⟩
    else if n then nanRes fmtF32 true
    else
      let (ex, fr) := normal23 m e
      let t := ex * 2 ^ 24 + interp log2Tab (2 * fr)
      tableRes (roundFl fmtF32 .rne 0 (decide (t < 0)) t.natAbs (-24)) (fr == 0)
def rcpFl (v : Fl) : FRes :=
  match v with
  | .nan s => nanRes fmtF32 s
  | .inf n => ⟨zeroCode fmtF32 n, 0#5, false⟩
  | .fin n m e =>
    if m = 0 then ⟨infCode fmtF32 n, fDZ, false⟩
    else
      let (ex, fr) := normal23 m e
      let a : Fl := .fin false (interp rcpTab (2 * fr)).toNat (-23)
      let u : Fl := .fin true (2 ^ 23 + fr) (-23)
      let t := unpackFl fmtF32 (fmaFl fmtF32 u a (.fin false 1 0)).bits
      match unpackFl fmtF32 (fmaFl fmtF32 a t a).bits with
      | .fin _ wm we => tableRes (roundFl fmtF32 .rne 0 n wm (we - ex)) (fr == 0)
      | _ => nanRes fmtF32 false
def rsqFl (v : Fl) : FRes :=
  match v with
  | .nan s => nanRes fmtF32 s
  | .inf n => if n then nanRes fmtF32 true else ⟨0, 0#5, false⟩
  | .fin n m e =>
    if m = 0 then ⟨infCode fmtF32 n, fDZ, false⟩
    else if n then nanRes fmtF32 true
    else
      let (ex, fr) := normal23 m e
      let odd := ex % 2 == 1
      let y0 := (interp rsqTab (2 * fr)).toNat
      let y := if odd then (y0 * 5931642 + 2 ^ 22) / 2 ^ 23 else y0
      let u : Fl := .fin true (2 ^ 23 + fr) (if odd then -22 else -23)
      let a : Fl := .fin false y (-23)
      let h := unpackFl fmtF32 (mulFl fmtF32 .rne a a).bits
      let t := unpackFl fmtF32 (fmaFl fmtF32 u h (.fin false 1 0)).bits
      let g := match t with
        | .fin tn tm te => Fl.fin tn tm (te - 1)
        | x => x
      match unpackFl fmtF32 (fmaFl fmtF32 a g a).bits with
      | .fin _ wm we => tableRes (roundFl fmtF32 .rne 0 false wm (we - ex / 2)) (fr == 0 && !odd)
      | _ => nanRes fmtF32 false
/-- A function of Table 3.8. -/
def transFl (k : Trans) (v : Fl) : FRes :=
  match k with
  | .exp2 => exp2Fl v
  | .log2 => log2Fl v
  | .rcp => rcpFl v
  | .rsq => rsqFl v

/-! ### Block-scaled mantissas (R72, R73) -/

/-- Bias of a block-scaled format: BSM4 or BSM8. -/
def bsmBias (four : Bool) : Int := if four then 129 else 133
/-- Largest mantissa an encode produces. -/
def bsmMax (four : Bool) : Nat := if four then 7 else 127
/-- Exponent of the leading bit of a non-zero finite value. -/
def flTop : Fl → Option Int
  | .fin _ m e => if m = 0 then none else some (e + m.log2)
  | _ => none
/-- Whether a value is finite. -/
def flFinite : Fl → Bool
  | .fin _ _ _ => true
  | _ => false
def flInf : Fl → Bool
  | .inf _ => true
  | _ => false
/-- The magnitude of a finite value in steps of 2^q. -/
def flSteps (rm : RMode) (rand : Nat) (q : Int) : Fl → Nat
  | .fin n m e => (roundTo rm rand n m e q).1
  | _ => 0
/-- E of a block before any increase: from the largest magnitude. -/
def blockExp (xs : List Fl) : Option Nat :=
  ((xs.filterMap flTop).foldl (fun b x => match b with
    | none => some x
    | some y => some (max x y)) none).map fun q => (q + 127).toNat
/-- A block encoded under R73: scale byte, mantissas, and whether it overflowed. `draws` gives each element's draw. -/
def encodeBlock (four : Bool) (rm : RMode) (draws : Nat → Nat) (xs : List Fl) : Nat × List Int × Bool :=
  let zeros : List Int := xs.map fun _ => 0
  if xs.any fun x => !flFinite x then (255, zeros, xs.any flInf) else
  match blockExp xs with
  | none => (0, zeros, false)
  | some e0 =>
    let steps (e : Nat) : List (Bool × Nat) :=
      (xs.zip (List.range xs.length)).map fun x => (negFl x.1, flSteps rm (draws x.2) ((e : Int) - bsmBias four) x.1)
    let e := if (steps e0).any fun x => decide (bsmMax four < x.2) then e0 + 1 else e0
    if 254 < e then (255, zeros, true)
    else (e, (steps e).map fun x => signedNat x.1 (min x.2 (bsmMax four)), false)
/-- A mantissa decoded (R72): its value, or the canonical NaN of a NaN block; `ovf` marks −2^128, which gives −∞. -/
def decodeBsm (four : Bool) (dst : Fmt) (e : Nat) (m : Int) : FRes :=
  if e = 255 then ⟨nanCode dst, 0#5, false⟩
  else roundFl dst .rne 0 (decide (m < 0)) m.natAbs ((e : Int) - bsmBias four)

end Sys2Proof.Machine
end

