-- ==== Sys2Proof/WellFormed.lean ====
section
/-! DEFINITION. Well-formed instruction terms: the checks an encoding makes that the operand types do not (R109, R121).
A term that fails its check stands for no word. -/

namespace Sys2Proof

/-- The float element types (R177). -/
def VType.isFloat : VType → Bool
  | .f32 | .bf16 => true
  | .i32 | .i16 | .i8 => false

/-- The types with saturating forms (Table 8.1). -/
def VType.isNarrow : VType → Bool
  | .i16 | .i8 => true
  | .f32 | .bf16 | .i32 => false

/-- A .Q data register field is even (R153). -/
def even (r : Reg) : Bool := !r.getLsbD 0

/-- A charm number lies in [1, 10] (R18). -/
def isCharm (j : Reg) : Bool := 0#5 < j && j ≤ 10#5

/-- Whether an instruction term has an encoding's values in every field; an event has nothing to check. -/
def Instr.wf : Instr → Bool
  | .nop _ => true
  | .trap _ _ => true
  | .eret _ => true
  | .wfi _ => true
  | .tlbinv _ _ _ => true
  | .cflush _ _ => true
  | .cinv _ _ => true
  | .ifence _ => true
  | .bkpt _ => true
  | .add _ _ _ _ => true
  | .sub _ _ _ _ => true
  | .and _ _ _ _ => true
  | .or _ _ _ _ => true
  | .xor _ _ _ _ => true
  | .andn _ _ _ _ => true
  | .sll _ _ _ _ => true
  | .srl _ _ _ _ => true
  | .sra _ _ _ _ => true
  | .rol _ _ _ _ => true
  | .ror _ _ _ _ => true
  | .slt _ _ _ _ => true
  | .sltu _ _ _ _ => true
  | .seq _ _ _ _ => true
  | .sne _ _ _ _ => true
  | .min _ _ _ _ => true
  | .max _ _ _ _ => true
  | .minu _ _ _ _ => true
  | .maxu _ _ _ _ => true
  | .clz _ _ _ => true
  | .ctz _ _ _ => true
  | .popc _ _ _ => true
  | .addW _ _ _ _ => true
  | .subW _ _ _ _ => true
  | .andW _ _ _ _ => true
  | .orW _ _ _ _ => true
  | .xorW _ _ _ _ => true
  | .andnW _ _ _ _ => true
  | .sllW _ _ _ _ => true
  | .srlW _ _ _ _ => true
  | .sraW _ _ _ _ => true
  | .rolW _ _ _ _ => true
  | .rorW _ _ _ _ => true
  | .clzW _ _ _ => true
  | .ctzW _ _ _ => true
  | .popcW _ _ _ => true
  | .mul _ _ _ _ => true
  | .mulh _ _ _ _ => true
  | .mulhu _ _ _ _ => true
  | .div _ _ _ _ => true
  | .divu _ _ _ _ => true
  | .rem _ _ _ _ => true
  | .remu _ _ _ _ => true
  | .mulW _ _ _ _ => true
  | .divW _ _ _ _ => true
  | .divuW _ _ _ _ => true
  | .remW _ _ _ _ => true
  | .remuW _ _ _ _ => true
  | .addImm _ _ _ _ => true
  | .addWImm _ _ _ _ => true
  | .andImm _ _ _ _ => true
  | .orImm _ _ _ _ => true
  | .xorImm _ _ _ _ => true
  | .andnImm _ _ _ _ => true
  | .sllImm _ w _ _ sh => !w || sh < 32#6
  | .srlImm _ w _ _ sh => !w || sh < 32#6
  | .sraImm _ w _ _ sh => !w || sh < 32#6
  | .rolImm _ w _ _ sh => !w || sh < 32#6
  | .rorImm _ w _ _ sh => !w || sh < 32#6
  | .sel _ _ _ _ _ => true
  | .bfx _ _ _ len pos => pos.toNat + len.toNat + 1 ≤ 64
  | .bfi _ _ _ len pos => pos.toNat + len.toNat + 1 ≤ 64
  | .liw _ _ _ => true
  | .liwh _ _ _ => true
  | .addpc _ _ _ => true
  | .br _ _ _ => true
  | .beqz _ _ _ _ => true
  | .bnez _ _ _ _ => true
  | .bltz _ _ _ _ => true
  | .bgez _ _ _ _ => true
  | .bgtz _ _ _ _ => true
  | .blez _ _ _ _ => true
  | .bal _ _ _ => true
  | .jr _ _ => true
  | .jal _ _ _ => true
  | .sysr _ _ _ => true
  | .sysw _ _ _ => true
  | .ldB _ _ _ _ => true
  | .ldBu _ _ _ _ => true
  | .ldH _ _ _ _ => true
  | .ldHu _ _ _ _ => true
  | .ldW _ _ _ _ => true
  | .ldWu _ _ _ _ => true
  | .ldD _ _ _ _ => true
  | .stB _ _ _ _ => true
  | .stH _ _ _ _ => true
  | .stW _ _ _ _ => true
  | .stD _ _ _ _ => true
  | .stQ _ d _ _ => even d
  | .ldBAcq _ _ _ _ => true
  | .ldBuAcq _ _ _ _ => true
  | .ldHAcq _ _ _ _ => true
  | .ldHuAcq _ _ _ _ => true
  | .ldWAcq _ _ _ _ => true
  | .ldWuAcq _ _ _ _ => true
  | .ldDAcq _ _ _ _ => true
  | .stBRel _ _ _ _ _ => true
  | .stHRel _ _ _ _ _ => true
  | .stWRel _ _ _ _ _ => true
  | .stDRel _ _ _ _ _ => true
  | .stQRel _ _ _ _ b => even b
  | .stBCnt _ _ _ _ => true
  | .stHCnt _ _ _ _ => true
  | .stWCnt _ _ _ _ => true
  | .stDCnt _ _ _ _ => true
  | .pfch _ _ _ => true
  | .amoSwap _ _ _ _ _ _ _ => true
  | .amoAdd _ _ _ _ _ _ _ => true
  | .amoAnd _ _ _ _ _ _ _ => true
  | .amoOr _ _ _ _ _ _ _ => true
  | .amoXor _ _ _ _ _ _ _ => true
  | .amoMin _ _ _ _ _ _ _ => true
  | .amoMax _ _ _ _ _ _ _ => true
  | .amoMinu _ _ _ _ _ _ _ => true
  | .amoMaxu _ _ _ _ _ _ _ => true
  | .amocas _ _ _ _ _ _ _ => true
  | .fence _ _ succ pred => succ != 0#2 && pred != 0#2
  | .arrive _ _ _ => true
  | .waitb _ _ _ => true
  | .phase _ => true
  | .qwait _ _ => true
  | .sleep _ _ => true
  | .wany _ _ _ => true
  | .fadd _ rm _ _ _ => rm != .sr
  | .fsub _ rm _ _ _ => rm != .sr
  | .fmul _ rm _ _ _ => rm != .sr
  | .fmin _ _ _ _ => true
  | .fmax _ _ _ _ => true
  | .fsgn _ _ _ _ => true
  | .fexp2 _ _ _ => true
  | .flog2 _ _ _ => true
  | .frcp _ _ _ => true
  | .frsq _ _ _ => true
  | .ffma _ _ _ _ _ => true
  | .ffms _ _ _ _ _ => true
  | .fcmp _ _ _ _ _ => true
  | .fcvtI32F32 _ _ _ _ => true
  | .fcvtUint32F32 _ _ _ _ => true
  | .fcvtI64F32 _ _ _ _ => true
  | .fcvtUint64F32 _ _ _ _ => true
  | .fcvtF32I32 _ _ _ _ => true
  | .fcvtF32Uint32 _ _ _ _ => true
  | .fcvtF32I64 _ _ _ _ => true
  | .fcvtF32Uint64 _ _ _ _ => true
  | .fcvtBf16F32 _ _ _ _ => true
  | .fcvtF32Bf16 _ _ _ => true
  | .fcvtE4m3F32 _ _ _ _ => true
  | .fcvtE5m2F32 _ _ _ _ => true
  | .fcvtF32E4m3 _ _ _ => true
  | .fcvtF32E5m2 _ _ _ => true
  | .vadd _ _ _ _ _ _ => true
  | .vsub _ _ _ _ _ _ => true
  | .vmul _ _ _ _ _ _ => true
  | .vfma _ _ _ _ _ _ => true
  | .vmin _ _ _ _ _ _ => true
  | .vmax _ _ _ _ _ _ => true
  | .vred _ _ _ _ _ _ => true
  | .vdot _ _ _ _ _ _ => true
  | .vsqsum _ t _ _ _ => t.isFloat
  | .vaddSs _ t _ _ _ _ => t.isNarrow
  | .vand _ t _ _ _ _ => !t.isFloat
  | .vor _ t _ _ _ _ => !t.isFloat
  | .vxor _ t _ _ _ _ => !t.isFloat
  | .vshl _ t _ _ _ _ => !t.isFloat
  | .vshr _ t _ _ _ _ => !t.isFloat
  | .vsra _ t _ _ _ _ => !t.isFloat
  | .vsubSs _ t _ _ _ _ => t.isNarrow
  | .vcvtBf16F32 _ _ _ _ _ => true
  | .vcvtF32Bf16 _ rm _ _ _ => rm == .rne
  | .vcvtI32F32 _ _ _ _ _ => true
  | .vcvtF32I32 _ _ _ _ _ => true
  | .vcvtI16I32 _ rm _ _ _ => rm == .rne
  | .vcvtI8I16 _ rm _ _ _ => rm == .rne
  | .vcvtI32I16 _ rm _ _ _ => rm == .rne
  | .vcvtI16I8 _ rm _ _ _ => rm == .rne
  | .vcmpFloat _ t _ k _ _ _ => t.isFloat && k != 0#3
  | .vcmpInteger _ t _ k _ _ _ => !t.isFloat && k != 0#3
  | .vsel _ _ _ _ _ => true
  | .vbcast32 _ _ _ _ => true
  | .vbcast16 _ _ _ _ => true
  | .vbcast8 _ _ _ _ => true
  | .vmov _ _ _ _ => true
  | .vext32 _ _ _ _ => true
  | .vext16 _ _ _ _ => true
  | .vext8 _ _ _ _ => true
  | .vperm32 _ _ _ _ _ => true
  | .vperm16 _ _ _ _ _ => true
  | .vperm8 _ _ _ _ _ => true
  | .vslide32 _ _ _ _ _ => true
  | .vslide16 _ _ _ _ _ => true
  | .vslide8 _ _ _ _ _ => true
  | .mand _ d _ _ => d != 0#3
  | .mor _ d _ _ => d != 0#3
  | .mxor _ d _ _ => d != 0#3
  | .mnot _ d _ => d != 0#3
  | .mpop _ _ _ => true
  | .mfirst _ _ _ => true
  | .vld _ _ _ _ => true
  | .vst _ _ _ _ => true
  | .vlds32 _ _ _ _ _ => true
  | .vlds16 _ _ _ _ _ => true
  | .vlds8 _ _ _ _ _ => true
  | .vsts32 _ _ _ _ _ => true
  | .vsts16 _ _ _ _ _ => true
  | .vsts8 _ _ _ _ _ => true
  | .vgth32 _ _ _ _ _ => true
  | .vgth16 _ _ _ _ _ => true
  | .vgth8 _ _ _ _ _ => true
  | .vsct32 _ _ _ _ _ => true
  | .vsct16 _ _ _ _ _ => true
  | .vsct8 _ _ _ _ _ => true
  | .vexp2 _ _ _ _ => true
  | .vlog2 _ _ _ _ => true
  | .vrcp _ _ _ _ => true
  | .vrsq _ _ _ _ => true
  | .mlease _ n => 0#12 < n && n ≤ 64#12
  | .mrel _ => true
  | .mshape _ b => 0#5 < b && b ≤ 4#5
  | .mzacc _ => true
  | .mswap _ => true
  | .mgang _ _ => true
  | .mwaitMatrix _ _ => true
  | .mldw _ _ _ _ => true
  | .mmul _ _ _ _ _ _ => true
  | .mmult _ _ _ _ _ _ => true
  | .mrd _ _ _ _ => true
  | .mst _ _ _ _ => true
  | .cpy _ _ _ _ _ => true
  | .cpy2 _ _ _ => true
  | .cpyt _ _ _ => true
  | .cgth _ _ _ => true
  | .cdec _ _ _ => true
  | .cenc _ _ _ _ => true
  | .cseal _ => true
  | .cstage _ => true
  | .cwait _ n => n < 2048#12
  | .rbind _ _ _ _ _ => true
  | .racq _ _ _ => true
  | .rrel _ _ _ => true
  | .rstat _ _ _ => true
  | .sbindRing _ _ _ => true
  | .sbindAddr _ _ _ _ _ => true
  | .sunbind _ _ => true
  | .mopen _ _ _ => true
  | .mclasp _ _ _ _ => true
  | .mzero _ _ _ => true
  | .mwaitMerge _ _ _ => true
  | .mstat _ _ _ => true
  | .mput _ _ _ _ => true
  | .kred _ _ _ _ _ _ => true
  | .kmax _ _ _ _ _ _ => true
  | .krbs _ _ _ _ _ _ => true
  | .kwait _ _ _ => true
  | .kstat _ _ _ => true
  | .spawn _ _ j _ => isCharm j
  | .hexit _ _ => true
  | .hjoin _ _ j => isCharm j
  | .hstat _ _ => true
  | .loop _ _ => true
  | .rng _ _ _ _ => true
  | .annulledStep _ => true
  | .breakpointMatch _ _ _ => true
  | .trapEntry _ _ _ => true
  | .interrupt _ => true
  | .timerMatch _ => true
  | .doorbellWrite _ => true
  | .ipendWrite _ => true
  | .statusWrite _ => true
  | .loopStateWrite _ _ => true
  | .allowWrite _ => true
  | .bmaskWrite _ _ => true
  | .peermaskWrite _ => true
  | .bwphaseWrite _ => true
  | .preemptionRequest _ => true
  | .contextStop _ _ => true
  | .teamSave _ => true
  | .migrationRequest _ _ => true
  | .migrateCore _ _ => true
  | .thermalClockLimit _ => true
  | .diePowerOff _ => true
  | .barrierGenerationComplete _ _ => true
  | .quiescenceWave _ => true
  | .storeDrain _ _ _ => true
  | .lineWriteback _ _ => true
  | .lineInvalidate _ _ => true
  | .pageWalk _ _ _ _ => true
  | .engineJobStart _ _ => true
  | .copyBeat _ _ => true
  | .engineRingTake _ _ => true
  | .faultRecordPost _ => true
  | .fqdoorRing _ => true
  | .leaseGrant _ => true
  | .matrixCommandComplete _ => true
  | .mstBeat _ => true
  | .gangDissolve _ => true
  | .bandWake _ => true
  | .mergePutAtUnit _ _ => true
  | .mergeClaspAtUnit _ _ _ => true
  | .mergeCommit _ _ => true
  | .mzeroAtUnit _ _ => true
  | .busJobStart _ => true
  | .kwemanWindow _ _ _ => true
  | .frameStart _ _ => true
  | .kwheelWrite _ _ => true
  | .writerLeavesSegment _ _ _ => true
  | .segmentCalibration _ _ => true
  | .recalibrationRequest _ _ => true
  | .caratOffer _ _ _ _ => true
  | .caratAccept _ _ _ => true
  | .caratConfirm _ _ _ => true
  | .loanTermEnd _ _ => true
  | .intervalStart _ => true
  | .allowanceReached _ => true
  | .pcaratWrite _ => true
  | .supplyLossWarning _ => true
  | .ckptGo => true
  | .ckptDone _ => true
  | .qheadWrite _ _ _ => true
  | .qctlWrite _ _ _ => true
  | .queueRecordRead _ _ => true
  | .waitPoll _ _ => true
  | .weightAction _ _ => true
  | .graphNodeRead _ _ => true
  | .plockTake _ _ => true
  | .scheduleBind _ _ => true
  | .dispatchWrite _ _ => true
  | .teamFinish _ => true
  | .launchCompletion _ => true
  | .launchCancel _ => true
  | .bankIdleDeepen _ _ => true
  | .bankWake _ _ => true
  | .refreshWindow => true
  | .clusterGate _ => true
  | .fqctlWrite _ _ => true
  | .trctlWrite _ _ => true
  | .cgctlWrite _ _ => true
  | .hubRegisterWrite _ _ => true
  | .counterGridStore _ => true
  | .eolhUpdate _ => true
  | .dbgctlHalt _ => true
  | .dbgctlResume _ => true
  | .dbgctlStep _ _ => true
  | .dbgctlAttach _ => true
  | .correctedError _ _ => true
  | .uncorrectableError _ => true
  | .registerUncorrectable _ _ => true
  | .linkCrcReplay _ _ => true
  | .laneShed _ _ => true
  | .laneRestore _ _ => true
  | .hostRead _ _ => true
  | .hostWrite _ _ => true
  | .packageReset _ => true
  | .sleepTimeout _ _ => true
  | .dieStartsAgain _ => true

end Sys2Proof
end

