-- ==== Sys2Proof/Decode.lean ====
section
/-! DEFINITION. The decoder, total on any words and refusing by name, and the encoder, both written from the formats of
Table 5.1 and the opcode map of Table 5.5 (R106–R113, R121). -/

namespace Sys2Proof

/-- Why a word is no instruction (R109): all but the header raise Illegal Instruction. -/
inductive DecodeError
  /-- The major opcode is one that Table 5.5 marks as reserved. -/
  | reservedOpcode
  /-- The selector value is not listed for the opcode. -/
  | selector
  /-- A reserved field is not zero. -/
  | reservedField
  /-- A literal field is out of range, or a field value that the entry refuses. -/
  | literal
  /-- Major opcode 0x7F: a block header in a body position (Block Format). -/
  | header
  /-- Fewer bytes than the instruction has. -/
  | tooShort
  deriving DecidableEq, Repr

/-! ### Fields of a word (Table 5.1) -/

/-- WORD[6:0], the major opcode. -/
def fOp (w : Word32) : BitVec 7 := w.extractLsb' 0 7
/-- WORD[31:29], STL. -/
def fStl (w : Word32) : Stl := w.extractLsb' 29 3
/-- d (or vd), bits [28:24]. -/
def fD (w : Word32) : Reg := w.extractLsb' 24 5
/-- a (or va), bits [23:19]. -/
def fA (w : Word32) : Reg := w.extractLsb' 19 5
/-- b (or vb), bits [18:14]. -/
def fB (w : Word32) : Reg := w.extractLsb' 14 5
/-- fn7, bits [13:7]. -/
def fFn7 (w : Word32) : BitVec 7 := w.extractLsb' 7 7
/-- c, bits [13:9] of the RC format. -/
def fC (w : Word32) : Reg := w.extractLsb' 9 5
/-- fn2, bits [8:7] of the RC format. -/
def fFn2 (w : Word32) : BitVec 2 := w.extractLsb' 7 2
/-- imm12, bits [18:7] of the I format. -/
def fImm12 (w : Word32) : BitVec 12 := w.extractLsb' 7 12
/-- N, bit 28 of the B format. -/
def fN (w : Word32) : Bool := w.getLsbD 28
/-- cond, bits [27:25] of the B format. -/
def fCond (w : Word32) : BitVec 3 := w.extractLsb' 25 3
/-- a, bits [24:20] of the B format. -/
def fBa (w : Word32) : Reg := w.extractLsb' 20 5
/-- off13, bits [19:7] of the B format. -/
def fOff13 (w : Word32) : BitVec 13 := w.extractLsb' 7 13
/-- off17, bits [23:7] of the J format. -/
def fOff17 (w : Word32) : BitVec 17 := w.extractLsb' 7 17
/-- The mask field, bits [13:11] of the V format. -/
def fMask (w : Word32) : MReg := w.extractLsb' 11 3
/-- fn4, bits [10:7] of the V format. -/
def fFn4 (w : Word32) : BitVec 4 := w.extractLsb' 7 4

/-! ### Codes of the named alternatives -/

/-- One bit from a truth value. -/
def bit (b : Bool) : BitVec 1 := if b then 1#1 else 0#1
/-- Scope codes (R121). -/
def scopeCode : Scope → BitVec 3
  | .core => 0#3 | .cl => 1#3 | .die => 2#3 | .pkg => 3#3 | .sys => 4#3
/-- Ordering codes of the atomics (R157). -/
def orderCode : MemOrder → BitVec 2
  | .plain => 0#2 | .acq => 1#2 | .rel => 2#2 | .ar => 3#2
/-- Rounding-mode codes (Table 3.2). -/
def modeCode : RMode → BitVec 3
  | .rne => 0#3 | .rtz => 1#3 | .rdn => 2#3 | .rup => 3#3 | .sr => 4#3
/-- Relation codes of R136. -/
def frelCode : FRel → BitVec 3
  | .eq => 0#3 | .ne => 1#3 | .lt => 2#3 | .le => 3#3 | .gt => 4#3 | .ge => 5#3 | .un => 6#3
/-- Relation codes of integer VCMP (R181). -/
def irelCode : IRel → BitVec 3
  | .eq => 0#3 | .ne => 1#3 | .lt => 2#3 | .le => 3#3 | .gt => 4#3 | .ge => 5#3 | .ltu => 6#3 | .geu => 7#3
/-- The major opcode of an element type (Table 5.5). -/
def vtypeOp : VType → BitVec 7
  | .f32 => 0x30#7 | .bf16 => 0x31#7 | .i32 => 0x32#7 | .i16 => 0x33#7 | .i8 => 0x34#7
/-- vd[4:3] of integer VCMP (R181). -/
def itypeCode : VType → BitVec 2
  | .i32 => 0#2 | .i16 => 1#2 | .i8 => 2#2 | .f32 => 3#2 | .bf16 => 3#2
/-- VRED's literal (R178). -/
def redCode : RedOp → BitVec 5
  | .sum => 0#5 | .min => 1#5 | .max => 2#5
/-- fn2 of KRED and KMAX. -/
def kwidthCode : KWidth → BitVec 2
  | .k8 => 0#2 | .k16 => 1#2 | .k32 => 2#2
/-- fn2 of KRBS. -/
def krbsCode : KrbsForm → BitVec 2
  | .bsm8 => 0#2 | .bsm4 => 1#2 | .bsm8bnd => 2#2 | .bsm4bnd => 3#2

/-- The result of decoding. -/
abbrev Decoded := Except DecodeError Instr

/-- The scope a code names; codes 5–7 are reserved (R121). -/
def scopeOf (c : BitVec 3) (k : Scope → Instr) : Decoded :=
  match c.toNat with
  | 0 => .ok (k .core) | 1 => .ok (k .cl) | 2 => .ok (k .die) | 3 => .ok (k .pkg) | 4 => .ok (k .sys)
  | _ => .error .literal
/-- The ordering a code names. -/
def orderOf (c : BitVec 2) : MemOrder :=
  match c.toNat with
  | 0 => .plain | 1 => .acq | 2 => .rel | _ => .ar
/-- The rounding mode a code names, SR only where it is accepted (R65). -/
def modeOf (sr : Bool) (c : BitVec 3) (k : RMode → Instr) : Decoded :=
  match c.toNat with
  | 0 => .ok (k .rne) | 1 => .ok (k .rtz) | 2 => .ok (k .rdn) | 3 => .ok (k .rup)
  | 4 => if sr then .ok (k .sr) else .error .literal
  | _ => .error .literal
/-- The float relation a code names; 7 is refused (R136). -/
def frelOf (c : BitVec 3) (k : FRel → Instr) : Decoded :=
  match c.toNat with
  | 0 => .ok (k .eq) | 1 => .ok (k .ne) | 2 => .ok (k .lt) | 3 => .ok (k .le) | 4 => .ok (k .gt) | 5 => .ok (k .ge)
  | 6 => .ok (k .un)
  | _ => .error .selector
/-- The integer relation a code names. -/
def irelOf (c : BitVec 3) : IRel :=
  match c.toNat with
  | 0 => .eq | 1 => .ne | 2 => .lt | 3 => .le | 4 => .gt | 5 => .ge | 6 => .ltu | _ => .geu
/-- A field that must be zero (R109). -/
def reserved (zero : Bool) (r : Decoded) : Decoded := if zero then r else .error .reservedField
/-- A literal that must lie in range (R107). -/
def inRange (ok : Bool) (r : Decoded) : Decoded := if ok then r else .error .literal

/-! ### Packing (Table 5.1) -/

/-- The R format. -/
def packR (stl : Stl) (d a b : Reg) (fn7 op : BitVec 7) : Word32 := stl ++ d ++ a ++ b ++ fn7 ++ op
/-- The RC format. -/
def packRC (stl : Stl) (d a b c : Reg) (fn2 : BitVec 2) (op : BitVec 7) : Word32 := stl ++ d ++ a ++ b ++ c ++ fn2 ++ op
/-- The I format. -/
def packI (stl : Stl) (d a : Reg) (imm : BitVec 12) (op : BitVec 7) : Word32 := stl ++ d ++ a ++ imm ++ op
/-- The B format. -/
def packB (stl : Stl) (n : BitVec 1) (cond : BitVec 3) (a : Reg) (off : BitVec 13) (op : BitVec 7) : Word32 :=
  stl ++ n ++ cond ++ a ++ off ++ op
/-- The J format. -/
def packJ (stl : Stl) (d : Reg) (off : BitVec 17) (op : BitVec 7) : Word32 := stl ++ d ++ off ++ op
/-- The V format. -/
def packV (stl : Stl) (vd va vb : Reg) (mask : MReg) (fn4 : BitVec 4) (op : BitVec 7) : Word32 :=
  stl ++ vd ++ va ++ vb ++ mask ++ fn4 ++ op

/-! ### The decoder, one function per group of majors -/

/-- Major 0x00: NOP and the system instructions (R148, R270). -/
def decSystem (w : Word32) : Decoded :=
  let z := fD w == 0#5
  match (fFn7 w).toNat with
  | 0 => reserved (z && fA w == 0#5 && fB w == 0#5) (.ok (.nop (fStl w)))
  | 1 => reserved (z && fA w == 0#5) (.ok (.trap (fStl w) (fB w)))
  | 2 => reserved (z && fA w == 0#5 && fB w == 0#5) (.ok (.eret (fStl w)))
  | 3 => reserved (z && fA w == 0#5 && fB w == 0#5) (.ok (.wfi (fStl w)))
  | 4 => reserved z (.ok (.tlbinv (fStl w) (fA w) (fB w)))
  | 5 => reserved (z && fB w == 0#5) (.ok (.cflush (fStl w) (fA w)))
  | 6 => reserved (z && fB w == 0#5) (.ok (.cinv (fStl w) (fA w)))
  | 7 => reserved (z && fA w == 0#5 && fB w == 0#5) (.ok (.ifence (fStl w)))
  | 8 => reserved (z && fA w == 0#5 && fB w == 0#5) (.ok (.bkpt (fStl w)))
  | _ => .error .selector

/-- Major 0x01 (R127). -/
def decAlu (w : Word32) : Decoded :=
  let s := fStl w; let d := fD w; let a := fA w; let b := fB w
  match (fFn7 w).toNat with
  | 0 => .ok (.add s d a b) | 1 => .ok (.sub s d a b) | 2 => .ok (.and s d a b) | 3 => .ok (.or s d a b)
  | 4 => .ok (.xor s d a b) | 5 => .ok (.andn s d a b) | 6 => .ok (.sll s d a b) | 7 => .ok (.srl s d a b)
  | 8 => .ok (.sra s d a b) | 9 => .ok (.rol s d a b) | 10 => .ok (.ror s d a b) | 11 => .ok (.slt s d a b)
  | 12 => .ok (.sltu s d a b) | 13 => .ok (.seq s d a b) | 14 => .ok (.sne s d a b) | 15 => .ok (.min s d a b)
  | 16 => .ok (.max s d a b) | 17 => .ok (.minu s d a b) | 18 => .ok (.maxu s d a b)
  | 19 => reserved (b == 0#5) (.ok (.clz s d a))
  | 20 => reserved (b == 0#5) (.ok (.ctz s d a))
  | 21 => reserved (b == 0#5) (.ok (.popc s d a))
  | _ => .error .selector

/-- Major 0x02 (R127). -/
def decAluW (w : Word32) : Decoded :=
  let s := fStl w; let d := fD w; let a := fA w; let b := fB w
  match (fFn7 w).toNat with
  | 0 => .ok (.addW s d a b) | 1 => .ok (.subW s d a b) | 2 => .ok (.andW s d a b) | 3 => .ok (.orW s d a b)
  | 4 => .ok (.xorW s d a b) | 5 => .ok (.andnW s d a b) | 6 => .ok (.sllW s d a b) | 7 => .ok (.srlW s d a b)
  | 8 => .ok (.sraW s d a b) | 9 => .ok (.rolW s d a b) | 10 => .ok (.rorW s d a b)
  | 19 => reserved (b == 0#5) (.ok (.clzW s d a))
  | 20 => reserved (b == 0#5) (.ok (.ctzW s d a))
  | 21 => reserved (b == 0#5) (.ok (.popcW s d a))
  | _ => .error .selector

/-- Major 0x03 (R128). -/
def decMulDiv (w : Word32) : Decoded :=
  let s := fStl w; let d := fD w; let a := fA w; let b := fB w
  match (fFn7 w).toNat with
  | 0 => .ok (.mul s d a b) | 1 => .ok (.mulh s d a b) | 2 => .ok (.mulhu s d a b) | 3 => .ok (.div s d a b)
  | 4 => .ok (.divu s d a b) | 5 => .ok (.rem s d a b) | 6 => .ok (.remu s d a b)
  | 8 => .ok (.mulW s d a b) | 11 => .ok (.divW s d a b) | 12 => .ok (.divuW s d a b) | 13 => .ok (.remW s d a b)
  | 14 => .ok (.remuW s d a b)
  | _ => .error .selector

/-- Majors 0x0A and 0x0B (R130). -/
def decShiftImm (wide : Bool) (w : Word32) : Decoded :=
  let s := fStl w; let d := fD w; let a := fA w
  let sh : BitVec 6 := (fImm12 w).extractLsb' 0 6
  inRange (!wide || sh < 32#6)
    (match ((fImm12 w).extractLsb' 6 6).toNat with
     | 0 => .ok (.sllImm s wide d a sh) | 1 => .ok (.srlImm s wide d a sh) | 2 => .ok (.sraImm s wide d a sh)
     | 3 => .ok (.rolImm s wide d a sh) | 4 => .ok (.rorImm s wide d a sh)
     | _ => .error .selector)

/-- Major 0x0F with its literal word (R108, R133). -/
def decLiteral (w lit : Word32) : Decoded :=
  reserved (fA w == 0#5 && fB w == 0#5)
    (match (fFn7 w).toNat with
     | 0 => .ok (.liw (fStl w) (fD w) lit) | 1 => .ok (.liwh (fStl w) (fD w) lit)
     | 2 => .ok (.addpc (fStl w) (fD w) lit)
     | _ => .error .selector)

/-- Major 0x10 (R138). -/
def decBranch (w : Word32) : Decoded :=
  let s := fStl w; let n := fN w; let a := fBa w; let o := fOff13 w
  match (fCond w).toNat with
  | 0 => reserved (a == 0#5) (.ok (.br s n o))
  | 1 => .ok (.beqz s n a o) | 2 => .ok (.bnez s n a o) | 3 => .ok (.bltz s n a o) | 4 => .ok (.bgez s n a o)
  | 5 => .ok (.bgtz s n a o) | 6 => .ok (.blez s n a o)
  | _ => .error .selector

/-- Major 0x12 (R140). -/
def decJump (w : Word32) : Decoded :=
  match (fFn7 w).toNat with
  | 0 => reserved (fD w == 0#5 && fB w == 0#5) (.ok (.jr (fStl w) (fA w)))
  | 1 => reserved (fB w == 0#5) (.ok (.jal (fStl w) (fD w) (fA w)))
  | _ => .error .selector

/-- Major 0x18 (R151). -/
def decLoad (w : Word32) : Decoded :=
  let s := fStl w; let d := fD w; let a := fA w; let o : BitVec 9 := (fImm12 w).extractLsb' 3 9
  match ((fImm12 w).extractLsb' 0 3).toNat with
  | 0 => .ok (.ldB s d a o) | 1 => .ok (.ldBu s d a o) | 2 => .ok (.ldH s d a o) | 3 => .ok (.ldHu s d a o)
  | 4 => .ok (.ldW s d a o) | 5 => .ok (.ldWu s d a o) | 6 => .ok (.ldD s d a o)
  | _ => .error .selector

/-- Major 0x19 (R153). -/
def decStore (w : Word32) : Decoded :=
  let s := fStl w; let d := fD w; let a := fA w; let o : BitVec 9 := (fImm12 w).extractLsb' 3 9
  match ((fImm12 w).extractLsb' 0 3).toNat with
  | 0 => .ok (.stB s d a o) | 2 => .ok (.stH s d a o) | 4 => .ok (.stW s d a o) | 6 => .ok (.stD s d a o)
  | 7 => inRange (even d) (.ok (.stQ s d a o))
  | _ => .error .selector

/-- Major 0x1A (R152). -/
def decLoadAcq (w : Word32) : Decoded :=
  let s := fStl w; let d := fD w; let a := fA w; let c : BitVec 3 := (fFn7 w).extractLsb' 3 3
  reserved (fB w == 0#5 && !(fFn7 w).getLsbD 6)
    (match ((fFn7 w).extractLsb' 0 3).toNat with
     | 0 => scopeOf c fun p => .ldBAcq s d a p
     | 1 => scopeOf c fun p => .ldBuAcq s d a p
     | 2 => scopeOf c fun p => .ldHAcq s d a p
     | 3 => scopeOf c fun p => .ldHuAcq s d a p
     | 4 => scopeOf c fun p => .ldWAcq s d a p
     | 5 => scopeOf c fun p => .ldWuAcq s d a p
     | 6 => scopeOf c fun p => .ldDAcq s d a p
     | _ => .error .selector)

/-- Major 0x1B (R154). -/
def decStoreRel (w : Word32) : Decoded :=
  let s := fStl w; let a := fA w; let b := fB w; let c : BitVec 3 := (fFn7 w).extractLsb' 3 3
  let r := (fFn7 w).getLsbD 6
  reserved (fD w == 0#5)
    (match ((fFn7 w).extractLsb' 0 3).toNat with
     | 0 => scopeOf c fun p => .stBRel s r p a b
     | 2 => scopeOf c fun p => .stHRel s r p a b
     | 4 => scopeOf c fun p => .stWRel s r p a b
     | 6 => scopeOf c fun p => .stDRel s r p a b
     | 7 => inRange (even b) (scopeOf c fun p => .stQRel s r p a b)
     | _ => .error .selector)

/-- Major 0x1C (R155). -/
def decStoreCnt (w : Word32) : Decoded :=
  let s := fStl w; let d := fD w; let a := fA w; let o : BitVec 9 := (fImm12 w).extractLsb' 3 9
  match ((fImm12 w).extractLsb' 0 3).toNat with
  | 0 => .ok (.stBCnt s d a o) | 2 => .ok (.stHCnt s d a o) | 4 => .ok (.stWCnt s d a o) | 6 => .ok (.stDCnt s d a o)
  | _ => .error .selector

/-- Majors 0x20 and 0x21 (R157). -/
def decAmo (far : Bool) (w : Word32) : Decoded :=
  let s := fStl w; let d := fD w; let a := fA w; let b := fB w
  let dw := (fFn7 w).getLsbD 4; let r := orderOf ((fFn7 w).extractLsb' 5 2)
  match ((fFn7 w).extractLsb' 0 4).toNat with
  | 0 => .ok (.amoSwap s far dw r d a b) | 1 => .ok (.amoAdd s far dw r d a b) | 2 => .ok (.amoAnd s far dw r d a b)
  | 3 => .ok (.amoOr s far dw r d a b) | 4 => .ok (.amoXor s far dw r d a b) | 5 => .ok (.amoMin s far dw r d a b)
  | 6 => .ok (.amoMax s far dw r d a b) | 7 => .ok (.amoMinu s far dw r d a b) | 8 => .ok (.amoMaxu s far dw r d a b)
  | _ => .error .selector

/-- Major 0x22 (R158). -/
def decAmocas (w : Word32) : Decoded :=
  reserved ((fFn7 w).extractLsb' 4 3 == 0#3)
    (.ok (.amocas (fStl w) ((fFn7 w).getLsbD 3) ((fFn7 w).getLsbD 0) (orderOf ((fFn7 w).extractLsb' 1 2))
      (fD w) (fA w) (fB w)))

/-- Major 0x25 (R159). -/
def decFence (w : Word32) : Decoded :=
  let pred : BitVec 2 := (fFn7 w).extractLsb' 0 2; let succ : BitVec 2 := (fFn7 w).extractLsb' 2 2
  reserved (fD w == 0#5 && fA w == 0#5 && fB w == 0#5)
    (inRange (succ != 0#2 && pred != 0#2)
      (scopeOf ((fFn7 w).extractLsb' 4 3) fun p => .fence (fStl w) p succ pred))

/-- The low three bits of a literal field whose range is [0, 7]. -/
def lit3 (r : Reg) : BitVec 3 := r.extractLsb' 0 3
/-- Whether a five-bit literal field lies in [0, 7]. -/
def isLit3 (r : Reg) : Bool := r.extractLsb' 3 2 == 0#2

/-- Major 0x26 (R160). -/
def decBarrier (w : Word32) : Decoded :=
  let s := fStl w
  match (fFn7 w).toNat with
  | 0 => reserved (fD w == 0#5) (inRange (isLit3 (fB w)) (.ok (.arrive s (fA w) (lit3 (fB w)))))
  | 1 => reserved (fA w == 0#5) (inRange (isLit3 (fB w)) (.ok (.waitb s (fD w) (lit3 (fB w)))))
  | 2 => reserved (fD w == 0#5 && fA w == 0#5 && fB w == 0#5) (.ok (.phase s))
  | 3 => reserved (fA w == 0#5 && fB w == 0#5) (.ok (.qwait s (fD w)))
  | 4 => reserved (fD w == 0#5 && fB w == 0#5) (.ok (.sleep s (fA w)))
  | _ => .error .selector

/-- Major 0x27 (R160). -/
def decWany (w : Word32) : Decoded :=
  reserved (fA w == 0#5 && (fImm12 w).extractLsb' 8 4 == 0#4)
    (.ok (.wany (fStl w) (fD w) ((fImm12 w).extractLsb' 0 8)))

/-- Major 0x28 (R134). -/
def decFp (w : Word32) : Decoded :=
  let s := fStl w; let d := fD w; let a := fA w; let b := fB w
  let m : BitVec 3 := (fFn7 w).extractLsb' 4 3; let z := m == 0#3
  match ((fFn7 w).extractLsb' 0 4).toNat with
  | 0 => modeOf false m fun r => .fadd s r d a b
  | 1 => modeOf false m fun r => .fsub s r d a b
  | 2 => modeOf false m fun r => .fmul s r d a b
  | 3 => inRange z (.ok (.fmin s d a b)) | 4 => inRange z (.ok (.fmax s d a b)) | 5 => inRange z (.ok (.fsgn s d a b))
  | 6 => inRange z (reserved (b == 0#5) (.ok (.fexp2 s d a)))
  | 7 => inRange z (reserved (b == 0#5) (.ok (.flog2 s d a)))
  | 8 => inRange z (reserved (b == 0#5) (.ok (.frcp s d a)))
  | 9 => inRange z (reserved (b == 0#5) (.ok (.frsq s d a)))
  | _ => .error .selector

/-- Major 0x29 (R135). -/
def decFma (w : Word32) : Decoded :=
  match (fFn2 w).toNat with
  | 0 => .ok (.ffma (fStl w) (fD w) (fA w) (fB w) (fC w))
  | 1 => .ok (.ffms (fStl w) (fD w) (fA w) (fB w) (fC w))
  | _ => .error .selector

/-- Major 0x2A (R136). -/
def decFcmp (w : Word32) : Decoded :=
  reserved ((fFn7 w).extractLsb' 3 4 == 0#4)
    (frelOf ((fFn7 w).extractLsb' 0 3) fun r => .fcmp (fStl w) r (fD w) (fA w) (fB w))

/-- Major 0x2B (R137). -/
def decFcvt (w : Word32) : Decoded :=
  let s := fStl w; let d := fD w; let a := fA w; let m : BitVec 3 := (fFn7 w).extractLsb' 0 3
  reserved (fB w == 0#5)
    (match ((fFn7 w).extractLsb' 3 4).toNat with
     | 0 => modeOf true m fun r => .fcvtI32F32 s r d a
     | 1 => modeOf true m fun r => .fcvtUint32F32 s r d a
     | 2 => modeOf true m fun r => .fcvtI64F32 s r d a
     | 3 => modeOf true m fun r => .fcvtUint64F32 s r d a
     | 4 => modeOf true m fun r => .fcvtF32I32 s r d a
     | 5 => modeOf true m fun r => .fcvtF32Uint32 s r d a
     | 6 => modeOf true m fun r => .fcvtF32I64 s r d a
     | 7 => modeOf true m fun r => .fcvtF32Uint64 s r d a
     | 8 => modeOf true m fun r => .fcvtBf16F32 s r d a
     | 9 => inRange (m == 0#3) (.ok (.fcvtF32Bf16 s d a))
     | 10 => modeOf true m fun r => .fcvtE4m3F32 s r d a
     | 11 => modeOf true m fun r => .fcvtE5m2F32 s r d a
     | 12 => inRange (m == 0#3) (.ok (.fcvtF32E4m3 s d a))
     | 13 => inRange (m == 0#3) (.ok (.fcvtF32E5m2 s d a))
     | _ => .error .selector)

/-- VRED's literal (R178). -/
def redOf (r : Reg) (k : RedOp → Instr) : Decoded :=
  match r.toNat with
  | 0 => .ok (k .sum) | 1 => .ok (k .min) | 2 => .ok (k .max)
  | _ => .error .literal

/-- Majors 0x30–0x34 (R177, R178). -/
def decVector (t : VType) (w : Word32) : Decoded :=
  let s := fStl w; let d := fD w; let a := fA w; let b := fB w; let m := fMask w
  match (fFn4 w).toNat with
  | 0 => .ok (.vadd s t d a b m) | 1 => .ok (.vsub s t d a b m) | 2 => .ok (.vmul s t d a b m)
  | 3 => .ok (.vfma s t d a b m) | 4 => .ok (.vmin s t d a b m) | 5 => .ok (.vmax s t d a b m)
  | 6 => redOf b fun o => .vred s t d a o m
  | 7 => .ok (.vdot s t d a b m)
  | 8 => if t.isFloat then reserved (b == 0#5) (.ok (.vsqsum s t d a m))
         else if t.isNarrow then .ok (.vaddSs s t d a b m) else .error .selector
  | 9 => if t.isFloat then .error .selector else .ok (.vand s t d a b m)
  | 10 => if t.isFloat then .error .selector else .ok (.vor s t d a b m)
  | 11 => if t.isFloat then .error .selector else .ok (.vxor s t d a b m)
  | 12 => if t.isFloat then .error .selector else .ok (.vshl s t d a b m)
  | 13 => if t.isFloat then .error .selector else .ok (.vshr s t d a b m)
  | 14 => if t.isFloat then .error .selector else .ok (.vsra s t d a b m)
  | _ => if t.isNarrow then .ok (.vsubSs s t d a b m) else .error .selector

/-- Major 0x35 (R179). -/
def decVcvt (w : Word32) : Decoded :=
  let s := fStl w; let d := fD w; let a := fA w; let m := fMask w
  let md := lit3 (fB w); let z := md == 0#3
  inRange (isLit3 (fB w))
    (match (fFn4 w).toNat with
     | 0 => modeOf true md fun r => .vcvtBf16F32 s r d a m
     | 1 => inRange z (.ok (.vcvtF32Bf16 s .rne d a m))
     | 2 => modeOf true md fun r => .vcvtI32F32 s r d a m
     | 3 => modeOf true md fun r => .vcvtF32I32 s r d a m
     | 4 => inRange z (.ok (.vcvtI16I32 s .rne d a m))
     | 5 => inRange z (.ok (.vcvtI8I16 s .rne d a m))
     | 6 => inRange z (.ok (.vcvtI32I16 s .rne d a m))
     | 7 => inRange z (.ok (.vcvtI16I8 s .rne d a m))
     | _ => .error .selector)

/-- Major 0x36 (R181). -/
def decVcmpFloat (w : Word32) : Decoded :=
  let k := lit3 (fD w)
  reserved (isLit3 (fD w)) (inRange (k != 0#3)
    (frelOf ((fFn4 w).extractLsb' 0 3) fun r =>
      .vcmpFloat (fStl w) (if (fFn4 w).getLsbD 3 then .bf16 else .f32) r k (fA w) (fB w) (fMask w)))

/-- Major 0x37 (R181). -/
def decVcmpInteger (w : Word32) : Decoded :=
  let k := lit3 (fD w); let r := irelOf ((fFn4 w).extractLsb' 0 3)
  reserved (!(fFn4 w).getLsbD 3) (inRange (k != 0#3)
    (match ((fD w).extractLsb' 3 2).toNat with
     | 0 => .ok (.vcmpInteger (fStl w) .i32 r k (fA w) (fB w) (fMask w))
     | 1 => .ok (.vcmpInteger (fStl w) .i16 r k (fA w) (fB w) (fMask w))
     | 2 => .ok (.vcmpInteger (fStl w) .i8 r k (fA w) (fB w) (fMask w))
     | _ => .error .literal))

/-- Major 0x38 (R183). -/
def decLane (w : Word32) : Decoded :=
  let s := fStl w; let d := fD w; let a := fA w; let b := fB w; let m := fMask w; let z := b == 0#5
  match (fFn4 w).toNat with
  | 0 => .ok (.vsel s d a b m)
  | 1 => reserved z (.ok (.vbcast32 s d a m)) | 2 => reserved z (.ok (.vbcast16 s d a m))
  | 3 => reserved z (.ok (.vbcast8 s d a m)) | 4 => reserved z (.ok (.vmov s d a m))
  | 5 => reserved (m == 0#3) (.ok (.vext32 s d a b)) | 6 => reserved (m == 0#3) (.ok (.vext16 s d a b))
  | 7 => reserved (m == 0#3) (.ok (.vext8 s d a b))
  | 8 => .ok (.vperm32 s d a b m) | 9 => .ok (.vperm16 s d a b m) | 10 => .ok (.vperm8 s d a b m)
  | 11 => .ok (.vslide32 s d a b m) | 12 => .ok (.vslide16 s d a b m) | 13 => .ok (.vslide8 s d a b m)
  | _ => .error .selector

/-- Major 0x39 (R182). -/
def decMask (w : Word32) : Decoded :=
  let s := fStl w; let d := lit3 (fD w); let a := lit3 (fA w); let b := lit3 (fB w)
  reserved (fMask w == 0#3 && isLit3 (fA w))
    (match (fFn4 w).toNat with
     | 0 => reserved (isLit3 (fD w) && isLit3 (fB w)) (inRange (d != 0#3) (.ok (.mand s d a b)))
     | 1 => reserved (isLit3 (fD w) && isLit3 (fB w)) (inRange (d != 0#3) (.ok (.mor s d a b)))
     | 2 => reserved (isLit3 (fD w) && isLit3 (fB w)) (inRange (d != 0#3) (.ok (.mxor s d a b)))
     | 3 => reserved (isLit3 (fD w) && fB w == 0#5) (inRange (d != 0#3) (.ok (.mnot s d a)))
     | 4 => reserved (fB w == 0#5) (.ok (.mpop s (fD w) a))
     | 5 => reserved (fB w == 0#5) (.ok (.mfirst s (fD w) a))
     | _ => .error .selector)

/-- Major 0x3C (R185). -/
def decElement (w : Word32) : Decoded :=
  let s := fStl w; let d := fD w; let a := fA w; let b := fB w; let m := fMask w
  match (fFn4 w).toNat with
  | 0 => .ok (.vlds32 s d a b m) | 1 => .ok (.vlds16 s d a b m) | 2 => .ok (.vlds8 s d a b m)
  | 3 => .ok (.vsts32 s d a b m) | 4 => .ok (.vsts16 s d a b m) | 5 => .ok (.vsts8 s d a b m)
  | 6 => .ok (.vgth32 s d a b m) | 7 => .ok (.vgth16 s d a b m) | 8 => .ok (.vgth8 s d a b m)
  | 9 => .ok (.vsct32 s d a b m) | 10 => .ok (.vsct16 s d a b m) | 11 => .ok (.vsct8 s d a b m)
  | _ => .error .selector

/-- Major 0x3D (R180). -/
def decVtrans (w : Word32) : Decoded :=
  reserved (fB w == 0#5)
    (match (fFn4 w).toNat with
     | 0 => .ok (.vexp2 (fStl w) (fD w) (fA w) (fMask w)) | 1 => .ok (.vlog2 (fStl w) (fD w) (fA w) (fMask w))
     | 2 => .ok (.vrcp (fStl w) (fD w) (fA w) (fMask w)) | 3 => .ok (.vrsq (fStl w) (fD w) (fA w) (fMask w))
     | _ => .error .selector)

/-- Major 0x41 (R193). -/
def decMatrix (w : Word32) : Decoded :=
  let s := fStl w; let za := fA w == 0#5; let zb := fB w == 0#5
  reserved (fD w == 0#5)
    (match (fFn7 w).toNat with
     | 0 => reserved (za && zb) (.ok (.mrel s))
     | 1 => reserved za (inRange (0#5 < fB w && fB w ≤ 4#5) (.ok (.mshape s (fB w))))
     | 2 => reserved (za && zb) (.ok (.mzacc s))
     | 3 => reserved (za && zb) (.ok (.mswap s))
     | 4 => reserved zb (.ok (.mgang s (fA w)))
     | 5 => reserved zb (.ok (.mwaitMatrix s (fA w)))
     | _ => .error .selector)

/-- Majors 0x43 and 0x44 (R196). -/
def decProduct (k : Bool → BitVec 3 → Instr) (w : Word32) : Decoded :=
  inRange (isLit3 (fA w))
    (match (fFn2 w).toNat with
     | 0 => .ok (k false (lit3 (fA w))) | 1 => .ok (k true (lit3 (fA w)))
     | _ => .error .selector)

/-- Major 0x49 (R203). -/
def decDescriptor (w : Word32) : Decoded :=
  let s := fStl w; let d := fD w; let a := fA w; let m : BitVec 3 := (fFn7 w).extractLsb' 4 3
  reserved (fB w == 0#5)
    (match ((fFn7 w).extractLsb' 0 4).toNat with
     | 0 => inRange (m == 0#3) (.ok (.cpy2 s d a)) | 1 => inRange (m == 0#3) (.ok (.cpyt s d a))
     | 2 => inRange (m == 0#3) (.ok (.cgth s d a)) | 3 => inRange (m == 0#3) (.ok (.cdec s d a))
     | 4 => modeOf true m fun r => .cenc s r d a
     | _ => .error .selector)

/-- Major 0x4A (R209, R210). -/
def decBatch (w : Word32) : Decoded :=
  reserved (fD w == 0#5 && fA w == 0#5 && fB w == 0#5)
    (match (fFn7 w).toNat with
     | 0 => .ok (.cseal (fStl w)) | 1 => .ok (.cstage (fStl w))
     | _ => .error .selector)

/-- Major 0x4D (R212). -/
noncomputable def decRing (w : Word32) : Decoded :=
  let s := fStl w; let d := fD w; let r := lit3 (fB w)
  reserved (fA w == 0#5) (inRange (isLit3 (fB w))
    (match (fFn7 w).toNat with
     | 0 => .ok (.racq s d r) | 1 => .ok (.rrel s d r) | 2 => .ok (.rstat s d r)
     | _ => .error .selector))

/-- A stream-register literal lies in [28, 31] (R187). -/
def isStream (r : Reg) : Bool := r.extractLsb' 2 3 == 7#3
/-- The stream number of a stream-register literal. -/
def streamOf (r : Reg) : BitVec 2 := r.extractLsb' 0 2

/-- Major 0x4E (R187). -/
noncomputable def decSbind (w : Word32) : Decoded :=
  inRange (isStream (fD w))
    (match (fFn2 w).toNat with
     | 0 => reserved (fB w == 0#5 && fC w == 0#5)
              (inRange (isLit3 (fA w)) (.ok (.sbindRing (fStl w) (streamOf (fD w)) (lit3 (fA w)))))
     | 1 => .ok (.sbindAddr (fStl w) (streamOf (fD w)) (fA w) (fB w) (fC w))
     | _ => .error .selector)

/-- Major 0x50 (R164). -/
noncomputable def decMerge (w : Word32) : Decoded :=
  let s := fStl w; let d := fD w; let a := fA w; let z := fB w == 0#5
  match (fFn7 w).toNat with
  | 0 => reserved z (.ok (.mopen s d a)) | 1 => .ok (.mclasp s d a (fB w)) | 2 => reserved z (.ok (.mzero s d a))
  | 3 => reserved z (.ok (.mwaitMerge s d a)) | 4 => reserved z (.ok (.mstat s d a))
  | _ => .error .selector

/-- fn2 of KRED and KMAX; 3 is refused (R235). -/
def kwidthOf (c : BitVec 2) (k : KWidth → Instr) : Decoded :=
  match c.toNat with
  | 0 => .ok (k .k8) | 1 => .ok (k .k16) | 2 => .ok (k .k32)
  | _ => .error .selector
/-- fn2 of KRBS. -/
def krbsOf (c : BitVec 2) : KrbsForm :=
  match c.toNat with
  | 0 => .bsm8 | 1 => .bsm4 | 2 => .bsm8bnd | _ => .bsm4bnd

/-- Major 0x57 (R235). -/
noncomputable def decBusWait (w : Word32) : Decoded :=
  reserved (fB w == 0#5)
    (match (fFn7 w).toNat with
     | 0 => .ok (.kwait (fStl w) (fD w) (fA w)) | 1 => .ok (.kstat (fStl w) (fD w) (fA w))
     | _ => .error .selector)

/-- Major 0x59 (R145). -/
noncomputable def decCharm (w : Word32) : Decoded :=
  match (fFn7 w).toNat with
  | 0 => reserved (fD w == 0#5 && fB w == 0#5) (.ok (.hexit (fStl w) (fA w)))
  | 1 => reserved (fB w == 0#5) (inRange (isCharm (fA w)) (.ok (.hjoin (fStl w) (fD w) (fA w))))
  | 2 => reserved (fA w == 0#5 && fB w == 0#5) (.ok (.hstat (fStl w) (fD w)))
  | _ => .error .selector

/-- A form whose only selector is zero. -/
def only (zero : Bool) (r : Decoded) : Decoded := if zero then r else .error .selector

/-- The instruction of a word; `lit` is the word that follows it, which only the L form uses (R108, R109, R121). -/
noncomputable def decodeWord (w lit : Word32) : Decoded :=
  let s := fStl w; let d := fD w; let a := fA w; let b := fB w; let c := fC w; let imm := fImm12 w
  match (fOp w).toNat with
  | 0x00 => decSystem w
  | 0x01 => decAlu w
  | 0x02 => decAluW w
  | 0x03 => decMulDiv w
  | 0x04 => .ok (.addImm s d a imm)
  | 0x05 => .ok (.addWImm s d a imm)
  | 0x06 => .ok (.andImm s d a imm)
  | 0x07 => .ok (.orImm s d a imm)
  | 0x08 => .ok (.xorImm s d a imm)
  | 0x09 => .ok (.andnImm s d a imm)
  | 0x0A => decShiftImm false w
  | 0x0B => decShiftImm true w
  | 0x0C => only (fFn2 w == 0#2) (.ok (.sel s d a b c))
  | 0x0D => inRange ((imm.extractLsb' 0 6).toNat + (imm.extractLsb' 6 6).toNat + 1 ≤ 64)
              (.ok (.bfx s d a (imm.extractLsb' 6 6) (imm.extractLsb' 0 6)))
  | 0x0E => inRange ((imm.extractLsb' 0 6).toNat + (imm.extractLsb' 6 6).toNat + 1 ≤ 64)
              (.ok (.bfi s d a (imm.extractLsb' 6 6) (imm.extractLsb' 0 6)))
  | 0x0F => decLiteral w lit
  | 0x10 => decBranch w
  | 0x11 => .ok (.bal s d (fOff17 w))
  | 0x12 => decJump w
  | 0x16 => reserved (a == 0#5) (.ok (.sysr s d imm))
  | 0x17 => reserved (d == 0#5) (.ok (.sysw s a imm))
  | 0x18 => decLoad w
  | 0x19 => decStore w
  | 0x1A => decLoadAcq w
  | 0x1B => decStoreRel w
  | 0x1C => decStoreCnt w
  | 0x1D => reserved (d == 0#5) (.ok (.pfch s a imm))
  | 0x20 => decAmo false w
  | 0x21 => decAmo true w
  | 0x22 => decAmocas w
  | 0x25 => decFence w
  | 0x26 => decBarrier w
  | 0x27 => decWany w
  | 0x28 => decFp w
  | 0x29 => decFma w
  | 0x2A => decFcmp w
  | 0x2B => decFcvt w
  | 0x30 => decVector .f32 w
  | 0x31 => decVector .bf16 w
  | 0x32 => decVector .i32 w
  | 0x33 => decVector .i16 w
  | 0x34 => decVector .i8 w
  | 0x35 => decVcvt w
  | 0x36 => decVcmpFloat w
  | 0x37 => decVcmpInteger w
  | 0x38 => decLane w
  | 0x39 => decMask w
  | 0x3A => .ok (.vld s d a imm)
  | 0x3B => .ok (.vst s d a imm)
  | 0x3C => decElement w
  | 0x3D => decVtrans w
  | 0x40 => reserved (d == 0#5 && a == 0#5) (inRange (0#12 < imm && imm ≤ 64#12) (.ok (.mlease s imm)))
  | 0x41 => decMatrix w
  | 0x42 => reserved (b == 0#5 && (fFn7 w).extractLsb' 1 6 == 0#6)
              (inRange (isLit3 a) (.ok (.mldw s ((fFn7 w).getLsbD 0) d (lit3 a))))
  | 0x43 => decProduct (fun acc r => .mmul s acc d r b c) w
  | 0x44 => decProduct (fun acc r => .mmult s acc d r b c) w
  | 0x45 => only (fFn7 w == 0#7) (.ok (.mrd s d a b))
  | 0x46 => only (fFn7 w == 0#7) (.ok (.mst s d a b))
  | 0x48 => only (fFn2 w == 0#2) (.ok (.cpy s d a b c))
  | 0x49 => decDescriptor w
  | 0x4A => decBatch w
  | 0x4B => reserved (d == 0#5 && a == 0#5) (inRange (imm < 2048#12) (.ok (.cwait s imm)))
  | 0x4C => only (fFn2 w == 0#2) (inRange (isLit3 d) (.ok (.rbind s (lit3 d) a b c)))
  | 0x4D => decRing w
  | 0x4E => decSbind w
  | 0x4F => only (fFn7 w == 0#7)
              (reserved (a == 0#5 && b == 0#5) (inRange (isStream d) (.ok (.sunbind s (streamOf d)))))
  | 0x50 => decMerge w
  | 0x51 => only (fFn2 w == 0#2) (reserved (d == 0#5) (.ok (.mput s a b c)))
  | 0x54 => kwidthOf (fFn2 w) fun k => .kred s k d a b c
  | 0x55 => kwidthOf (fFn2 w) fun k => .kmax s k d a b c
  | 0x56 => .ok (.krbs s (krbsOf (fFn2 w)) d a b c)
  | 0x57 => decBusWait w
  | 0x58 => inRange (isCharm a) (.ok (.spawn s d a imm))
  | 0x59 => decCharm w
  | 0x5A => only (fFn7 w == 0#7) (reserved (d == 0#5 && b == 0#5) (.ok (.loop s a)))
  | 0x5B => only (fFn7 w == 0#7) (.ok (.rng s d a b))
  | 0x7F => .error .header
  | _ => .error .reservedOpcode

/-- Whether a word begins an L form for SEQ: every word of major 0x0F, whatever its other fields (R108). -/
def isLForm (w : Word32) : Bool := fOp w == 0x0F#7

/-- The 32-bit word of four bytes, least significant first (R6). -/
def wordOfBytes (b0 b1 b2 b3 : Byte) : Word32 := b3 ++ b2 ++ b1 ++ b0

/-- The instruction at the head of a list of bytes and the bytes after it (R106, R108). -/
noncomputable def decode : List Byte → Except DecodeError (Instr × List Byte)
  | b0 :: b1 :: b2 :: b3 :: rest =>
    let w := wordOfBytes b0 b1 b2 b3
    if isLForm w then
      match rest with
      | c0 :: c1 :: c2 :: c3 :: rest' => (decodeWord w (wordOfBytes c0 c1 c2 c3)).map fun i => (i, rest')
      | _ => .error .tooShort
    else (decodeWord w 0#32).map fun i => (i, rest)
  | _ => .error .tooShort

/-- The instruction words of an instruction, from the encodings of Table 5.5 (R106–R108); an event has none. -/
def encode : Instr → List Word32
  | .nop stl => [packR stl 0#5 0#5 0#5 (0#7) 0x00#7]
  | .trap stl k => [packR stl 0#5 0#5 k (1#7) 0x00#7]
  | .eret stl => [packR stl 0#5 0#5 0#5 (2#7) 0x00#7]
  | .wfi stl => [packR stl 0#5 0#5 0#5 (3#7) 0x00#7]
  | .tlbinv stl a b => [packR stl 0#5 a b (4#7) 0x00#7]
  | .cflush stl a => [packR stl 0#5 a 0#5 (5#7) 0x00#7]
  | .cinv stl a => [packR stl 0#5 a 0#5 (6#7) 0x00#7]
  | .ifence stl => [packR stl 0#5 0#5 0#5 (7#7) 0x00#7]
  | .bkpt stl => [packR stl 0#5 0#5 0#5 (8#7) 0x00#7]
  | .add stl d a b => [packR stl d a b (0#7) 0x01#7]
  | .sub stl d a b => [packR stl d a b (1#7) 0x01#7]
  | .and stl d a b => [packR stl d a b (2#7) 0x01#7]
  | .or stl d a b => [packR stl d a b (3#7) 0x01#7]
  | .xor stl d a b => [packR stl d a b (4#7) 0x01#7]
  | .andn stl d a b => [packR stl d a b (5#7) 0x01#7]
  | .sll stl d a b => [packR stl d a b (6#7) 0x01#7]
  | .srl stl d a b => [packR stl d a b (7#7) 0x01#7]
  | .sra stl d a b => [packR stl d a b (8#7) 0x01#7]
  | .rol stl d a b => [packR stl d a b (9#7) 0x01#7]
  | .ror stl d a b => [packR stl d a b (10#7) 0x01#7]
  | .slt stl d a b => [packR stl d a b (11#7) 0x01#7]
  | .sltu stl d a b => [packR stl d a b (12#7) 0x01#7]
  | .seq stl d a b => [packR stl d a b (13#7) 0x01#7]
  | .sne stl d a b => [packR stl d a b (14#7) 0x01#7]
  | .min stl d a b => [packR stl d a b (15#7) 0x01#7]
  | .max stl d a b => [packR stl d a b (16#7) 0x01#7]
  | .minu stl d a b => [packR stl d a b (17#7) 0x01#7]
  | .maxu stl d a b => [packR stl d a b (18#7) 0x01#7]
  | .clz stl d a => [packR stl d a 0#5 (19#7) 0x01#7]
  | .ctz stl d a => [packR stl d a 0#5 (20#7) 0x01#7]
  | .popc stl d a => [packR stl d a 0#5 (21#7) 0x01#7]
  | .addW stl d a b => [packR stl d a b (0#7) 0x02#7]
  | .subW stl d a b => [packR stl d a b (1#7) 0x02#7]
  | .andW stl d a b => [packR stl d a b (2#7) 0x02#7]
  | .orW stl d a b => [packR stl d a b (3#7) 0x02#7]
  | .xorW stl d a b => [packR stl d a b (4#7) 0x02#7]
  | .andnW stl d a b => [packR stl d a b (5#7) 0x02#7]
  | .sllW stl d a b => [packR stl d a b (6#7) 0x02#7]
  | .srlW stl d a b => [packR stl d a b (7#7) 0x02#7]
  | .sraW stl d a b => [packR stl d a b (8#7) 0x02#7]
  | .rolW stl d a b => [packR stl d a b (9#7) 0x02#7]
  | .rorW stl d a b => [packR stl d a b (10#7) 0x02#7]
  | .clzW stl d a => [packR stl d a 0#5 (19#7) 0x02#7]
  | .ctzW stl d a => [packR stl d a 0#5 (20#7) 0x02#7]
  | .popcW stl d a => [packR stl d a 0#5 (21#7) 0x02#7]
  | .mul stl d a b => [packR stl d a b (0#7) 0x03#7]
  | .mulh stl d a b => [packR stl d a b (1#7) 0x03#7]
  | .mulhu stl d a b => [packR stl d a b (2#7) 0x03#7]
  | .div stl d a b => [packR stl d a b (3#7) 0x03#7]
  | .divu stl d a b => [packR stl d a b (4#7) 0x03#7]
  | .rem stl d a b => [packR stl d a b (5#7) 0x03#7]
  | .remu stl d a b => [packR stl d a b (6#7) 0x03#7]
  | .mulW stl d a b => [packR stl d a b (8#7) 0x03#7]
  | .divW stl d a b => [packR stl d a b (11#7) 0x03#7]
  | .divuW stl d a b => [packR stl d a b (12#7) 0x03#7]
  | .remW stl d a b => [packR stl d a b (13#7) 0x03#7]
  | .remuW stl d a b => [packR stl d a b (14#7) 0x03#7]
  | .addImm stl d a imm => [packI stl d a (imm) 0x04#7]
  | .addWImm stl d a imm => [packI stl d a (imm) 0x05#7]
  | .andImm stl d a imm => [packI stl d a (imm) 0x06#7]
  | .orImm stl d a imm => [packI stl d a (imm) 0x07#7]
  | .xorImm stl d a imm => [packI stl d a (imm) 0x08#7]
  | .andnImm stl d a imm => [packI stl d a (imm) 0x09#7]
  | .sllImm stl w d a sh => [packI stl d a (0#6 ++ sh) (if w then 0x0B#7 else 0x0A#7)]
  | .srlImm stl w d a sh => [packI stl d a (1#6 ++ sh) (if w then 0x0B#7 else 0x0A#7)]
  | .sraImm stl w d a sh => [packI stl d a (2#6 ++ sh) (if w then 0x0B#7 else 0x0A#7)]
  | .rolImm stl w d a sh => [packI stl d a (3#6 ++ sh) (if w then 0x0B#7 else 0x0A#7)]
  | .rorImm stl w d a sh => [packI stl d a (4#6 ++ sh) (if w then 0x0B#7 else 0x0A#7)]
  | .sel stl d a b c => [packRC stl d a b c (0#2) 0x0C#7]
  | .bfx stl d a len pos => [packI stl d a (len ++ pos) 0x0D#7]
  | .bfi stl d a len pos => [packI stl d a (len ++ pos) 0x0E#7]
  | .liw stl d lit => [packR stl d 0#5 0#5 (0#7) 0x0F#7, lit]
  | .liwh stl d lit => [packR stl d 0#5 0#5 (1#7) 0x0F#7, lit]
  | .addpc stl d lit => [packR stl d 0#5 0#5 (2#7) 0x0F#7, lit]
  | .br stl n off => [packB stl (bit n) 0#3 0#5 off 0x10#7]
  | .beqz stl n a off => [packB stl (bit n) 1#3 a off 0x10#7]
  | .bnez stl n a off => [packB stl (bit n) 2#3 a off 0x10#7]
  | .bltz stl n a off => [packB stl (bit n) 3#3 a off 0x10#7]
  | .bgez stl n a off => [packB stl (bit n) 4#3 a off 0x10#7]
  | .bgtz stl n a off => [packB stl (bit n) 5#3 a off 0x10#7]
  | .blez stl n a off => [packB stl (bit n) 6#3 a off 0x10#7]
  | .bal stl d off => [packJ stl d off 0x11#7]
  | .jr stl a => [packR stl 0#5 a 0#5 (0#7) 0x12#7]
  | .jal stl d a => [packR stl d a 0#5 (1#7) 0x12#7]
  | .sysr stl d num => [packI stl d 0#5 (num) 0x16#7]
  | .sysw stl a num => [packI stl 0#5 a (num) 0x17#7]
  | .ldB stl d a off => [packI stl d a (off ++ 0#3) 0x18#7]
  | .ldBu stl d a off => [packI stl d a (off ++ 1#3) 0x18#7]
  | .ldH stl d a off => [packI stl d a (off ++ 2#3) 0x18#7]
  | .ldHu stl d a off => [packI stl d a (off ++ 3#3) 0x18#7]
  | .ldW stl d a off => [packI stl d a (off ++ 4#3) 0x18#7]
  | .ldWu stl d a off => [packI stl d a (off ++ 5#3) 0x18#7]
  | .ldD stl d a off => [packI stl d a (off ++ 6#3) 0x18#7]
  | .stB stl d a off => [packI stl d a (off ++ 0#3) 0x19#7]
  | .stH stl d a off => [packI stl d a (off ++ 2#3) 0x19#7]
  | .stW stl d a off => [packI stl d a (off ++ 4#3) 0x19#7]
  | .stD stl d a off => [packI stl d a (off ++ 6#3) 0x19#7]
  | .stQ stl d a off => [packI stl d a (off ++ 7#3) 0x19#7]
  | .ldBAcq stl d a sc => [packR stl d a 0#5 (0#1 ++ scopeCode sc ++ 0#3) 0x1A#7]
  | .ldBuAcq stl d a sc => [packR stl d a 0#5 (0#1 ++ scopeCode sc ++ 1#3) 0x1A#7]
  | .ldHAcq stl d a sc => [packR stl d a 0#5 (0#1 ++ scopeCode sc ++ 2#3) 0x1A#7]
  | .ldHuAcq stl d a sc => [packR stl d a 0#5 (0#1 ++ scopeCode sc ++ 3#3) 0x1A#7]
  | .ldWAcq stl d a sc => [packR stl d a 0#5 (0#1 ++ scopeCode sc ++ 4#3) 0x1A#7]
  | .ldWuAcq stl d a sc => [packR stl d a 0#5 (0#1 ++ scopeCode sc ++ 5#3) 0x1A#7]
  | .ldDAcq stl d a sc => [packR stl d a 0#5 (0#1 ++ scopeCode sc ++ 6#3) 0x1A#7]
  | .stBRel stl ar sc a b => [packR stl 0#5 a b (bit ar ++ scopeCode sc ++ 0#3) 0x1B#7]
  | .stHRel stl ar sc a b => [packR stl 0#5 a b (bit ar ++ scopeCode sc ++ 2#3) 0x1B#7]
  | .stWRel stl ar sc a b => [packR stl 0#5 a b (bit ar ++ scopeCode sc ++ 4#3) 0x1B#7]
  | .stDRel stl ar sc a b => [packR stl 0#5 a b (bit ar ++ scopeCode sc ++ 6#3) 0x1B#7]
  | .stQRel stl ar sc a b => [packR stl 0#5 a b (bit ar ++ scopeCode sc ++ 7#3) 0x1B#7]
  | .stBCnt stl d a off => [packI stl d a (off ++ 0#3) 0x1C#7]
  | .stHCnt stl d a off => [packI stl d a (off ++ 2#3) 0x1C#7]
  | .stWCnt stl d a off => [packI stl d a (off ++ 4#3) 0x1C#7]
  | .stDCnt stl d a off => [packI stl d a (off ++ 6#3) 0x1C#7]
  | .pfch stl a off => [packI stl 0#5 a (off) 0x1D#7]
  | .amoSwap stl far dw ord d a b => [packR stl d a b (orderCode ord ++ bit dw ++ 0#4) (if far then 0x21#7 else 0x20#7)]
  | .amoAdd stl far dw ord d a b => [packR stl d a b (orderCode ord ++ bit dw ++ 1#4) (if far then 0x21#7 else 0x20#7)]
  | .amoAnd stl far dw ord d a b => [packR stl d a b (orderCode ord ++ bit dw ++ 2#4) (if far then 0x21#7 else 0x20#7)]
  | .amoOr stl far dw ord d a b => [packR stl d a b (orderCode ord ++ bit dw ++ 3#4) (if far then 0x21#7 else 0x20#7)]
  | .amoXor stl far dw ord d a b => [packR stl d a b (orderCode ord ++ bit dw ++ 4#4) (if far then 0x21#7 else 0x20#7)]
  | .amoMin stl far dw ord d a b => [packR stl d a b (orderCode ord ++ bit dw ++ 5#4) (if far then 0x21#7 else 0x20#7)]
  | .amoMax stl far dw ord d a b => [packR stl d a b (orderCode ord ++ bit dw ++ 6#4) (if far then 0x21#7 else 0x20#7)]
  | .amoMinu stl far dw ord d a b => [packR stl d a b (orderCode ord ++ bit dw ++ 7#4) (if far then 0x21#7 else 0x20#7)]
  | .amoMaxu stl far dw ord d a b => [packR stl d a b (orderCode ord ++ bit dw ++ 8#4) (if far then 0x21#7 else 0x20#7)]
  | .amocas stl far dw ord d a b => [packR stl d a b (0#3 ++ bit far ++ orderCode ord ++ bit dw) 0x22#7]
  | .fence stl sc succ pred => [packR stl 0#5 0#5 0#5 (scopeCode sc ++ succ ++ pred) 0x25#7]
  | .arrive stl a ch => [packR stl 0#5 a (0#2 ++ ch) (0#7) 0x26#7]
  | .waitb stl d ch => [packR stl d 0#5 (0#2 ++ ch) (1#7) 0x26#7]
  | .phase stl => [packR stl 0#5 0#5 0#5 (2#7) 0x26#7]
  | .qwait stl d => [packR stl d 0#5 0#5 (3#7) 0x26#7]
  | .sleep stl a => [packR stl 0#5 a 0#5 (4#7) 0x26#7]
  | .wany stl d mask => [packI stl d 0#5 (0#4 ++ mask) 0x27#7]
  | .fadd stl rm d a b => [packR stl d a b (modeCode rm ++ 0#4) 0x28#7]
  | .fsub stl rm d a b => [packR stl d a b (modeCode rm ++ 1#4) 0x28#7]
  | .fmul stl rm d a b => [packR stl d a b (modeCode rm ++ 2#4) 0x28#7]
  | .fmin stl d a b => [packR stl d a b (3#7) 0x28#7]
  | .fmax stl d a b => [packR stl d a b (4#7) 0x28#7]
  | .fsgn stl d a b => [packR stl d a b (5#7) 0x28#7]
  | .fexp2 stl d a => [packR stl d a 0#5 (6#7) 0x28#7]
  | .flog2 stl d a => [packR stl d a 0#5 (7#7) 0x28#7]
  | .frcp stl d a => [packR stl d a 0#5 (8#7) 0x28#7]
  | .frsq stl d a => [packR stl d a 0#5 (9#7) 0x28#7]
  | .ffma stl d a b c => [packRC stl d a b c (0#2) 0x29#7]
  | .ffms stl d a b c => [packRC stl d a b c (1#2) 0x29#7]
  | .fcmp stl rel d a b => [packR stl d a b (0#4 ++ frelCode rel) 0x2A#7]
  | .fcvtI32F32 stl rm d a => [packR stl d a 0#5 (0#4 ++ modeCode rm) 0x2B#7]
  | .fcvtUint32F32 stl rm d a => [packR stl d a 0#5 (1#4 ++ modeCode rm) 0x2B#7]
  | .fcvtI64F32 stl rm d a => [packR stl d a 0#5 (2#4 ++ modeCode rm) 0x2B#7]
  | .fcvtUint64F32 stl rm d a => [packR stl d a 0#5 (3#4 ++ modeCode rm) 0x2B#7]
  | .fcvtF32I32 stl rm d a => [packR stl d a 0#5 (4#4 ++ modeCode rm) 0x2B#7]
  | .fcvtF32Uint32 stl rm d a => [packR stl d a 0#5 (5#4 ++ modeCode rm) 0x2B#7]
  | .fcvtF32I64 stl rm d a => [packR stl d a 0#5 (6#4 ++ modeCode rm) 0x2B#7]
  | .fcvtF32Uint64 stl rm d a => [packR stl d a 0#5 (7#4 ++ modeCode rm) 0x2B#7]
  | .fcvtBf16F32 stl rm d a => [packR stl d a 0#5 (8#4 ++ modeCode rm) 0x2B#7]
  | .fcvtF32Bf16 stl d a => [packR stl d a 0#5 (9#4 ++ 0#3) 0x2B#7]
  | .fcvtE4m3F32 stl rm d a => [packR stl d a 0#5 (10#4 ++ modeCode rm) 0x2B#7]
  | .fcvtE5m2F32 stl rm d a => [packR stl d a 0#5 (11#4 ++ modeCode rm) 0x2B#7]
  | .fcvtF32E4m3 stl d a => [packR stl d a 0#5 (12#4 ++ 0#3) 0x2B#7]
  | .fcvtF32E5m2 stl d a => [packR stl d a 0#5 (13#4 ++ 0#3) 0x2B#7]
  | .vadd stl t d a b m => [packV stl d a b m (0#4) (vtypeOp t)]
  | .vsub stl t d a b m => [packV stl d a b m (1#4) (vtypeOp t)]
  | .vmul stl t d a b m => [packV stl d a b m (2#4) (vtypeOp t)]
  | .vfma stl t d a b m => [packV stl d a b m (3#4) (vtypeOp t)]
  | .vmin stl t d a b m => [packV stl d a b m (4#4) (vtypeOp t)]
  | .vmax stl t d a b m => [packV stl d a b m (5#4) (vtypeOp t)]
  | .vred stl t d a op m => [packV stl d a (redCode op) m (6#4) (vtypeOp t)]
  | .vdot stl t d a b m => [packV stl d a b m (7#4) (vtypeOp t)]
  | .vsqsum stl t d a m => [packV stl d a 0#5 m (8#4) (vtypeOp t)]
  | .vaddSs stl t d a b m => [packV stl d a b m (8#4) (vtypeOp t)]
  | .vand stl t d a b m => [packV stl d a b m (9#4) (vtypeOp t)]
  | .vor stl t d a b m => [packV stl d a b m (10#4) (vtypeOp t)]
  | .vxor stl t d a b m => [packV stl d a b m (11#4) (vtypeOp t)]
  | .vshl stl t d a b m => [packV stl d a b m (12#4) (vtypeOp t)]
  | .vshr stl t d a b m => [packV stl d a b m (13#4) (vtypeOp t)]
  | .vsra stl t d a b m => [packV stl d a b m (14#4) (vtypeOp t)]
  | .vsubSs stl t d a b m => [packV stl d a b m (15#4) (vtypeOp t)]
  | .vcvtBf16F32 stl rm d a m => [packV stl d a (0#2 ++ modeCode rm) m (0#4) 0x35#7]
  | .vcvtF32Bf16 stl rm d a m => [packV stl d a (0#2 ++ modeCode rm) m (1#4) 0x35#7]
  | .vcvtI32F32 stl rm d a m => [packV stl d a (0#2 ++ modeCode rm) m (2#4) 0x35#7]
  | .vcvtF32I32 stl rm d a m => [packV stl d a (0#2 ++ modeCode rm) m (3#4) 0x35#7]
  | .vcvtI16I32 stl rm d a m => [packV stl d a (0#2 ++ modeCode rm) m (4#4) 0x35#7]
  | .vcvtI8I16 stl rm d a m => [packV stl d a (0#2 ++ modeCode rm) m (5#4) 0x35#7]
  | .vcvtI32I16 stl rm d a m => [packV stl d a (0#2 ++ modeCode rm) m (6#4) 0x35#7]
  | .vcvtI16I8 stl rm d a m => [packV stl d a (0#2 ++ modeCode rm) m (7#4) 0x35#7]
  | .vcmpFloat stl t rel k a b m => [packV stl (0#2 ++ k) a b m (bit (t == .bf16) ++ frelCode rel) 0x36#7]
  | .vcmpInteger stl t rel k a b m => [packV stl (itypeCode t ++ k) a b m (0#1 ++ irelCode rel) 0x37#7]
  | .vsel stl d a b m => [packV stl d a b m (0#4) 0x38#7]
  | .vbcast32 stl d a m => [packV stl d a 0#5 m (1#4) 0x38#7]
  | .vbcast16 stl d a m => [packV stl d a 0#5 m (2#4) 0x38#7]
  | .vbcast8 stl d a m => [packV stl d a 0#5 m (3#4) 0x38#7]
  | .vmov stl d a m => [packV stl d a 0#5 m (4#4) 0x38#7]
  | .vext32 stl d a b => [packV stl d a b 0#3 (5#4) 0x38#7]
  | .vext16 stl d a b => [packV stl d a b 0#3 (6#4) 0x38#7]
  | .vext8 stl d a b => [packV stl d a b 0#3 (7#4) 0x38#7]
  | .vperm32 stl d a b m => [packV stl d a b m (8#4) 0x38#7]
  | .vperm16 stl d a b m => [packV stl d a b m (9#4) 0x38#7]
  | .vperm8 stl d a b m => [packV stl d a b m (10#4) 0x38#7]
  | .vslide32 stl d a b m => [packV stl d a b m (11#4) 0x38#7]
  | .vslide16 stl d a b m => [packV stl d a b m (12#4) 0x38#7]
  | .vslide8 stl d a b m => [packV stl d a b m (13#4) 0x38#7]
  | .mand stl d a b => [packV stl (0#2 ++ d) (0#2 ++ a) (0#2 ++ b) 0#3 (0#4) 0x39#7]
  | .mor stl d a b => [packV stl (0#2 ++ d) (0#2 ++ a) (0#2 ++ b) 0#3 (1#4) 0x39#7]
  | .mxor stl d a b => [packV stl (0#2 ++ d) (0#2 ++ a) (0#2 ++ b) 0#3 (2#4) 0x39#7]
  | .mnot stl d a => [packV stl (0#2 ++ d) (0#2 ++ a) 0#5 0#3 (3#4) 0x39#7]
  | .mpop stl d a => [packV stl d (0#2 ++ a) 0#5 0#3 (4#4) 0x39#7]
  | .mfirst stl d a => [packV stl d (0#2 ++ a) 0#5 0#3 (5#4) 0x39#7]
  | .vld stl d a off => [packI stl d a (off) 0x3A#7]
  | .vst stl d a off => [packI stl d a (off) 0x3B#7]
  | .vlds32 stl d a b m => [packV stl d a b m (0#4) 0x3C#7]
  | .vlds16 stl d a b m => [packV stl d a b m (1#4) 0x3C#7]
  | .vlds8 stl d a b m => [packV stl d a b m (2#4) 0x3C#7]
  | .vsts32 stl d a b m => [packV stl d a b m (3#4) 0x3C#7]
  | .vsts16 stl d a b m => [packV stl d a b m (4#4) 0x3C#7]
  | .vsts8 stl d a b m => [packV stl d a b m (5#4) 0x3C#7]
  | .vgth32 stl d a b m => [packV stl d a b m (6#4) 0x3C#7]
  | .vgth16 stl d a b m => [packV stl d a b m (7#4) 0x3C#7]
  | .vgth8 stl d a b m => [packV stl d a b m (8#4) 0x3C#7]
  | .vsct32 stl d a b m => [packV stl d a b m (9#4) 0x3C#7]
  | .vsct16 stl d a b m => [packV stl d a b m (10#4) 0x3C#7]
  | .vsct8 stl d a b m => [packV stl d a b m (11#4) 0x3C#7]
  | .vexp2 stl d a m => [packV stl d a 0#5 m (0#4) 0x3D#7]
  | .vlog2 stl d a m => [packV stl d a 0#5 m (1#4) 0x3D#7]
  | .vrcp stl d a m => [packV stl d a 0#5 m (2#4) 0x3D#7]
  | .vrsq stl d a m => [packV stl d a 0#5 m (3#4) 0x3D#7]
  | .mlease stl n => [packI stl 0#5 0#5 (n) 0x40#7]
  | .mrel stl => [packR stl 0#5 0#5 0#5 (0#7) 0x41#7]
  | .mshape stl b => [packR stl 0#5 0#5 b (1#7) 0x41#7]
  | .mzacc stl => [packR stl 0#5 0#5 0#5 (2#7) 0x41#7]
  | .mswap stl => [packR stl 0#5 0#5 0#5 (3#7) 0x41#7]
  | .mgang stl a => [packR stl 0#5 a 0#5 (4#7) 0x41#7]
  | .mwaitMatrix stl a => [packR stl 0#5 a 0#5 (5#7) 0x41#7]
  | .mldw stl i8 d ring => [packR stl d (0#2 ++ ring) 0#5 (0#6 ++ bit i8) 0x42#7]
  | .mmul stl acc d ring b c => [packRC stl d (0#2 ++ ring) b c (0#1 ++ bit acc) 0x43#7]
  | .mmult stl acc d ring b c => [packRC stl d (0#2 ++ ring) b c (0#1 ++ bit acc) 0x44#7]
  | .mrd stl d a b => [packR stl d a b (0#7) 0x45#7]
  | .mst stl d a b => [packR stl d a b (0#7) 0x46#7]
  | .cpy stl d a b c => [packRC stl d a b c (0#2) 0x48#7]
  | .cpy2 stl d a => [packR stl d a 0#5 (0#7) 0x49#7]
  | .cpyt stl d a => [packR stl d a 0#5 (1#7) 0x49#7]
  | .cgth stl d a => [packR stl d a 0#5 (2#7) 0x49#7]
  | .cdec stl d a => [packR stl d a 0#5 (3#7) 0x49#7]
  | .cenc stl rm d a => [packR stl d a 0#5 (modeCode rm ++ 4#4) 0x49#7]
  | .cseal stl => [packR stl 0#5 0#5 0#5 (0#7) 0x4A#7]
  | .cstage stl => [packR stl 0#5 0#5 0#5 (1#7) 0x4A#7]
  | .cwait stl n => [packI stl 0#5 0#5 (n) 0x4B#7]
  | .rbind stl ring a b c => [packRC stl (0#2 ++ ring) a b c (0#2) 0x4C#7]
  | .racq stl d ring => [packR stl d 0#5 (0#2 ++ ring) (0#7) 0x4D#7]
  | .rrel stl d ring => [packR stl d 0#5 (0#2 ++ ring) (1#7) 0x4D#7]
  | .rstat stl d ring => [packR stl d 0#5 (0#2 ++ ring) (2#7) 0x4D#7]
  | .sbindRing stl k ring => [packRC stl (7#3 ++ k) (0#2 ++ ring) 0#5 0#5 (0#2) 0x4E#7]
  | .sbindAddr stl k a b c => [packRC stl (7#3 ++ k) a b c (1#2) 0x4E#7]
  | .sunbind stl k => [packR stl (7#3 ++ k) 0#5 0#5 (0#7) 0x4F#7]
  | .mopen stl d a => [packR stl d a 0#5 (0#7) 0x50#7]
  | .mclasp stl d a b => [packR stl d a b (1#7) 0x50#7]
  | .mzero stl d a => [packR stl d a 0#5 (2#7) 0x50#7]
  | .mwaitMerge stl d a => [packR stl d a 0#5 (3#7) 0x50#7]
  | .mstat stl d a => [packR stl d a 0#5 (4#7) 0x50#7]
  | .mput stl a b c => [packRC stl 0#5 a b c (0#2) 0x51#7]
  | .kred stl wd d a b c => [packRC stl d a b c (kwidthCode wd) 0x54#7]
  | .kmax stl wd d a b c => [packRC stl d a b c (kwidthCode wd) 0x55#7]
  | .krbs stl form d a b c => [packRC stl d a b c (krbsCode form) 0x56#7]
  | .kwait stl d a => [packR stl d a 0#5 (0#7) 0x57#7]
  | .kstat stl d a => [packR stl d a 0#5 (1#7) 0x57#7]
  | .spawn stl d j off => [packI stl d j (off) 0x58#7]
  | .hexit stl a => [packR stl 0#5 a 0#5 (0#7) 0x59#7]
  | .hjoin stl d j => [packR stl d j 0#5 (1#7) 0x59#7]
  | .hstat stl d => [packR stl d 0#5 0#5 (2#7) 0x59#7]
  | .loop stl a => [packR stl 0#5 a 0#5 (0#7) 0x5A#7]
  | .rng stl d a b => [packR stl d a b (0#7) 0x5B#7]
  | .annulledStep _ => []
  | .breakpointMatch _ _ _ => []
  | .trapEntry _ _ _ => []
  | .interrupt _ => []
  | .timerMatch _ => []
  | .doorbellWrite _ => []
  | .ipendWrite _ => []
  | .statusWrite _ => []
  | .loopStateWrite _ _ => []
  | .allowWrite _ => []
  | .bmaskWrite _ _ => []
  | .peermaskWrite _ => []
  | .bwphaseWrite _ => []
  | .preemptionRequest _ => []
  | .contextStop _ _ => []
  | .teamSave _ => []
  | .migrationRequest _ _ => []
  | .migrateCore _ _ => []
  | .thermalClockLimit _ => []
  | .diePowerOff _ => []
  | .barrierGenerationComplete _ _ => []
  | .quiescenceWave _ => []
  | .storeDrain _ _ _ => []
  | .lineWriteback _ _ => []
  | .lineInvalidate _ _ => []
  | .pageWalk _ _ _ _ => []
  | .engineJobStart _ _ => []
  | .copyBeat _ _ => []
  | .engineRingTake _ _ => []
  | .faultRecordPost _ => []
  | .fqdoorRing _ => []
  | .leaseGrant _ => []
  | .matrixCommandComplete _ => []
  | .mstBeat _ => []
  | .gangDissolve _ => []
  | .bandWake _ => []
  | .mergePutAtUnit _ _ => []
  | .mergeClaspAtUnit _ _ _ => []
  | .mergeCommit _ _ => []
  | .mzeroAtUnit _ _ => []
  | .busJobStart _ => []
  | .kwemanWindow _ _ _ => []
  | .frameStart _ _ => []
  | .kwheelWrite _ _ => []
  | .writerLeavesSegment _ _ _ => []
  | .segmentCalibration _ _ => []
  | .recalibrationRequest _ _ => []
  | .caratOffer _ _ _ _ => []
  | .caratAccept _ _ _ => []
  | .caratConfirm _ _ _ => []
  | .loanTermEnd _ _ => []
  | .intervalStart _ => []
  | .allowanceReached _ => []
  | .pcaratWrite _ => []
  | .supplyLossWarning _ => []
  | .ckptGo => []
  | .ckptDone _ => []
  | .qheadWrite _ _ _ => []
  | .qctlWrite _ _ _ => []
  | .queueRecordRead _ _ => []
  | .waitPoll _ _ => []
  | .weightAction _ _ => []
  | .graphNodeRead _ _ => []
  | .plockTake _ _ => []
  | .scheduleBind _ _ => []
  | .dispatchWrite _ _ => []
  | .teamFinish _ => []
  | .launchCompletion _ => []
  | .launchCancel _ => []
  | .bankIdleDeepen _ _ => []
  | .bankWake _ _ => []
  | .refreshWindow => []
  | .clusterGate _ => []
  | .fqctlWrite _ _ => []
  | .trctlWrite _ _ => []
  | .cgctlWrite _ _ => []
  | .hubRegisterWrite _ _ => []
  | .counterGridStore _ => []
  | .eolhUpdate _ => []
  | .dbgctlHalt _ => []
  | .dbgctlResume _ => []
  | .dbgctlStep _ _ => []
  | .dbgctlAttach _ => []
  | .correctedError _ _ => []
  | .uncorrectableError _ => []
  | .registerUncorrectable _ _ => []
  | .linkCrcReplay _ _ => []
  | .laneShed _ _ => []
  | .laneRestore _ _ => []
  | .hostRead _ _ => []
  | .hostWrite _ _ => []
  | .packageReset _ => []
  | .sleepTimeout _ _ => []
  | .dieStartsAgain _ => []

/-- The bytes of a word, least significant first (R6). -/
def bytesOfWord (w : Word32) : List Byte :=
  [w.extractLsb' 0 8, w.extractLsb' 8 8, w.extractLsb' 16 8, w.extractLsb' 24 8]

/-- The bytes of an instruction as the memory holds them. -/
def encodeBytes (i : Instr) : List Byte := (encode i).flatMap bytesOfWord

/-- The bytes the opcode table's numbering stands for: word k in bits [32k + 31 : 32k], bits above `nbits` zero. Two words
are the longest instruction (R108). -/
def tableBytes (nbits w : Nat) : List Byte :=
  let v := w % 2 ^ nbits
  bytesOfWord (BitVec.ofNat 32 v) ++ bytesOfWord (BitVec.ofNat 32 (v / 2 ^ 32))

/-- The instruction the decoder reads from a row's word. -/
noncomputable def decodeTableWord (nbits w : Nat) : Option Instr :=
  match decode (tableBytes nbits w) with
  | .ok (i, _) => some i
  | .error _ => none

end Sys2Proof
end

