-- ==== Sys2Proof/Machine/Base.lean ====
section
/-! DEFINITION. Reaching the parts of the package: cores, contexts, clusters, dies, ports; STATUS fields (Table 15.2);
logical numbers (R11, R12) and the members of a scope (R82). -/

namespace Sys2Proof.Machine

/-- What a meaning answers. -/
abbrev Out := Host.Outcome State Fault Refusal

/-! ### Parts -/

def coreAt (s : State) (c : CoreId) : Core := s.cores.get c
def modCore (s : State) (c : CoreId) (f : Core → Core) : State := { s with cores := vPut s.cores c (f (s.cores.get c)) }
def coreCtx (k : Core) (j : CtxId) : Ctx := k.ctxs.get j
def putCtx (k : Core) (j : CtxId) (t : Ctx) : Core := { k with ctxs := vPut k.ctxs j t }
def ctxAt (s : State) (c : CoreId) (j : CtxId) : Ctx := coreCtx (coreAt s c) j
def modCtx (s : State) (c : CoreId) (j : CtxId) (f : Ctx → Ctx) : State :=
  modCore s c fun k => putCtx k j (f (coreCtx k j))
def clusterAt (s : State) (g : ClusterId) : Cluster := s.clusters.get g
def modCluster (s : State) (g : ClusterId) (f : Cluster → Cluster) : State :=
  { s with clusters := vPut s.clusters g (f (s.clusters.get g)) }
def engineAt (s : State) (g : ClusterId) : Engine := (clusterAt s g).engine
def modEngine (s : State) (g : ClusterId) (f : Engine → Engine) : State :=
  modCluster s g fun k => { k with engine := f k.engine }
def dieAt (s : State) (d : DieId) : Die := s.dies.get d
def modDie (s : State) (d : DieId) (f : Die → Die) : State := { s with dies := vPut s.dies d (f (s.dies.get d)) }
def portAt (s : State) (p : PortId) : Port := s.ports.get p
def modPort (s : State) (p : PortId) (f : Port → Port) : State := { s with ports := vPut s.ports p (f (s.ports.get p)) }
def modHub (s : State) (f : Hub → Hub) : State := { s with hub := f s.hub }
def queueAt (s : State) (p : PartId) (q : QueueId) : Queue := (s.hub.queues.get p).get q
def modQueue (s : State) (p : PartId) (q : QueueId) (f : Queue → Queue) : State :=
  modHub s fun h => { h with queues := vPut h.queues p (vPut (h.queues.get p) q (f ((h.queues.get p).get q))) }

/-- Every physical core, in ascending number. -/
def allCores : List CoreId := List.finRange 1024
/-- Every context of a core. -/
def allCtxs : List CtxId := List.finRange 11
/-- A core index from a number, taken modulo 1,024. -/
def coreId (n : Nat) : CoreId := Fin.ofNat 1024 n
/-- A cluster index from a number, taken modulo 128. -/
def clusterId (n : Nat) : ClusterId := Fin.ofNat 128 n
/-- A die index from a number, taken modulo 4. -/
def dieId (n : Nat) : DieId := Fin.ofNat 4 n
/-- The physical die of a physical core (R1). -/
def coreDie (c : CoreId) : DieId := dieId (c.val / 256)
/-- The physical cluster of a physical core. -/
def coreCluster (c : CoreId) : ClusterId := clusterId (c.val / 8)
/-- The cores of a physical die. -/
def dieCores (d : DieId) : List CoreId := (List.range 256).map fun i => coreId (256 * d.val + i)

/-! ### STATUS (Table 15.2) -/

def stSchk (t : Ctx) : Bool := t.status.getLsbD 0
def stDet (t : Ctx) : Bool := t.status.getLsbD 1
/-- STATUS.PRIV: S mode. -/
def stPriv (t : Ctx) : Bool := t.status.getLsbD 2
def stPpriv (t : Ctx) : Bool := t.status.getLsbD 3
def stIe (t : Ctx) : Bool := t.status.getLsbD 4
def stPie (t : Ctx) : Bool := t.status.getLsbD 5
/-- STATUS.ND: the region is non-discardable. -/
def stNd (t : Ctx) : Bool := t.status.getLsbD 6
def stPnd (t : Ctx) : Bool := t.status.getLsbD 7
/-- STATUS from its eight fields; the reserved bits are zero. -/
def statusOf (schk det priv ppriv ie pie nd pnd : Bool) : Word :=
  ((BitVec.ofBool pnd ++ BitVec.ofBool nd ++ BitVec.ofBool pie ++ BitVec.ofBool ie ++ BitVec.ofBool ppriv ++
    BitVec.ofBool priv ++ BitVec.ofBool det ++ BitVec.ofBool schk : BitVec 8)).setWidth 64
def setNd (t : Ctx) (b : Bool) : Ctx := { t with status := putBit t.status 6 b }
/-- An instruction of R32: it ends the region's discardability; in S mode STATUS.ND does not change (R261). -/
def endDiscard (t : Ctx) : Ctx := if stPriv t then t else setNd t true

/-! ### Logical numbers -/

/-- The place of a physical die among the package's logical dies (R3). -/
def diePos (s : State) (d : DieId) : Nat := s.dieMap.toList.idxOf d
/-- The physical die behind a logical die of the package. -/
def dieOf (s : State) (n : Nat) : DieId := s.dieMap.get (Fin.ofNat 4 n)
/-- A partition holds the logical die at a place. -/
def holdsDie (p : Part) (n : Nat) : Bool := decide (p.base.val ≤ n) && decide (n < p.base.val + p.ndies)
/-- The partition a die belongs to; before boot the whole package counts as one (log 18). -/
def partOfDie (s : State) (d : DieId) : Part := (s.parts.find? (holdsDie · (diePos s d))).getD ⟨0, 4, 1000000⟩
/-- Its number among the partitions. -/
def partIdOfDie (s : State) (d : DieId) : PartId := Fin.ofNat 4 ((s.parts.findIdx? (holdsDie · (diePos s d))).getD 0)
/-- The partition of number `p`. -/
def partAt (s : State) (p : PartId) : Part := s.parts[p.val]?.getD ⟨0, 4, 1000000⟩
/-- The physical die behind logical die 0 of a partition, its lowest (R304). -/
def baseDie (s : State) (p : PartId) : DieId := dieOf s (partAt s p).base.val
/-- The physical die behind a logical die of the partition of die `d`. -/
def physDie (s : State) (d : DieId) (ldie : Nat) : DieId := dieOf s ((partOfDie s d).base.val + ldie)
/-- Logical cores of the partition of die `d` (Table 1.1). -/
def shapeCores (s : State) (d : DieId) : Nat := 256 * (partOfDie s d).ndies
/-- The logical die a core presents. -/
def ldieOf (k : Core) : Nat := k.lcore.toNat / 256
/-- Core-in-cluster of the logical core presented. -/
def cicOf (k : Core) : Nat := k.lcore.toNat % 8
/-- Cluster-in-die of the logical core presented. -/
def cidOf (k : Core) : Nat := k.lcore.toNat / 8 % 32
/-- The engines' cluster a core is served by: that of its logical cluster (R336). -/
def clusterOf (s : State) (c : CoreId) : ClusterId :=
  clusterId ((physDie s (coreDie c) (ldieOf (coreAt s c))).val * 32 + cidOf (coreAt s c))
/-- Whether a core is bound and presents logical core `lc` of the partition of `d`. -/
def presents (s : State) (lc : Nat) (c : CoreId) : Bool :=
  (coreAt s c).team.isSome && (coreAt s c).lcore.toNat == lc
/-- The bound physical core that presents logical core `lc` of the partition of die `d` (R336). -/
def presenter (s : State) (d : DieId) (lc : Nat) : Option CoreId :=
  let e := physDie s d (lc / 256)
  let own := coreId (256 * e.val + lc % 256)
  if presents s lc own then some own else (dieCores e).find? (presents s lc)
/-- The cores of a core's team, in ascending logical number (R13). -/
def teamCores (s : State) (c : CoreId) : List CoreId :=
  match (coreAt s c).team with
  | none => []
  | some b => (List.range b.n).filterMap fun i => presenter s (coreDie c) ((coreAt s c).lcore.toNat - b.tci + i)
/-- Whether two cores are bound to one team (R28). -/
def sameTeam (s : State) (x y : CoreId) : Bool :=
  match (coreAt s x).team, (coreAt s y).team with
  | some a, some b => a.lid == b.lid && a.team == b.team
  | _, _ => false
/-- Core `x` is a member of core `y`'s domain at a scope (R82). -/
def within (s : State) (S : Scope) (x y : CoreId) : Bool :=
  match S with
  | .core => x == y
  | .cl => clusterOf s x == clusterOf s y
  | .die => coreDie x == coreDie y
  | .pkg => true
  | .sys => true
/-- S ≥ .cl. -/
def wide : Scope → Bool
  | .core => false
  | .cl => true
  | .die => true
  | .pkg => true
  | .sys => true
/-- The identity with which a context's jobs act (R43). -/
def whoOf (s : State) (c : CoreId) (j : CtxId) : Who :=
  { core := c, ctx := j, priv := stPriv (ctxAt s c j), asid := (ctxAt s c j).asid, root := (ctxAt s c j).root,
    lid := ((coreAt s c).team.map (·.lid)).getD 0#32, team := ((coreAt s c).team.map (·.team)).getD 0,
    lc := (coreAt s c).lcore }

end Sys2Proof.Machine
end

