-- ==== Sys2Proof/Machine/Memory.lean ====
section
/-! DEFINITION. The abstract machine of Table 4.1: homes, L1s, arrays, store buffers, and its steps R85–R90, with poison
(R284) and bank wakes (R54). -/

namespace Sys2Proof.Machine

/-! ### Homes -/

/-- One past the last LPDDR address (R52). -/
def lpddrEnd : Nat := 0xC000000000
/-- LPDDR owned by one die. -/
def dieSpan : Nat := 0x3000000000
def isLpddr (pa : Nat) : Bool := pa < lpddrEnd
/-- Base of the CXL windows. -/
def cxlBase : Nat := 2 ^ 51
/-- A physical address that memory backs (R52). -/
def backed (s : State) (pa : Nat) : Bool :=
  isLpddr pa || (cxlBase ≤ pa && pa < cxlBase + 4 * 2 ^ 48 &&
    decide ((pa - cxlBase) % 2 ^ 48 < s.cxl.get (Fin.ofNat 4 ((pa - cxlBase) / 2 ^ 48))))
/-- The physical die behind the logical die that owns an LPDDR address. -/
def paDie (s : State) (pa : Nat) : DieId := dieOf s (pa / dieSpan)

/-- The value of a byte at its home; an unlisted byte reads 0 (log 1). -/
def homeByte (s : State) (pa : Nat) : Byte := sGet 0#8 s.mem pa
def homeBytes (s : State) (pa n : Nat) : List Byte := bytesAt s.mem pa n
/-- The canonical form of the home memory. -/
def memWf (m : List Host.Cell) : Bool := sWf 0#8 m

/-- A bank meets an access: it is ON from then on (R54), and its idle time starts (R56). -/
def touchBank (k : Core) (ns b : Nat) : Core := { k with power := putTwo k.power b 0#2, lastUse := sIns k.lastUse b ns }
/-- The rank of a die that a physical address lies in, 2 × channel + rank (R52). -/
def rankOf (pa : Nat) : Nat :=
  let o := pa % dieSpan
  2 * (pa / 4096 % 12) + (if o / 49152 * 4096 + o % 4096 < 2 ^ 33 then 0 else 1)
/-- A slice meets an access. -/
def touchL2 (ns sl : Nat) (e : Die) : Die := { e with l2Power := putTwo e.l2Power sl 0#2, lastUse := sIns e.lastUse sl ns }
/-- A rank meets an access, where the access misses the L2. -/
def touchRank (ns r : Nat) (miss : Bool) (e : Die) : Die :=
  { e with
    rankPower := if miss then putTwo e.rankPower r 0#2 else e.rankPower
    lastUse := if miss then sIns e.lastUse (128 + r) ns else e.lastUse }
/-- An access reaches the L2 slice of its home (R49, R54) and, where it misses the L2, the rank of its address (R51, R52; which
accesses miss is log 52). A line of a CXL window has no slice in the model (log 11). -/
def touchSlice (s : State) (pa : Nat) : State :=
  if isLpddr pa then
    modDie s (paDie s pa) fun e =>
      touchRank s.ns (rankOf pa) (Config.l2Misses s.free (pa / 256)) (touchL2 s.ns (Config.homeSlice (pa / 256)).val e)
  else s
/-- A weight-store bank meets a read. -/
def touchWeight (s : State) (d : DieId) (off : Nat) : State :=
  modDie s d fun e =>
    { e with wPower := putTwo e.wPower (off / 0x400000) 0#2, lastUse := sIns e.lastUse (64 + off / 0x400000) s.ns }

/-- A write over the bytes [a, a + n) clears the poison of every sector it covers whole (R284). -/
def unpoison (p : List Nat) (a n : Nat) : List Nat := p.filter fun sec => !(a ≤ 64 * sec && 64 * sec + 64 ≤ a + n)
/-- Some byte of [a, a + n) lies in a poisoned sector. -/
def poisoned (p : List Nat) (a n : Nat) : Bool := p.any fun sec => decide (64 * sec < a + n) && decide (a < 64 * sec + 64)

/-- Bytes written at their home in one step (R93, R96). -/
def homeWrite (s : State) (pa : Nat) (bs : List Byte) : State :=
  let s := touchSlice s pa
  { s with mem := putBytes s.mem pa bs, poison := unpoison s.poison pa bs.length }
/-- A little-endian number at its home. -/
def homeNat (s : State) (pa n : Nat) : Nat := leNat (homeBytes s pa n)

/-! ### L1 (R47) -/

/-- Line keys of the weight store: above every physical address, so that one L1 holds both. -/
def weightKey (d : DieId) (off : Nat) : Nat := 2 ^ 56 + d.val * 2 ^ 28 + off
def isWeightLine (line : Nat) : Bool := decide (2 ^ 48 ≤ line)

def l1Line (k : Core) (line : Nat) : Option L1Line := k.l1.find? (·.line == line)
/-- The L1's copy of a byte. -/
def l1Byte (k : Core) (a : Nat) : Option L1Byte :=
  match l1Line k (a / 256) with
  | none => none
  | some l => (l.bytes.find? (·.1 == a % 256)).map (·.2)
/-- A line replaced; an empty one is dropped. -/
def l1Put (k : Core) (l : L1Line) : Core :=
  { k with l1 := if l.bytes.isEmpty then k.l1.filter (·.line != l.line)
                 else k.l1.map fun x => if x.line == l.line then l else x }
/-- A hit or a fill counts as use: the line moves to the front of the recency order. -/
def l1Use (k : Core) (line ns : Nat) : Core :=
  match l1Line k line with
  | none => k
  | some l => touchBank { k with l1 := l :: k.l1.filter (·.line != line) } ns l.bank

/-- The dirty bytes of a line with stamp at most `lim` (all with `none`), as address and value. -/
def dirtyBytes (l : L1Line) (lim : Option Nat) : List (Nat × Byte) :=
  l.bytes.filterMap fun (o, b) =>
    match b.dirty with
    | none => none
    | some st => if (match lim with | none => true | some m => decide (st ≤ m)) then some (l.line * 256 + o, b.val) else none
/-- The line after those bytes have become clean. -/
def cleaned (l : L1Line) (lim : Option Nat) : L1Line :=
  { l with bytes := l.bytes.map fun (o, b) =>
      match b.dirty with
      | none => (o, b)
      | some st => if (match lim with | none => true | some m => decide (st ≤ m)) then (o, { b with dirty := none }) else (o, b) }

/-- Poison of the L1's sectors of a line travels with its write-back; a write-back of a whole sector without poison clears the
home's (R284). -/
def carryPoison (s : State) (k : Core) (l : L1Line) (bs : List (Nat × Byte)) : List Nat :=
  (List.range 4).foldl (fun p i =>
    let sec := l.line * 4 + i
    let n := (bs.filter fun b => b.1 / 64 == sec).length
    if n = 0 then p else if k.l1Poison.contains sec then setAdd p sec else if n = 64 then setDel p sec else p) s.poison

/-- Writes back the dirty bytes of one line, read from the L1's bank, in one step; home bytes not in the mask are untouched (R87,
R54). -/
def writeBackLine (s : State) (c : CoreId) (line : Nat) (lim : Option Nat) : State :=
  match l1Line (coreAt s c) line with
  | none => s
  | some l =>
    let bs := dirtyBytes l lim
    if bs.isEmpty then s else
    let s := touchSlice s (line * 256)
    let s := { s with mem := bs.foldl (fun m b => sPut 0#8 m b.1 b.2) s.mem, poison := carryPoison s (coreAt s c) l bs }
    modCore s c fun k => touchBank (l1Put k (cleaned l lim)) s.ns l.bank
/-- Writes back every dirty byte of a core's L1 with stamp at most `lim`. -/
def writeBackAll (s : State) (c : CoreId) (lim : Option Nat) : State :=
  ((coreAt s c).l1.map (·.line)).foldl (fun s line => writeBackLine s c line lim) s
/-- Drops a line with whatever it holds. -/
def dropLine (k : Core) (line : Nat) : Core :=
  { k with l1 := k.l1.filter (·.line != line), l1Poison := k.l1Poison.filter (· / 4 != line) }
/-- A line holds a byte of sector `i` of its four. -/
def holdsSector (l : L1Line) (i : Nat) : Bool := l.bytes.any fun e => e.1 / 64 == i
/-- Every clean byte becomes invalid (R88, R90); the poison of a sector of which no byte is left goes with it. -/
def dropClean (k : Core) : Core :=
  let ls := (k.l1.map fun l => { l with bytes := l.bytes.filter fun e => e.2.dirty.isSome }).filter (!·.bytes.isEmpty)
  { k with l1 := ls, l1Poison := k.l1Poison.filter fun sec => ls.any fun l => l.line == sec / 4 && holdsSector l (sec % 4) }
def invalidateClean (s : State) (c : CoreId) : State := modCore s c dropClean

/-- The home recalls a line from its owner: the owner's dirty bytes are written back and ownership ends (R89). -/
def recallLine (s : State) (line : Nat) : State :=
  match s.owner.find? (·.1 == line) with
  | none => s
  | some (_, o) => let s := writeBackLine s o line none; { s with owner := sDel s.owner line }
/-- Recalls a line owned by a core other than `c`. -/
def recallOther (s : State) (c : CoreId) (line : Nat) : State :=
  match s.owner.find? (·.1 == line) with
  | none => s
  | some (_, o) => if o == c then s else recallLine s line

/-- The lines of a set that must leave for a new line: none when an invalid way is left, else the least recently used (R47). -/
def victims (k : Core) (line : Nat) : List L1Line := (k.l1.filter fun l => l.line % 32 == line % 32).drop (k.l1k - 1)
/-- The lowest free bank of the set (R47). -/
def freeWay (k : Core) (line : Nat) : Option Nat :=
  ((List.range k.l1k).map (40 - k.l1k + ·)).find? fun b =>
    !(k.l1.any fun l => l.line % 32 == line % 32 && l.bank == b)
/-- A line leaves an L1: its dirty bytes go home and its core owns it no more. -/
def leaveLine (s : State) (c : CoreId) (line : Nat) : State :=
  let s := modCore (writeBackLine s c line none) c fun k => dropLine k line
  if (s.owner.find? (·.1 == line)).any (·.2 == c) then { s with owner := sDel s.owner line } else s
/-- Makes room for a line and enters it, empty, as the most recently used; an L1 of no bank holds nothing. -/
def l1Enter (s : State) (c : CoreId) (line : Nat) : State :=
  if (l1Line (coreAt s c) line).isSome then modCore s c fun k => l1Use k line s.ns else
  let s := (victims (coreAt s c) line).foldl (fun s v => leaveLine s c v.line) s
  match freeWay (coreAt s c) line with
  | none => s
  | some b => modCore s c fun k => touchBank { k with l1 := ⟨line, b, []⟩ :: k.l1 } s.ns b
/-- Sets one byte of a line that is present. -/
def l1Set (k : Core) (a : Nat) (b : L1Byte) : Core :=
  match l1Line k (a / 256) with
  | none => k
  | some l => { k with l1 := k.l1.map fun x => if x.line == l.line then { l with bytes := sIns l.bytes (a % 256) b } else x }
/-- Fills the bytes of a sector that the L1 does not hold, as clean: a byte that is valid there keeps its value (R85). -/
def l1Fill (k : Core) (a : Nat) : List Byte → Core
  | [] => k
  | b :: bs =>
    let k := match l1Byte k a with
      | some _ => k
      | none => l1Set k a ⟨b, none⟩
    l1Fill k (a + 1) bs
/-- The poison of an L1 after a sector is filled: that of its source joins it, and a sector of which the L1 held no byte has the
source's alone (R284). -/
def filledPoison (k : Core) (sec : Nat) (bad : Bool) : List Nat :=
  if bad then setAdd k.l1Poison sec
  else if (l1Line k (sec / 4)).any (holdsSector · (sec % 4)) then k.l1Poison
  else setDel k.l1Poison sec
/-- A core fills the 64-byte sector of a byte from its home (R85). -/
def fillSector (s : State) (c : CoreId) (pa : Nat) : State :=
  let s := touchSlice (recallOther s c (pa / 256)) pa
  let s := l1Enter s c (pa / 256)
  let base := pa / 64 * 64
  modCore s c fun k =>
    { l1Fill k base (homeBytes s base 64) with l1Poison := filledPoison k (pa / 64) (s.poison.contains (pa / 64)) }
/-- The bytes of a die's weight store; a bank that holds no weights reads zeros (R50). -/
def weightBytes (s : State) (d : DieId) (off n : Nat) : List Byte :=
  if (dieAt s d).marks.getLsbD (off / 0x400000) then bytesAt (dieAt s d).weights off n else List.replicate n 0#8
/-- A core fills a sector of the weight store, clean (R47). -/
def fillWeight (s : State) (c : CoreId) (d : DieId) (off : Nat) : State :=
  let s := touchWeight s d off
  let s := l1Enter s c (weightKey d off / 256)
  let base := off / 64 * 64
  modCore s c fun k =>
    { l1Fill k (weightKey d base) (weightBytes s d base 64) with
      l1Poison := filledPoison k (weightKey d off / 64) ((dieAt s d).weightPoison.contains (off / 64)) }

/-! ### Store buffers (R86, R90) -/

/-- The first of [a, a + n) and [b, b + m) meet. -/
def meet (a n b m : Nat) : Bool := decide (a < b + m) && decide (b < a + n)
/-- Two places share a byte. -/
def overlap (p : Place) (n : Nat) (q : Place) (m : Nat) : Bool :=
  match p, q with
  | .mem a _, .mem b _ => meet a n b m
  | .array c a, .array d b => c == d && meet a n b m
  | .weight c a, .weight d b => c == d && meet a n b m
  | _, _ => false
/-- An entry stores to a byte of [p, p + n). -/
def itemMeets (p : Place) (n : Nat) : SbItem → Bool
  | .store q bs _ _ _ _ _ => overlap p n q bs.length
  | .fence _ _ _ _ => false
/-- The value the youngest entry of a buffer gives a byte (R85). -/
def forward (sb : List SbItem) (p : Place) : Option Byte :=
  sb.foldl (fun acc it =>
    match it with
    | .store q bs _ _ _ _ _ =>
      match p, q with
      | .mem a _, .mem b _ => if b ≤ a && a < b + bs.length then bs[a - b]? else acc
      | .array c a, .array d b => if c == d && b ≤ a && a < b + bs.length then bs[a - b]? else acc
      | _, _ => acc
    | .fence _ _ _ _ => acc) none

/-- The address `i` bytes further on. -/
def placeAdd : Place → Nat → Place
  | .mem a u, i => .mem (a + i) u
  | .array c a, i => .array c (a + i)
  | .weight d a, i => .weight d (a + i)

/-- Writes bytes into an array (R86): the owner's array is the single point of the byte. -/
def arrayWrite (s : State) (c : CoreId) (off : Nat) (bs : List Byte) : State :=
  modCore s c fun k =>
    touchBank { k with array := putBytes k.array off bs, arrayPoison := unpoison k.arrayPoison off bs.length } s.ns
      (off / 8192)
/-- Bytes written into an L1 as dirty; a byte that was already dirty keeps its stamp, and the counter advances (R81, R86). -/
def l1Dirty (k : Core) (a : Nat) : List Byte → Core
  | [] => k
  | b :: bs =>
    let st := match l1Byte k a with
      | some ⟨_, some st⟩ => st
      | _ => k.stamp
    l1Dirty (l1Set k a ⟨b, some st⟩) (a + 1) bs
/-- Bytes written through: a copy that the L1 holds becomes the written value, clean. -/
def l1Replace (k : Core) (a : Nat) : List Byte → Core
  | [] => k
  | b :: bs => l1Replace (if (l1Byte k a).isSome then l1Set k a ⟨b, none⟩ else k) (a + 1) bs
/-- The same at a time: a copy that is replaced is a hit of its line (R47, R54). -/
def l1Through (k : Core) (a ns : Nat) (bs : List Byte) : Core :=
  let held := (List.range bs.length).any fun i => (l1Byte k (a + i)).isSome
  l1Replace (if held then l1Use k (a / 256) ns else k) a bs

/-- A release record is made: the counter advances, the record is appended and, for a line, the home's LRR is set (R86). -/
def releaseAt (s : State) (c : CoreId) (sc : Scope) (line : Option Nat) : State :=
  let st := (coreAt s c).stamp
  let s := modCore s c fun k => { k with stamp := k.stamp + 1, releases := k.releases ++ [(st, sc)] }
  match line with
  | none => s
  | some l => { s with lrr := sIns s.lrr l ⟨c, st, sc⟩ }

/-- Drains bytes into translated memory: a core's own L1, or the home where the page is uncached, which leaves the L1 alone
(R293), or where the L1 has no bank. -/
def drainMem (s : State) (c : CoreId) (pa : Nat) (uncached : Bool) (bs : List Byte) : State :=
  let s := recallOther s c (pa / 256)
  if uncached || (coreAt s c).l1k == 0 then homeWrite s pa bs
  else
    let s := l1Enter s c (pa / 256)
    modCore s c fun k =>
      let k := l1Dirty k pa bs
      { k with stamp := k.stamp + 1, l1Poison := unpoison k.l1Poison pa bs.length }
/-- A counted store performed: QSENT at the sender and QRECV at the receiver, when both belong to one team (R28, R155). -/
def countStore (s : State) (c dst : CoreId) : State :=
  if sameTeam s c dst then
    let s := modCore s c fun k => { k with qsent := k.qsent + 1 }
    modCore s dst fun k => { k with qrecv := k.qrecv + 1 }
  else s
/-- A release without a record: the stamp counter advances (R81). -/
def advanceStamp (s : State) (c : CoreId) : State := modCore s c fun k => { k with stamp := k.stamp + 1 }
/-- The drain of one entry of a store buffer of core `c` (R86, R90). A release at .cl, .die or .pkg to memory leaves a record; one
at .sys writes everything through and leaves none. -/
def drainItem (s : State) (c : CoreId) : SbItem → State
  | .store (.mem pa u) bs rel sc _ _ _ =>
    if rel && sc == .sys then
      let s := recallOther (writeBackAll s c none) c (pa / 256)
      let s := homeWrite s pa bs
      let s := if u then s else modCore s c fun k => l1Through k pa s.ns bs
      advanceStamp s c
    else
      let s := drainMem s c pa u bs
      if !rel then s else if wide sc then releaseAt s c sc (some (pa / 256)) else advanceStamp s c
  | .store (.array o off) bs rel sc counted _ _ =>
    let s := if rel && wide sc then writeBackAll s c none else s
    let s := arrayWrite s o off bs
    let s := if rel then advanceStamp s c else s
    if counted then countStore s c o else s
  | .store (.weight _ _) _ _ _ _ _ _ => s
  | .fence pred succ sc _ =>
    let s := if wide sc && pred.getLsbD 1 then writeBackAll s c none else s
    if wide sc && succ.getLsbD 0 then invalidateClean s c else s

/-- An entry waits for a frozen window of another core (R337). -/
def itemHeld (s : State) (c : CoreId) : SbItem → Bool
  | .store (.array o _) _ _ _ _ _ _ => o != c && (coreAt s o).frozen
  | _ => false

/-- Which entries must drain so that the ones `want` names can: older overlapping ones, all older ones under a release or a
fence with W in its predecessor set (R86, R90). The list is youngest first; the answer marks it. -/
def needed (want : SbItem → Bool) : List SbItem → List SbItem → Bool → List Bool
  | [], _, _ => []
  | it :: older, need, all =>
    let n := all || want it || (match it with
      | .store p bs _ _ _ _ _ => need.any (itemMeets p bs.length)
      | .fence _ succ _ _ => succ.getLsbD 1 && !need.isEmpty)
    if n then
      let all' := all || (match it with
        | .store _ _ rel _ _ _ _ => rel
        | .fence pred _ _ _ => pred.getLsbD 1)
      true :: needed want older (it :: need) all'
    else false :: needed want older need all

/-- Drains, oldest first, the entries that `want` names and all that they need. -/
def settle (s : State) (c : CoreId) (j : CtxId) (want : SbItem → Bool) : State :=
  let sb := (ctxAt s c j).sbuf
  let marks := (needed want sb.reverse [] false).reverse
  let go := (sb.zip marks).filter (·.2)
  let stay := (sb.zip marks).filter (!·.2)
  let s := modCtx s c j fun t => { t with sbuf := stay.map (·.1) }
  go.foldl (fun s it => drainItem s c it.1) s
/-- Drains the whole store buffer of a context. -/
def drainAll (s : State) (c : CoreId) (j : CtxId) : State := settle s c j fun _ => true
/-- Some entry of the buffer is held at a frozen window. -/
def buffersHeld (s : State) (c : CoreId) (j : CtxId) : Bool := (ctxAt s c j).sbuf.any (itemHeld s c)
/-- A put of the context is on its way to its unit: an access not yet performed (R166). -/
def putsTravel (s : State) (c : CoreId) (j : CtxId) : Bool :=
  s.dies.toList.any fun d => d.puts.any fun p => p.who.core == c && p.who.ctx == j
/-- A release of the context cannot be made yet: an older access of it is held or still travelling (R83, R166, R337). -/
def releaseHeld (s : State) (c : CoreId) (j : CtxId) : Bool := buffersHeld s c j || putsTravel s c j
/-- A fence that orders reads after it. -/
def fencesRead : SbItem → Bool
  | .fence _ succ _ _ => succ.getLsbD 0
  | .store _ _ _ _ _ _ _ => false
/-- A later read waits for the fences that order reads after them (R90). -/
def beforeRead (s : State) (c : CoreId) (j : CtxId) : State := settle s c j fencesRead
/-- An entry that must drain before entries that `want` names is held at a frozen window. -/
def settleHeld (s : State) (c : CoreId) (j : CtxId) (want : SbItem → Bool) : Bool :=
  let sb := (ctxAt s c j).sbuf
  (sb.zip (needed want sb.reverse [] false).reverse).any fun e => e.2 && itemHeld s c e.1

/-! ### Loads (R85, R88) -/

/-- The value of one byte for a core's plain read, once its sector has been filled. -/
def seenByte (s : State) (c : CoreId) (sb : List SbItem) (p : Place) : Byte :=
  match forward sb p with
  | some b => b
  | none =>
    match p with
    | .mem a _ => (match l1Byte (coreAt s c) a with | some b => b.val | none => homeByte s a)
    | .array o a => sGet 0#8 (coreAt s o).array a
    | .weight d a => (match l1Byte (coreAt s c) (weightKey d a) with
        | some b => b.val
        | none => (weightBytes s d a 1).headD 0#8)
/-- Every byte of a read comes from the buffer or is valid in the L1. -/
def l1Hit (s : State) (c : CoreId) (sb : List SbItem) (key : Nat) (p : Place) (n : Nat) : Bool :=
  (List.range n).all fun i => (forward sb (placeAdd p i)).isSome || (l1Byte (coreAt s c) (key + i)).isSome
/-- A plain load of context j is performed: the bytes it sees, whether one is poisoned, and the state after its fill (R85). -/
def loadNow (s : State) (c : CoreId) (j : CtxId) (p : Place) (n : Nat) : State × List Byte × Bool :=
  let sb := (ctxAt s c j).sbuf
  match p with
  | .mem a true =>
    let s := touchSlice (recallOther s c (a / 256)) a
    (s, (List.range n).map fun i => (forward sb (placeAdd p i)).getD (homeByte s (a + i)), poisoned s.poison a n)
  | .mem a false =>
    let s := if l1Hit s c sb a p n then modCore s c fun k => l1Use k (a / 256) s.ns else fillSector s c a
    (s, (List.range n).map fun i => seenByte s c sb (placeAdd p i), poisoned (coreAt s c).l1Poison a n)
  | .array o off =>
    let s := modCore s o fun k => touchBank k s.ns (off / 8192)
    (s, (List.range n).map fun i => seenByte s c sb (placeAdd p i), poisoned (coreAt s o).arrayPoison off n)
  | .weight d off =>
    let key := weightKey d off
    let s := if l1Hit s c sb key p n then modCore s c fun k => l1Use k (key / 256) s.ns else fillWeight s c d off
    (s, (List.range n).map fun i => seenByte s c sb (placeAdd p i), poisoned (coreAt s c).l1Poison key n)

/-- A plain load performed as it issues: the fences before it that order reads come first (R90). -/
def loadPlain (s : State) (c : CoreId) (j : CtxId) (p : Place) (n : Nat) : State × List Byte × Bool :=
  loadNow (beforeRead s c j) c j p n

/-- The value a fill of the line would give a byte: its owner's dirty byte goes home first (R89). -/
def filledByte (s : State) (pa : Nat) : Byte :=
  match s.owner.find? (·.1 == pa / 256) with
  | none => homeByte s pa
  | some (_, o) => match l1Byte (coreAt s o) pa with
    | some ⟨b, some _⟩ => b
    | _ => homeByte s pa
/-- The value that a plain load performed now would give a byte (R85). -/
def peekByte (s : State) (c : CoreId) (sb : List SbItem) (p : Place) : Byte :=
  match forward sb p with
  | some b => b
  | none =>
    match p with
    | .mem a true => filledByte s a
    | .mem a false => (match l1Byte (coreAt s c) a with | some b => b.val | none => filledByte s a)
    | .array _ _ => seenByte s c [] p
    | .weight _ _ => seenByte s c [] p
/-- A byte of a line's owner is poisoned in its L1. -/
def ownerPoisoned (s : State) (a n : Nat) : Bool :=
  match s.owner.find? (·.1 == a / 256) with
  | none => false
  | some (_, o) => poisoned (coreAt s o).l1Poison a n
/-- Poison that such a load could meet (R284). -/
def peekPoisoned (s : State) (c : CoreId) (p : Place) (n : Nat) : Bool :=
  match p with
  | .mem a _ => poisoned s.poison a n || poisoned (coreAt s c).l1Poison a n || ownerPoisoned s a n
  | .array o off => poisoned (coreAt s o).arrayPoison off n
  | .weight d off => poisoned (dieAt s d).weightPoison off n || poisoned (coreAt s c).l1Poison (weightKey d off) n

/-- The write-backs an acquire by core `c` at scope S forces from the line's last releaser (R88). -/
def acquireForce (s : State) (c : CoreId) (sc : Scope) (line : Nat) : State :=
  match s.lrr.find? (·.1 == line) with
  | none => s
  | some (_, r) =>
    if r.core != c && within s r.scope c r.core && within s sc r.core c then writeBackAll s r.core (some r.stamp) else s
/-- A byte for an acquire at .cl or wider: own dirty byte if there is one, the home otherwise (R88), which an uncached page always
reads (R293). -/
def acquiredByte (s : State) (c : CoreId) (uncached : Bool) (a : Nat) : Byte :=
  match l1Byte (coreAt s c) a with
  | some ⟨b, some _⟩ => if uncached then homeByte s a else b
  | _ => homeByte s a
/-- Poison of the bytes that an acquire reads: that of the L1 for its own dirty bytes, else that of the home (R284). -/
def acquirePoisoned (s : State) (c : CoreId) (uncached : Bool) (a n : Nat) : Bool :=
  (List.range n).any fun i => match l1Byte (coreAt s c) (a + i) with
    | some ⟨_, some _⟩ => if uncached then poisoned s.poison (a + i) 1 else poisoned (coreAt s c).l1Poison (a + i) 1
    | _ => poisoned s.poison (a + i) 1
/-- The context's entries that an acquire at .cl or wider waits for: its own stores to the bytes, which drain so that the value is
that of R88 (log 47), and the fences before it (R90). -/
def beforeAcquire (p : Place) (n : Nat) (it : SbItem) : Bool := itemMeets p n it || fencesRead it
/-- An acquire that reads a byte which its own L1 holds dirty is a hit of that line (R47, R54). -/
def acquireHit (k : Core) (uncached : Bool) (a n ns : Nat) : Core :=
  if !uncached && (List.range n).any fun i => (l1Byte k (a + i)).any (·.dirty.isSome) then l1Use k (a / 256) ns else k
/-- An acquire load at scope S (R88). -/
def loadAcquire (s : State) (c : CoreId) (j : CtxId) (sc : Scope) (p : Place) (n : Nat) : State × List Byte × Bool :=
  if !wide sc then loadPlain s c j p n else
  let s := settle s c j (beforeAcquire p n)
  match p with
  | .mem a u =>
    let s := touchSlice (recallOther (acquireForce s c sc (a / 256)) c (a / 256)) a
    (modCore (invalidateClean s c) c fun k => acquireHit k u a n s.ns, (List.range n).map fun i => acquiredByte s c u (a + i), acquirePoisoned s c u a n)
  | .array o off =>
    let s := modCore s o fun k => touchBank k s.ns (off / 8192)
    (invalidateClean s c, bytesAt (coreAt s o).array off n, poisoned (coreAt s o).arrayPoison off n)
  | .weight _ _ =>
    let r := loadPlain s c j p n
    (invalidateClean r.1 c, r.2)

/-! ### Atomics (R89) -/

/-- Core `c` becomes the owner of a line: any other owner is recalled, every other L1 writes the line back and invalidates
it. -/
def own (s : State) (c : CoreId) (line : Nat) : State :=
  let s := recallOther s c line
  let s := allCores.foldl (fun s q =>
    if q == c || (l1Line (coreAt s q) line).isNone then s
    else modCore (writeBackLine s q line none) q fun k => dropLine k line) s
  { s with owner := sIns s.owner line c }

/-- An atomic of context j: `f` gives the new bytes from the old ones, or none to write nothing. -/
def atomicAt (s : State) (c : CoreId) (j : CtxId) (p : Place) (n : Nat) (far acq rel : Bool)
    (f : List Byte → Option (List Byte)) : State × List Byte × Bool :=
  let s := if rel then drainAll s c j else settle s c j fun it => itemMeets p n it ||
    (match it with | .fence _ _ _ _ => true | _ => false)
  match p with
  | .mem a u =>
    let line := a / 256
    let s := if acq then acquireForce s c .pkg line else s
    let nearHere := !far && !u && (coreAt s c).l1k != 0
    let s := if nearHere then
        let s := own s c line
        fillSector s c a
      else
        let s := recallLine (writeBackLine s c line none) line
        touchSlice (modCore s c fun k => dropLine k line) a
    let old := (List.range n).map fun i => acquiredByte s c u (a + i)
    let bad := if nearHere then poisoned (coreAt s c).l1Poison a n else poisoned s.poison a n
    if bad then (s, old, true) else
    let s := match f old with
      | none => s
      | some new => if nearHere then modCore s c fun k => let k := l1Dirty k a new; { k with stamp := k.stamp + 1 }
                    else homeWrite s a new
    let s := if rel then releaseAt s c .pkg (some line) else s
    (if acq then invalidateClean s c else s, old, false)
  | .array o off =>
    let s := if rel then writeBackAll s c none else s
    let s := modCore s o fun k => touchBank k s.ns (off / 8192)
    let old := bytesAt (coreAt s o).array off n
    if poisoned (coreAt s o).arrayPoison off n then (s, old, true) else
    let s := match f old with
      | none => s
      | some new => arrayWrite s o off new
    let s := if rel then advanceStamp s c else s
    (if acq then invalidateClean s c else s, old, false)
  | .weight _ _ => (s, List.replicate n 0#8, false)

/-! ### Engine harts (T4.1, R92, R93): no L1; a store buffer -/

/-- An engine hart. -/
inductive Hart
  | copy (g : ClusterId)
  | matrix (g : ClusterId)
  | merge (d : DieId)
  | port (p : PortId)
  deriving DecidableEq, Repr, Inhabited

/-- A read of bytes at homes, arrays or the weight store by an agent without an L1. -/
def engineRead (s : State) (p : Place) (n : Nat) : State × List Byte × Bool :=
  match p with
  | .mem a _ =>
    let s := touchSlice (recallLine s (a / 256)) a
    (s, homeBytes s a n, poisoned s.poison a n)
  | .array o off =>
    (modCore s o fun k => touchBank k s.ns (off / 8192), bytesAt (coreAt s o).array off n,
      poisoned (coreAt s o).arrayPoison off n)
  | .weight d off => (touchWeight s d off, weightBytes s d off n, poisoned (dieAt s d).weightPoison off n)
/-- A write of whole bytes performed, one step at one home or array (R93). -/
def engineWrite (s : State) (p : Place) (bs : List Byte) : State :=
  match p with
  | .mem a _ => homeWrite (recallLine s (a / 256)) a bs
  | .array o off => arrayWrite s o off bs
  | .weight _ _ => s
/-- A store-release of such an agent: its record replaces the line's last-release record, and it has nothing to write back. -/
def engineRelease (s : State) (p : Place) (bs : List Byte) : State :=
  let s := engineWrite s p bs
  match p with
  | .mem a _ => { s with lrr := sDel s.lrr (a / 256) }
  | _ => s

/-- The store buffer of a hart, oldest entry first. -/
def hartBuf (s : State) : Hart → List HartStore
  | .copy g => (clusterAt s g).copyBuf
  | .matrix g => (clusterAt s g).matBuf
  | .merge d => (dieAt s d).mergeBuf
  | .port p => (portAt s p).buf
def putHartBuf (s : State) (h : Hart) (l : List HartStore) : State :=
  match h with
  | .copy g => modCluster s g fun k => { k with copyBuf := l }
  | .matrix g => modCluster s g fun k => { k with matBuf := l }
  | .merge d => modDie s d fun k => { k with mergeBuf := l }
  | .port p => modPort s p fun k => { k with buf := l }
/-- An entry writes a byte of [p, p + n). -/
def hartMeets (p : Place) (n : Nat) (e : HartStore) : Bool := overlap p n e.place e.bytes.length
/-- The entries up to the youngest that `want` names are performed, oldest first (R86). -/
def hartSettle (s : State) (h : Hart) (want : HartStore → Bool) : State :=
  let l := hartBuf s h
  let go := (l.reverse.dropWhile fun e => !want e).reverse
  go.foldl (fun s e => engineWrite s e.place e.bytes) (putHartBuf s h (l.drop go.length))
/-- Every entry is performed. -/
def hartFlush (s : State) (h : Hart) : State := hartSettle s h fun _ => true
/-- A hart's write is accepted: it is performed at once or stays in the store buffer for a while, as is free (log 4); older writes
to the same bytes go first. `job` is the copy job it belongs to. -/
def hartWrite (s : State) (h : Hart) (p : Place) (bs : List Byte) (job : Word32 := 0#32) : State :=
  let s := hartSettle s h (hartMeets p bs.length)
  if Config.engineWaits s.free then putHartBuf s h (hartBuf s h ++ [⟨p, bs, job⟩]) else engineWrite s p bs
/-- A hart's read sees its own writes (R85). -/
def hartRead (s : State) (h : Hart) (p : Place) (n : Nat) : State × List Byte × Bool :=
  engineRead (hartSettle s h (hartMeets p n)) p n
/-- No beat of a copy job reads before its previous beat's write has been performed (R201). -/
def hartOrder (s : State) (g : ClusterId) (job : Word32) : State := hartSettle s (.copy g) (·.job == job)
/-- A hart's store-release: every access of the job has been performed (R92). -/
def hartRelease (s : State) (h : Hart) (p : Place) (bs : List Byte) : State := engineRelease (hartFlush s h) p bs
/-- Entry `i` of a hart's store buffer is performed, unless an older one writes one of its bytes (R86). -/
def hartDrain (s : State) (h : Hart) (i : Nat) : State :=
  let l := hartBuf s h
  match l[i]? with
  | none => s
  | some e =>
    if (l.take i).any (hartMeets e.place e.bytes.length) then s
    else engineWrite (putHartBuf s h (l.eraseIdx i)) e.place e.bytes
/-- The harts of the package. -/
def allHarts : List Hart :=
  (List.finRange 128).map .copy ++ (List.finRange 128).map .matrix ++ (List.finRange 4).map .merge ++
    (List.finRange 2).map .port
/-- Every accepted write of every hart is performed. -/
def flushHarts (s : State) : State := allHarts.foldl hartFlush s

/-- Where an agent that is no core stands among the members of Table 4.2: in a cluster, on a die, or in the package alone. -/
inductive Stand
  | cluster (g : ClusterId)
  | die (d : DieId)
  | package
  deriving DecidableEq, Repr, Inhabited
/-- Such an agent lies within scope S of core `y` (R82). -/
def standsWithin (s : State) (S : Scope) (x : Stand) (y : CoreId) : Bool :=
  match S, x with
  | .core, _ => false
  | .cl, .cluster g => clusterOf s y == g
  | .cl, .die _ => false
  | .cl, .package => false
  | .die, .cluster g => dieId (g.val / 32) == coreDie y
  | .die, .die d => d == coreDie y
  | .die, .package => false
  | .pkg, _ => true
  | .sys, _ => true
/-- Its acquire of a line at .pkg: the last releaser writes back what its record covers (R88). A releaser within whose scope it
does not lie is not forced. -/
def engineAcquire (s : State) (x : Stand) (line : Nat) : State :=
  match s.lrr.find? (·.1 == line) with
  | none => s
  | some (_, r) => if standsWithin s r.scope x r.core then writeBackAll s r.core (some r.stamp) else s

/-- A context's release of its older accesses at a scope, to something that is no line of memory: the store buffer drains,
and what the acquirer must force is the answered stamp (R92, R94). -/
def releaseStamp (s : State) (c : CoreId) (j : CtxId) (sc : Scope) : State × Nat :=
  let s := drainAll s c j
  let st := (coreAt s c).stamp
  (if wide sc then releaseAt s c sc none else advanceStamp s c, st)

end Sys2Proof.Machine
end

