-- ==== Sys2Proof/Machine/Translate.lean ====
section
/-! DEFINITION. Address translation (R288–R297) and the checks of Table 7.1, which give an access its place or its fault. -/

namespace Sys2Proof.Machine

/-- What an access is, for its checks (Tables 7.1 and 16.5). -/
inductive AccKind | fetch | load | store | atomic | counted | merge
  deriving DecidableEq, Repr, Inhabited

def AccKind.writes (k : AccKind) : Bool :=
  match k with
  | .fetch => false
  | .load => false
  | .store => true
  | .atomic => true
  | .counted => true
  | .merge => true

/-! ### Entries (Tables 16.3, 16.4) -/

def peV (e : Word) : Bool := e.getLsbD 0
def peT (e : Word) : Bool := e.getLsbD 1
def peR (e : Word) : Bool := e.getLsbD 2
def peW (e : Word) : Bool := e.getLsbD 3
def peX (e : Word) : Bool := e.getLsbD 4
def peU (e : Word) : Bool := e.getLsbD 5
def peG (e : Word) : Bool := e.getLsbD 6
def peA (e : Word) : Bool := e.getLsbD 7
def peD (e : Word) : Bool := e.getLsbD 8
def peSz (e : Word) : Bool := e.getLsbD 10
def peAttr (e : Word) : BitVec 2 := e.extractLsb' 11 2
/-- Physical address of the page: PPN × 2^16. -/
def pePage (e : Word) : Nat := (e.extractLsb' 16 36).toNat * 0x10000
/-- Physical address of the next table: NEXT × 2^8. -/
def peNext (e : Word) : Nat := (e.extractLsb' 8 44).toNat * 256

/-- Size of the table of a level (Table 16.2). -/
def tableSize (lvl : Nat) : Nat := match lvl with | 0 => 0x20000 | 1 => 0x2000 | 2 => 0x4000 | _ => 256
/-- Index of a level in a virtual address (Table 16.2). -/
def vaIndex (lvl : Nat) (va : Word) : Nat :=
  match lvl with
  | 0 => (va.extractLsb' 42 14).toNat
  | 1 => (va.extractLsb' 32 10).toNat
  | 2 => (va.extractLsb' 21 11).toNat
  | _ => (va.extractLsb' 16 5).toNat
/-- Page size of a leaf found at a level. -/
def pageSize (lvl : Nat) (e : Word) : Nat :=
  match lvl with
  | 1 => 0x100000000
  | 2 => if peSz e then 0x10000000 else 0x200000
  | _ => 0x10000

/-- An entry with V = 1 is malformed at a level (R291). -/
def malformed (lvl : Nat) (e : Word) : Bool :=
  if peT e then
    lvl == 0 || e.extractLsb' 13 3 != 0#3 || e.extractLsb' 52 8 != 0#8 || (peSz e && lvl != 2) || (peW e && !peR e) ||
      (peAttr e).toNat ≥ 2 || pePage e % pageSize lvl e != 0
  else
    lvl ≥ 3 || e.extractLsb' 2 6 != 0#6 || e.extractLsb' 52 12 != 0#12 || peNext e % tableSize (lvl + 1) != 0 ||
      !(peNext e + tableSize (lvl + 1) ≤ lpddrEnd)

/-- An entry as a walk reads it, in one step at its home, a line's owner giving up its dirty bytes first (R89, R294).
An entry in a poisoned sector is read as if it were not poisoned: R284 names loads and beats, and says nothing of walks (DESIGN
CHOICE, log 102). -/
def readEntry (s : State) (pa : Nat) : Word := BitVec.ofNat 64 (leNat ((List.range 8).map fun i => filledByte s (pa + i)))

/-- A leaf a walk has found. -/
structure Leaf where
  entry : Word
  level : Nat
  deriving DecidableEq, Repr

/-- The rest of a walk from a table: `fuel` counts the levels left. -/
def walkFrom (s : State) (va : Word) : Nat → Nat → Nat → Option Leaf
  | 0, _, _ => none
  | fuel + 1, lvl, table =>
    let e := readEntry s (table + 8 * vaIndex lvl va)
    if !peV e || malformed lvl e then none
    else if peT e then some ⟨e, lvl⟩
    else walkFrom s va fuel (lvl + 1) (peNext e)
/-- The walk of R294. A root outside LPDDR fails (R289). -/
def walk (s : State) (root : BitVec 35) (va : Word) : Option Leaf :=
  if root.toNat * 0x20000 + 0x20000 ≤ lpddrEnd then walkFrom s va 4 0 (root.toNat * 0x20000) else none

/-- The checks of Table 16.5. -/
def leafAllows (kind : AccKind) (priv : Bool) (e : Word) : Bool :=
  (priv || peU e) && peA e &&
  (match kind with
   | .fetch => peX e
   | .load => peR e
   | _ => peW e && peD e)

/-- The physical address a leaf gives. -/
def leafPa (l : Leaf) (va : Word) : Nat := pePage l.entry + va.toNat % pageSize l.level l.entry

/-- What checking an access answers: its place, its fault, or a wait at a frozen or absent window. -/
inductive Placed
  | ok (p : Place)
  | fault (t : TrapInfo)
  | held
  deriving DecidableEq, Repr

/-- Bytes covered by an entry of a level: a leaf's page, or what a table entry reaches. -/
def covers (lvl : Nat) (e : Word) : Nat :=
  if peT e then pageSize lvl e else match lvl with | 0 => 2 ^ 42 | 1 => 2 ^ 32 | _ => 2 ^ 21

/-- A translation that a die's caches offer: its leaf and, where it lies below a cached table entry, the level and the table at which
the walk for it starts. -/
structure CacheHit where
  leaf  : Leaf
  start : Option (Nat × Nat)
  deriving DecidableEq, Repr

/-- What a cache entry offers for an address of its range. -/
def hitBelow (s : State) (asid : BitVec 9) (va : Word) (e : TlbEntry) : Option CacheHit :=
  if peT e.entry then (if e.asid == asid || peG e.entry then some ⟨⟨e.entry, e.level⟩, none⟩ else none)
  else if e.asid == asid then
    (walkFrom s va 4 (e.level + 1) (peNext e.entry)).map fun l => ⟨l, some (e.level + 1, peNext e.entry)⟩
  else none
/-- Translations that the die's caches offer for an address, each a leaf that passes the checks: cached leaves, and walks
that start at a cached table entry (R295–R297). -/
def cached (s : State) (d : DieId) (asid : BitVec 9) (kind : AccKind) (priv : Bool) (va : Word) : List CacheHit :=
  (dieAt s d).tlb.filterMap fun e =>
    let here := decide (e.vbase ≤ va.toNat % 2 ^ 56) && decide (va.toNat % 2 ^ 56 < e.vbase + e.size)
    match here, hitBelow s asid va e with
    | true, some h => if leafAllows kind priv h.leaf.entry then some h else none
    | _, _ => none

/-- The fault of an access kind when translation denies it (R294). -/
def pageFault (kind : AccKind) (va : Word) : TrapInfo :=
  match kind with
  | .fetch => ⟨.loadPageFault, 0#8, true, false, va⟩
  | .load => ⟨.loadPageFault, 0#8, false, false, va⟩
  | _ => ⟨.storePageFault, 0#8, false, false, va⟩

/-- An access fault. -/
def accessFault (kind : AccKind) (va : Word) : TrapInfo := ⟨.access, 0#8, kind == .fetch, false, va⟩

/-- The cached translation that an access takes, where it takes one (R297; log 17). -/
def pickCached (s : State) (d : DieId) (asid : BitVec 9) (kind : AccKind) (priv : Bool) (va : Word) : Option CacheHit :=
  let found := cached s d asid kind priv va
  if found.isEmpty then none else found[Config.tlbPick s.free % (found.length + 1)]?
/-- The leaf that translates an address: a cached translation that passes, or what a fresh walk finds. -/
def leafFor (s : State) (d : DieId) (asid : BitVec 9) (root : BitVec 35) (kind : AccKind) (priv : Bool) (va : Word) : Option Leaf :=
  match pickCached s d asid kind priv va with
  | some h => some h.leaf
  | none => match walk s root va with
    | none => none
    | some l => if leafAllows kind priv l.entry then some l else none
/-- Translation of region 0x00 (R294–R297): a fault only after a fresh walk. -/
def translate (s : State) (d : DieId) (asid : BitVec 9) (root : BitVec 35) (kind : AccKind) (priv : Bool) (va : Word) :
    Except TrapInfo Place :=
  match leafFor s d asid root kind priv va with
  | none => .error (pageFault kind va)
  | some l =>
    if backed s (leafPa l va) then .ok (.mem (leafPa l va) (peAttr l.entry == 1#2)) else .error (accessFault kind va)
/-- What the reads of a walk do: each entry is read at its home as an engine reads (R294), so that its line's owner gives up the
line (R89) and its L2 slice meets an access (R54). -/
def walkReads (va : Word) : Nat → State → Nat → Nat → State
  | 0, s, _, _ => s
  | fuel + 1, s, lvl, table =>
    let pa := table + 8 * vaIndex lvl va
    let s := touchSlice (recallLine s (pa / 256)) pa
    let e := readEntry s pa
    if !peV e || malformed lvl e || peT e then s else walkReads va fuel s (lvl + 1) (peNext e)
/-- Where the walk for an address starts, if one is made: at the root, or at the table that a cached table entry names. -/
def walkStart (s : State) (d : DieId) (w : Who) (kind : AccKind) (va : Word) : Option (Nat × Nat) :=
  match pickCached s d w.asid kind w.priv va with
  | some h => h.start
  | none => if w.root.toNat * 0x20000 + 0x20000 ≤ lpddrEnd then some (0, w.root.toNat * 0x20000) else none
/-- The state after the translation of an address by the walkers of die `d`: the walk, where one is made, has made its reads. -/
def walkedAt (s : State) (d : DieId) (w : Who) (kind : AccKind) (va : Word) : State :=
  if 2 ^ 56 ≤ va.toNat then s else
  match walkStart s d w kind va with
  | some (lvl, table) => walkReads va 4 s lvl table
  | none => s

/-! ### Windows (R38–R42) -/

/-- VA[63:56]. -/
def region (va : Word) : Nat := (va.extractLsb' 56 8).toNat

/-- The identity `w` is admitted to the window of core `o` (R42). -/
def admitted (s : State) (w : Who) (o : CoreId) : Bool :=
  let k := coreAt s o
  let samePart := (partOfDie s (coreDie o)).base == (partOfDie s (coreDie w.core)).base
  let m := k.peermask
  w.priv || (samePart && (k.lcore == w.lc ||
    (m.getLsbD 0 && (match k.team with | some b => b.lid == w.lid && b.team == w.team | none => false)) ||
    (m.getLsbD 1 && k.lcore.toNat / 8 == w.lc.toNat / 8) ||
    (m.getLsbD 2 && k.lcore.toNat / 256 == w.lc.toNat / 256) ||
    m.getLsbD 3 ||
    (m.getLsbD 4 && decide ((m.extractLsb' 8 10).toNat ≤ w.lc.toNat) && decide (w.lc.toNat ≤ (m.extractLsb' 20 10).toNat))))

/-- Checks 5 and 6 for `n` bytes at `off` of the window of logical core `lc`, and the hold at a frozen window (R41, R42, R337). -/
def windowPlace (s : State) (w : Who) (lc off n : Nat) (va : Word) : Placed :=
  match presenter s (coreDie w.core) lc with
  | none => .fault ⟨.unallocatedWindow, 0#8, false, false, va⟩
  | some o =>
    if !admitted s w o then .fault ⟨.windowPermission, 0#8, false, false, va⟩
    else if (coreAt s o).grant * 8192 < off + n then .fault ⟨.unallocatedWindow, 0#8, false, false, va⟩
    else if (coreAt s o).frozen then .held
    else .ok (.array o off)

/-- Checks 3 to 8 of Table 7.1 on `n` bytes at `va` that must be aligned to `align` (R149), translated by the walkers of die `d`
(R296). -/
def placeAt (s : State) (d : DieId) (w : Who) (kind : AccKind) (va : Word) (n align : Nat) : Placed :=
  let bad := accessFault kind va
  if va.toNat % align != 0 then .fault ⟨.misaligned, 0#8, false, false, va⟩ else
  match region va with
  | 0 =>
    if kind == .counted then .fault bad else
    (match translate s d w.asid w.root kind w.priv va with
     | .error t => .fault t
     | .ok p =>
       if kind == .merge && (match p with | .mem pa _ => !isLpddr pa | _ => false) then .fault bad else .ok p)
  | 1 =>
    let off := va.toNat % 0x80000
    let lc := va.toNat / 0x80000 % 1024
    if kind == .fetch || kind == .merge || va.extractLsb' 29 27 != 0#27 || shapeCores s (coreDie w.core) ≤ lc ||
      0x80000 < off + n then .fault bad
    else windowPlace s w lc off n va
  | 2 =>
    let off := va.toNat % 0x80000
    if kind == .fetch || kind == .merge || va.extractLsb' 19 37 != 0#37 || 0x80000 < off + n then .fault bad
    else windowPlace s w w.lc.toNat off n va
  | 3 =>
    let off := va.toNat % 0x10000000
    let ld := va.toNat / 0x10000000 % 4
    if kind != .load || va.extractLsb' 30 26 != 0#26 || (partOfDie s (coreDie w.core)).ndies ≤ ld || 0x10000000 < off + n
    then .fault bad
    else .ok (.weight (physDie s (coreDie w.core) ld) off)
  | _ => .fault bad

/-- The same with the walkers of the accessing core's own die. -/
def place (s : State) (w : Who) (kind : AccKind) (va : Word) (n align : Nat) : Placed :=
  placeAt s (coreDie w.core) w kind va n align
/-- The state after the translation of a core's own access. -/
def walked (s : State) (w : Who) (kind : AccKind) (va : Word) : State := walkedAt s (coreDie w.core) w kind va

/-- The translation that an access pins while it is not performed (R298). -/
def pinOf (s : State) (w : Who) (kind : AccKind) (va : Word) : Option TlbEntry :=
  if region va != 0 then none else
  (leafFor s (coreDie w.core) w.asid w.root kind w.priv va).map fun l =>
    let size := pageSize l.level l.entry
    ⟨w.asid, va.toNat % 2 ^ 56 / size * size, size, l.level, l.entry⟩
/-- The valid, well-formed entries a walk reads, each with its level: what a walk may cache (R295). -/
def walkTrail (s : State) (va : Word) : Nat → Nat → Nat → List Leaf
  | 0, _, _ => []
  | fuel + 1, lvl, table =>
    let e := readEntry s (table + 8 * vaIndex lvl va)
    if !peV e || malformed lvl e then []
    else if peT e then [⟨e, lvl⟩]
    else ⟨e, lvl⟩ :: walkTrail s va fuel (lvl + 1) (peNext e)
/-- A walk at any time, whose entries are cached as far as they are valid and well-formed (R295). -/
def cacheWalk (s : State) (d : DieId) (asid : BitVec 9) (root : BitVec 35) (va : Word) : State :=
  if lpddrEnd < root.toNat * 0x20000 + 0x20000 then s else
  let es := (walkTrail s va 4 0 (root.toNat * 0x20000)).map fun l =>
    let size := covers l.level l.entry
    (⟨asid, va.toNat % 2 ^ 56 / size * size, size, l.level, l.entry⟩ : TlbEntry)
  modDie (walkReads va 4 s 0 (root.toNat * 0x20000)) d fun k =>
    { k with tlb := es.foldl (fun m e => if m.contains e then m else e :: m) k.tlb }

end Sys2Proof.Machine
end

