-- ==== Sys2Proof/Machine/Code.lean ====
section
/-! DEFINITION. Reading code: fetch and the instruction path (R91, R275, R285), block headers (R110–R113) and the sequential
successor SEQ (R114). -/

namespace Sys2Proof.Machine

/-- A word of the instruction path at a physical address: what the core has fetched before, or the home; where the two differ,
the old or the new word (R275). -/
def pathWord (s : State) (c : CoreId) (pa : Nat) : Word32 :=
  let new := BitVec.ofNat 32 (homeNat s pa 4)
  match (coreAt s c).icache.find? (·.1 == pa) with
  | none => new
  | some (_, old) => if old == new then new else if Config.fetchOld s.free pa then old else new

/-- The physical address and the word a context fetches at an address, or its fetch fault. -/
def fetchAt (s : State) (c : CoreId) (j : CtxId) (va : Word) : Except TrapInfo (Nat × Word32) :=
  match place s (whoOf s c j) .fetch va 4 4 with
  | .ok (.mem pa _) => .ok (pa, pathWord s c pa)
  | .ok _ => .error (accessFault .fetch va)
  | .fault t => .error t
  | .held => .error (accessFault .fetch va)
/-- The word at an address, none where it cannot be fetched. -/
def peek (s : State) (c : CoreId) (j : CtxId) (va : Word) : Option Word32 :=
  match fetchAt s c j va with
  | .ok (_, w) => some w
  | .error _ => none
/-- Fetching a word reads it at its home, whose L2 slice it meets (R54), and keeps it in the instruction path. -/
def fillCode (s : State) (c : CoreId) (pa : Nat) (w : Word32) : State :=
  modCore (touchSlice s pa) c fun k => { k with icache := sIns k.icache pa w }
/-- A word of a poisoned line (R285). -/
def codePoisoned (s : State) (c : CoreId) (pa : Nat) : Bool :=
  (coreAt s c).fetchPoison.contains (pa / 64) || s.poison.contains (pa / 64)

/-! ### Headers (Table 5.2) -/

/-- LEN of a header word. -/
def hdrLen (w : Word32) : Nat := (w.extractLsb' 13 8).toNat
/-- RS of a header word. -/
def hdrRs (w : Word32) : Bool := w.getLsbD 7
/-- LEN of the block at `h`; a header that cannot be fetched has no body. -/
def lenAt (s : State) (c : CoreId) (j : CtxId) (h : Word) : Nat := ((peek s c j h).map hdrLen).getD 0
/-- The address is that of a block header (R113). R113 speaks only of a target word that is no header word; the model takes a target
whose header word cannot be fetched for none too: Branch Target at a transfer or SPAWN, a double trap at TVEC (DESIGN CHOICE,
log 91). -/
def isHeader (s : State) (c : CoreId) (j : CtxId) (h : Word) : Bool :=
  h.extractLsb' 0 3 == 0#3 && (match peek s c j h with | some w => fOp w == 0x7F#7 | none => false)
/-- The header that follows a block sequentially (R112). -/
def nextHeader (s : State) (c : CoreId) (j : CtxId) (h : Word) : Word :=
  h + 8#64 + BitVec.ofNat 64 (8 * ((lenAt s c j h + 1) / 2))
/-- One past the last body word of the block at `h`. -/
def bodyEnd (s : State) (c : CoreId) (j : CtxId) (h : Word) : Word := h + 8#64 + BitVec.ofNat 64 (4 * lenAt s c j h)
/-- What consuming the header at `h` raises, if anything (R111): judged before the first body word issues. -/
def headerFault (s : State) (c : CoreId) (j : CtxId) (h : Word) : Option TrapInfo :=
  let bad : TrapInfo := ⟨.blockFormat, 0#8, false, false, h⟩
  match fetchAt s c j h, fetchAt s c j (h + 4#64) with
  | .error t, _ => some t
  | .ok _, .error t => some t
  | .ok (_, w0), .ok (_, w1) =>
    if fOp w0 != 0x7F#7 || hdrLen w0 == 0 || w0.getLsbD 8 || w1.getLsbD 0 || h.extractLsb' 0 3 != 0#3 then some bad
    else if (peek s c j (h + 8#64)).isSome && (peek s c j (bodyEnd s c j h - 4#64)).isNone then some bad
    else none
/-- A header word that starts a region when it is consumed: RS = 1 in a well-formed header (R30, R111). -/
def startsRegion (s : State) (c : CoreId) (j : CtxId) (h : Word) : Bool :=
  (headerFault s c j h).isNone && (match peek s c j h with | some w => hdrRs w | none => false)
/-- The LIVE word of the header at `h`. -/
def liveAt (s : State) (c : CoreId) (j : CtxId) (h : Word) : Word32 := (peek s c j (h + 4#64)).getD 0#32
/-- The header whose body holds an address: the nearest below it (log 8), within the 255 words a body can have. A header word lies
in no body: it stands for itself, as the second word of a header does for its own (R110), and raises Block Format at its own address
when it reaches PC (R271). -/
def findHeader (s : State) (c : CoreId) (j : CtxId) (a : Word) : Word :=
  let base := a &&& ~~~7#64
  let holds (h : Word) : Bool := isHeader s c j h && decide (a.toNat < (bodyEnd s c j h).toNat) && decide (h.toNat + 8 ≤ a.toNat)
  match (List.range 128).find? fun k => holds (base - BitVec.ofNat 64 (8 * (k + 1))) with
  | some k => base - BitVec.ofNat 64 (8 * (k + 1))
  | none => if isHeader s c j base then base else base - 8#64

/-! ### SEQ (R114) -/

/-- LBLK.ACT. -/
def loopOn (lblk : Word) : Bool := lblk.getLsbD 0
/-- LBLK[63:3] × 8: the header of the loop body. -/
def loopHdr (lblk : Word) : Word := lblk &&& ~~~7#64
/-- LBLK with ACT cleared; HDR is kept (Table 6.8). -/
def loopOff (lblk : Word) : Word := lblk &&& ~~~1#64

/-- The sequential successor of a queue entry, with LC and LBLK as its evaluation leaves them. -/
def seqOf (s : State) (c : CoreId) (j : CtxId) (lc lblk : Word) (q : QSlot) : QSlot × Word × Word :=
  let long := match peek s c j q.addr with | some w => isLForm w | none => false
  let nxt := q.addr + (if long then 8#64 else 4#64)
  if nxt.toNat < (bodyEnd s c j q.hdr).toNat then (⟨nxt, q.hdr⟩, lc, lblk) else
  let nh := nextHeader s c j q.hdr
  if loopOn lblk && q.hdr == loopHdr lblk then
    if 1 < lc.toNat then (⟨q.hdr + 8#64, q.hdr⟩, lc - 1#64, lblk) else (⟨nh + 8#64, nh⟩, 0#64, loopOff lblk)
  else if loopOn lblk && nh == loopHdr lblk && lc == 0#64 then
    let nn := nextHeader s c j nh
    (⟨nn + 8#64, nn⟩, lc, loopOff lblk)
  else (⟨nh + 8#64, nh⟩, lc, lblk)

end Sys2Proof.Machine
end

