-- ==== Sys2Proof/Machine/Ops.lean ====
section
/-! DEFINITION. The named operations on a context: register writes with their latencies, the queue step of R115, regions,
taking a trap (R264) and returning from one (R271), double traps, stops and discards (R33). -/

namespace Sys2Proof.Machine

/-! ### Registers -/

/-- x[r]; x0 reads zero (R60). -/
def xreg (t : Ctx) (r : Reg) : Word := if r = 0#5 then 0#64 else t.x.get r.toFin
/-- x[r] := v; a write to x0 is discarded. -/
def putX (t : Ctx) (r : Reg) (v : Word) : Ctx := if r = 0#5 then t else { t with x := vPut t.x r.toFin v }
/-- v[r]. -/
def vreg (k : Core) (r : Reg) : VWord := k.v.get r.toFin
/-- v[r] := v. -/
def putV (k : Core) (r : Reg) (v : VWord) : Core := { k with v := vPut k.v r.toFin v }
/-- m[r]; m0 reads all ones (R174). -/
def mreg (k : Core) (r : MReg) : Word := if r = 0#3 then BitVec.allOnes 64 else k.m.get r.toFin
/-- m[r] := v; no instruction writes m0. -/
def putM (k : Core) (r : MReg) (v : Word) : Core := if r = 0#3 then k else { k with m := vPut k.m r.toFin v }

/-- The epoch that a store or fence of the context is entered under: that of its region, 0 in S mode, which is never discarded (R261;
log 21). -/
def sbEpoch (t : Ctx) : Nat := if stPriv t then 0 else t.epoch + 1

/-- A result of latency `lat` in register number `r` (0–31 x, 32–63 v, 64–71 m), over the value `old` (R119). A latency of 1
or an interlock leaves nothing outstanding, and the register's older result never overwrites it (R120). -/
def setDue (t : Ctx) (r : Nat) (old : VWord) (lat : Nat) : Ctx :=
  let rest := t.inflight.filter (·.reg != r)
  { t with inflight := if lat ≤ 1 then rest else ⟨r, old, t.cyc + lat⟩ :: rest }
/-- Writes x[d] of context j with a latency. -/
def writeX (s : State) (c : CoreId) (j : CtxId) (d : Reg) (lat : Nat) (v : Word) : State :=
  if d = 0#5 then s
  else modCtx s c j fun t => putX (setDue t d.toNat ((xreg t d).setWidth 512) lat) d v
/-- Writes an ordinary vector register of the core with a latency. -/
def writeV (s : State) (c : CoreId) (j : CtxId) (d : Reg) (lat : Nat) (v : VWord) : State :=
  let s := modCtx s c j fun t => setDue t (32 + d.toNat) (vreg (coreAt s c) d) lat
  modCore s c fun k => putV k d v
/-- Writes a mask register with a latency. -/
def writeM (s : State) (c : CoreId) (j : CtxId) (d : MReg) (lat : Nat) (v : Word) : State :=
  let s := modCtx s c j fun t => setDue t (64 + d.toNat) ((mreg (coreAt s c) d).setWidth 512) lat
  modCore s c fun k => putM k d v

/-- A result outstanding in register number `r` at this issue (R119). -/
def outstanding (t : Ctx) (r : Nat) : Option Inflight := t.inflight.find? fun e => e.reg == r && decide (t.cyc < e.due)
/-- The first register of a list that is read before its latency has passed. -/
def earlyRead (t : Ctx) (rs : List Nat) : Option Nat := rs.find? fun r => r != 0 && (outstanding t r).isSome
/-- What reading register `r` gives when its settled value is `v`: under SCHK = 0 an early read gives the old or the new
value (R120; log 7). -/
def seen (s : State) (t : Ctx) (r : Nat) (v : VWord) : VWord :=
  match outstanding t r with
  | none => v
  | some e => if Config.earlyReadOld s.free r then e.old else v
/-- x[r] as an instruction reads it. -/
def readX (s : State) (t : Ctx) (r : Reg) : Word :=
  if r = 0#5 then 0#64 else
  match outstanding t r.toNat with
  | none => xreg t r
  | some e => if Config.earlyReadOld s.free r.toNat then e.old.setWidth 64 else xreg t r
/-- v[r] as an instruction reads it. -/
def readV (s : State) (c : CoreId) (t : Ctx) (r : Reg) : VWord := seen s t (32 + r.toNat) (vreg (coreAt s c) r)
/-- m[r] as an instruction reads it. -/
def readM (s : State) (c : CoreId) (t : Ctx) (r : MReg) : Word :=
  if r = 0#3 then BitVec.allOnes 64 else
  match outstanding t (64 + r.toNat) with
  | none => mreg (coreAt s c) r
  | some e => if Config.earlyReadOld s.free (64 + r.toNat) then e.old.setWidth 64 else mreg (coreAt s c) r

/-! ### Loads that are performed later (R84, R85; log 4) -/

/-- Bytes as a result: sign- or zero-extended from their width (Table 7.2). -/
def extendBytes (signed : Bool) (bs : List Byte) : Word :=
  let n := bs.length
  let v := BitVec.ofNat 64 (leNat bs)
  if signed && decide (n < 8) then
    let sh := 64 - 8 * n
    (v <<< sh).sshiftRight sh
  else v
/-- Element `i` of width `w` of a vector register, replaced. -/
def putLane (v : VWord) (w i x : Nat) : VWord := putField v (w * i) (BitVec.ofNat w x)
/-- A load's bytes reach its register. -/
def putLoad (s : State) (c : CoreId) (j : CtxId) (d : LoadDest) (bs : List Byte) : State :=
  match d with
  | .x d signed => modCtx s c j fun t => putX t d (extendBytes signed bs)
  | .lane d w i => modCore s c fun k => putV k d (putLane (vreg k d) w i (leNat bs))
/-- A late load is performed (R85). Where a byte is poisoned by now, the load counts as performed at its issue, with the value its
register shows. -/
def performLoad (s : State) (c : CoreId) (j : CtxId) (l : LateLoad) : State :=
  let r := loadNow s c j l.place l.n
  if r.2.2 then r.1 else putLoad r.1 c j l.dest r.2.1
/-- Every late load of a context is performed, oldest first. -/
def performAll (s : State) (c : CoreId) (j : CtxId) : State :=
  let l := (ctxAt s c j).late
  l.foldl (fun s e => performLoad s c j e) (modCtx s c j fun t => { t with late := [] })
/-- The contexts with a late load that `p` names. -/
def lateUnits (s : State) (p : LateLoad → Bool) : List (CoreId × CtxId) :=
  allCores.flatMap fun c => (allCtxs.filter fun j => (ctxAt s c j).late.any p).map fun j => (c, j)
/-- The late loads of every context that has one which `p` names are performed. -/
def performWhere (s : State) (p : LateLoad → Bool) : State :=
  (lateUnits s p).foldl (fun s x => performAll s x.1 x.2) s
/-- Every late load of the package is performed. -/
def performLoads (s : State) : State := performWhere s fun _ => true
/-- Every access that has been accepted is performed: late loads, and the writes in the engines' store buffers. -/
def settleAccesses (s : State) : State := flushHarts (performLoads s)
/-- An older late load that shares a byte is performed before an access (R85). -/
def performOverlaps (s : State) (c : CoreId) (j : CtxId) (p : Place) (n : Nat) : State :=
  if (ctxAt s c j).late.any fun l => overlap p n l.place l.n then performAll s c j else s
/-- A plain load issues: it is performed in this step, or later, as is free (log 4). The answer has its bytes, and whether one is
poisoned. -/
def issueLoad (s : State) (c : CoreId) (j : CtxId) (p : Place) (n : Nat) (dest : LoadDest) : State × List Byte × Bool :=
  let s := performOverlaps s c j p n
  if Config.loadLater s.free && !peekPoisoned s c p n then
    let s := beforeRead s c j
    let sb := (ctxAt s c j).sbuf
    (modCtx s c j fun t => { t with late := t.late ++ [⟨p, n, dest⟩] },
      (List.range n).map fun i => peekByte s c sb (placeAdd p i), false)
  else loadPlain s c j p n
/-- An ordering that releases: no access of it is performed before the older ones (R83). -/
def releases : MemOrder → Bool
  | .plain => false
  | .acq => false
  | .rel => true
  | .ar => true
/-- An instruction that a late load may wait behind: scalar arithmetic, branches, loads, stores but those of .ar, prefetches, atomics
that do not release, fences but those with R alone before them, vector arithmetic, moves and accesses. Before any other instruction
issues, the context's late loads are performed. -/
def letsWait (w : Word32) : Bool :=
  let op := (fOp w).toNat
  (decide (1 ≤ op) && decide (op ≤ 0x12)) || (decide (0x18 ≤ op) && decide (op ≤ 0x1A)) || (op == 0x1B && !(fFn7 w).getLsbD 6) ||
    op == 0x1C || op == 0x1D || ((op == 0x20 || op == 0x21) && !releases (orderOf ((fFn7 w).extractLsb' 5 2))) ||
    (op == 0x22 && !releases (orderOf ((fFn7 w).extractLsb' 1 2))) || (op == 0x25 && (fFn7 w).getLsbD 1) ||
    (decide (0x28 ≤ op) && decide (op ≤ 0x2B)) || (decide (0x30 ≤ op) && decide (op ≤ 0x3D)) || w.extractLsb' 0 29 == 0#29
/-- An entry of a store buffer that the older loads of its context must come before: a release, or a fence with R in its predecessor
set (R86, R90). -/
def needsLoads : SbItem → Bool
  | .store _ _ rel _ _ _ _ => rel
  | .fence pred _ _ _ => pred.getLsbD 0
/-- The entries that the access of an instruction may make drain before it: all of them at an acquire load or an atomic, at any other
read the fences that order reads. -/
def drainedBy (w : Word32) (it : SbItem) : Bool :=
  let op := (fOp w).toNat
  if op == 0x1A || op == 0x20 || op == 0x21 || op == 0x22 then true
  else (op == 0x18 || decide (0x30 ≤ op)) && fencesRead it
/-- The access of an instruction makes an entry drain that the late loads of its context come before. -/
def drainsLoads (s : State) (c : CoreId) (j : CtxId) (w : Word32) : Bool :=
  let sb := (ctxAt s c j).sbuf
  (sb.zip (needed (drainedBy w) sb.reverse [] false).reverse).any fun e => e.2 && needsLoads e.1
/-- A register number that some field of a word could name. -/
def wordNames (w : Word32) (r : Reg) : Bool :=
  r == w.extractLsb' 24 5 || r == w.extractLsb' 20 5 || r == w.extractLsb' 19 5 || r == w.extractLsb' 14 5 || r == w.extractLsb' 9 5 ||
    r == w.extractLsb' 24 5 + 1#5 || r == w.extractLsb' 14 5 + 1#5
/-- The register of a late load. -/
def lateReg (l : LateLoad) : Reg :=
  match l.dest with
  | .x d _ => d
  | .lane d _ _ => d
/-- A vector instruction of a core with a bound stream, whose pops and pushes can release a ring slot (R189). -/
def streamsAbout (k : Core) (w : Word32) : Bool :=
  decide (0x30 ≤ (fOp w).toNat) && k.streams.toList.any fun b => b.kind != .unbound
/-- Before an instruction issues, the late loads of its context that it could depend on have been performed (R84): the interlock of
a load's register, and all of them before any instruction that does not let them wait or makes a fence or release drain that they come
before. -/
def interlock (s : State) (c : CoreId) (j : CtxId) (w : Word32) : State :=
  if !letsWait w || drainsLoads s c j w || streamsAbout (coreAt s c) w || (ctxAt s c j).late.any fun l => wordNames w (lateReg l)
  then performAll s c j else s

/-! ### Trap causes (Table 15.3) -/

/-- CAUSE numbers. -/
def causeCode : Cause → BitVec 5
  | .illegal => 1#5 | .blockFormat => 2#5 | .branchTarget => 3#5 | .stallUnderrun => 4#5 | .misaligned => 5#5
  | .loadPageFault => 6#5 | .storePageFault => 7#5 | .access => 8#5 | .windowPermission => 9#5
  | .unallocatedWindow => 10#5 | .contextClass => 11#5 | .leaseState => 12#5 | .ringMisuse => 13#5 | .powerStop => 14#5
  | .breakpoint => 15#5 | .trap => 16#5 | .interrupt => 17#5
/-- ECAUSE (Table 15.2). -/
def ecauseOf (t : TrapInfo) (j : CtxId) : Word :=
  ((BitVec.ofBool t.poison ++ BitVec.ofBool t.fetch ++ BitVec.ofNat 4 j.val ++ t.sub ++ 0#3 ++ causeCode t.cause :
    BitVec 22)).setWidth 64
/-- A fault whose EVAL is the instruction's word. -/
def wordTrap (cause : Cause) (w : Word32) : TrapInfo := ⟨cause, 0#8, false, false, w.setWidth 64⟩
/-- A fault with an address or number in EVAL. -/
def valTrap (cause : Cause) (v : Word) : TrapInfo := ⟨cause, 0#8, false, false, v⟩

/-! ### The end of a launch -/

/-- Ends a launch with a status: every bound team of it stops where it stands (R310, R267). -/
def endLaunch (s : State) (lid : Word32) (st : Nat) : State :=
  let s := modHub s fun h => { h with launches := h.launches.map fun l =>
    if l.lid == lid && l.status == 0 && l.ending == 0 then { l with ending := st } else l }
  { s with cores := s.cores.map fun k =>
      if (k.team.map (·.lid)) == some lid then
        { k with ctxs := k.ctxs.map fun t => if t.run = .off then t else { t with run := .dead } }
      else k }
/-- A record waits at a die to be posted (R276). -/
def postFault (s : State) (d : DieId) (r : FaultRec) : State := modDie s d fun k => { k with faults := k.faults ++ [r] }
/-- The context stops issuing, a record of kind 7 with a SEQ is posted and the launch ends with SUPERVISOR (R267, R286). -/
def failCtx (s : State) (c : CoreId) (j : CtxId) (seq : Word32) : State :=
  let s := postFault s (coreDie c)
    { va := 0#64, kind := 7#3, cause := 5#4, asid := (ctxAt s c j).asid, lc := (coreAt s c).lcore,
      seq := seq, unit := Config.unitOfKind7 s.free, ref := 0 }
  let s := match (coreAt s c).team with
    | some b => endLaunch s b.lid 5
    | none => s
  modCtx s c j fun t => { t with run := .dead }
/-- A double trap (R267): SEQ is the ECAUSE of the trap that could not be taken. -/
def doubleTrap (s : State) (c : CoreId) (j : CtxId) (t : TrapInfo) : State := failCtx s c j ((ecauseOf t j).setWidth 32)

/-! ### Taking a trap and returning (R264, R271) -/

/-- TVEC.HDR × 8. -/
def tvecHdr (t : Ctx) : Word := t.tvec &&& ~~~7#64
/-- What a trap saves and sets in its context before the handler is entered (R264). -/
def saveForTrap (i : TrapInfo) (j : CtxId) (t : Ctx) : Ctx :=
  { t with
    inflight := [], wait := .none, trapDue := none, rsDue := false, stopHere := false, bpPass := false
    epc := t.pc.addr, enpc := t.npc.addr, ennpc := t.nnpc.addr, enul := t.nul
    savedQ := #v[t.pc, t.npc, t.nnpc]
    elc := t.lc, elblk := t.lblk, erst := t.rstart, lblk := loopOff t.lblk
    ecause := ecauseOf i j, eval := i.eval
    status := statusOf (stSchk t) (stDet t) true (stPriv t) false (stIe t) (stNd t) (stNd t) }
/-- The queue at the start of a handler. -/
def enterAt (pc npc nnpc : QSlot) (t : Ctx) : Ctx := { t with pc := pc, npc := npc, nnpc := nnpc, nul := 0#2 }
/-- Takes a trap at the boundary before the instruction at PC (R264, R118): every outstanding result counts as written, the
queue, loop state and region start are saved, S mode begins and the handler's block enters the queue. -/
def takeTrap (s : State) (c : CoreId) (j : CtxId) (i : TrapInfo) : State :=
  let s := modCtx (performAll s c j) c j (saveForTrap i j)
  let h := tvecHdr (ctxAt s c j)
  if !isHeader s c j h then doubleTrap s c j i else
  let pc : QSlot := ⟨h + 8#64, h⟩
  let lc := (ctxAt s c j).lc
  let lblk := (ctxAt s c j).lblk
  let npc := (seqOf s c j lc lblk pc).1
  let nnpc := (seqOf s c j lc lblk npc).1
  modCtx s c j (enterAt pc npc nnpc)
/-- The entry an address had in the queue saved at the last trap, else the block found below it (log 8). -/
def restoredSlot (s : State) (c : CoreId) (j : CtxId) (a : Word) (q : QSlot) : QSlot :=
  if q.addr == a then q else ⟨a, findHeader s c j a⟩
/-- The context that ERET restores; one that has taken Power Stop stops (R271, R326). -/
def restoreCtx (pc npc nnpc : QSlot) (t : Ctx) : Ctx :=
  { t with
    inflight := [], wait := .none, rsDue := false, stopHere := false, bpPass := false
    pc := pc, npc := npc, nnpc := nnpc, nul := t.enul
    lc := t.elc, lblk := t.elblk, rstart := t.erst
    status := statusOf (stSchk t) (stDet t) (stPpriv t) (stPpriv t) (stPie t) (stPie t) (stPnd t) (stPnd t)
    run := if t.powerDone then .dead else t.run }
/-- Returns from a trap (R271): no SEQ is evaluated and no target is checked. An ERET whose EPC is the first body word of an RS block
begins no region (DESIGN CHOICE, log 92). -/
def returnTrap (s : State) (c : CoreId) (j : CtxId) : State :=
  let t := ctxAt s c j
  let pc := restoredSlot s c j t.epc (t.savedQ.get 0)
  let npc := restoredSlot s c j t.enpc (t.savedQ.get 1)
  let nnpc := restoredSlot s c j t.ennpc (t.savedQ.get 2)
  modCtx s c j (restoreCtx pc npc nnpc)

/-! ### Stops and discards (R33, R190) -/

/-- A binding of now is the one of RSTART, of a ring (R190). -/
def standingRing (o n : Stream) : Bool := o.kind == .ring && n.kind == .ring && n.ring == o.ring && n.made == o.made
/-- Stream bindings after a discard (R190): as at RSTART, a ring slot that a standing binding holds staying held at its end of the
ring. -/
def rewoundStreams (old now : Vector Stream 4) : Vector Stream 4 :=
  Vector.ofFn fun i =>
    let o := old.get i
    let n := now.get i
    let keep := standingRing o n && n.holds
    { o with holds := keep, out := if keep then n.out else o.out }
/-- Rings follow the bindings: STRM, and HELD where a stream or a context holds the slot. -/
def ringsFollow (k : Core) (st : Vector Stream 4) : Vector Ring 8 :=
  Vector.ofFn fun i =>
    let r := k.rings.get i
    let mine (b : Stream) : Bool := b.kind == .ring && b.ring.toNat == i.val
    { r with strm := st.toList.any mine,
             held := st.toList.any (fun b => mine b && b.holds) ||
               k.ctxs.toList.any fun t => t.ringsHeld.any (·.1 == i.val) }
/-- Discards a context's in-flight work and returns it to RSTART (Table 1.7); arrivals and PHASE advances become credits. A load that
is not yet performed may be performed up to then. The buffered stores of S mode stay (R261). -/
def discard (s : State) (c : CoreId) (j : CtxId) : State :=
  let s := modCtx (performAll s c j) c j fun t =>
    { t with
      pc := ⟨t.rstart, t.rstart - 8#64⟩, npc := t.region.npc, nnpc := t.region.nnpc, nul := t.region.nul
      lc := t.region.lc, lblk := t.region.lblk, srctr := t.region.srctr
      x := Vector.ofFn fun i => if t.region.live.getLsbD i.val then t.x.get i else 0#64
      sbuf := t.sbuf.filter fun it => match it with
        | .store _ _ _ _ _ e _ => e != t.epoch + 1
        | .fence _ _ _ e => e != t.epoch + 1
      inflight := [], wait := .none, trapDue := none, rsDue := false, stopHere := false
      credit := Vector.ofFn fun i => t.credit.get i + t.arrived.get i
      arrived := Vector.replicate 8 0
      phaseCredit := t.phaseCredit + t.phased, phased := 0 }
  if j.val = 0 then
    modCore s c fun k =>
      let st := rewoundStreams (coreCtx k j).region.streams k.streams
      let k := { k with streams := st }
      { k with rings := ringsFollow k st }
  else s
/-- A lease that ctx0 holds, or waits for, is given up at its stop (R192); a join is withdrawn (R199). -/
def giveUpLease (s : State) (c : CoreId) : State :=
  let g := clusterOf s c
  let e := engineAt s g
  let s := if e.holder == some c then
      modCore s c fun k => { k with leaseSaved := some (e.count, e.used) }
    else s
  modEngine s g fun e =>
    { e with holder := if e.holder == some c then none else e.holder,
             joining := if e.holder == some c then false else e.joining,
             waiting := setDel e.waiting c.val }
/-- The lease of core `c` ends (R192). -/
def dropLease (c : CoreId) (e : Engine) : Engine :=
  if e.holder == some c then { e with holder := none, count := 0, used := 0, joining := false } else e
/-- ctx0 leaves a waiting MLEASE or MGANG for a trap: it waits no more until the instruction issues again (R266). A ctx0 that waits
for a lease saved at its stop goes on waiting (R281). -/
def withdraw (s : State) (c : CoreId) : State :=
  if (coreAt s c).leaseSaved.isSome then s else
  modEngine s (clusterOf s c) fun e =>
    { e with waiting := setDel e.waiting c.val, joining := if e.holder == some c then false else e.joining }
/-- Every context of a core has stopped or is not live. -/
def allStopped (k : Core) : Bool := k.ctxs.toList.all fun t => t.run != .on
/-- The window of a core freezes (R337): loads of it that have issued are performed; what is accepted from now on is held. -/
def freeze (s : State) (c : CoreId) : State :=
  let mine (l : LateLoad) : Bool := match l.place with
    | .array o _ => o == c
    | _ => false
  modCore (performWhere s mine) c fun k => { k with frozen := true }
/-- A context stops with a kind; the window of a migrating core freezes at its last stop (R33, R337). -/
def stopAs (s : State) (c : CoreId) (j : CtxId) (r : RunState) : State :=
  let s := modCtx (performAll s c j) c j fun t => { t with run := r, wait := .none }
  let s := if j.val = 0 then giveUpLease s c else s
  match (coreAt s c).stopReq with
  | .migrate _ => if allStopped (coreAt s c) then freeze s c else s
  | _ => s
/-- A context is within an instruction that has issued and is not complete: an MZERO (R170), or a WFI (R272). Neither is a waiting
instruction of R33 or R266: no stop, trap or debug match finds the context before it is complete. -/
def midway (t : Ctx) : Bool :=
  match t.wait with
  | .none => false
  | .sleep _ _ => false
  | .qwait _ _ => false
  | .merge _ _ _ => false
  | .zero _ _ => true
  | .wfi => true
/-- A stop is due for a context: one is pending and the context is in U mode and at a boundary (R33, R278). It waits while the core is
halted (R358), and none is made once the supply has failed (R332). -/
def stopDue (s : State) (c : CoreId) (j : CtxId) : Bool :=
  (coreAt s c).stopReq != .none && !stPriv (ctxAt s c j) && (ctxAt s c j).run == .on && !midway (ctxAt s c j) &&
    !(coreAt s c).dbg.halt && !s.hub.stopped
/-- A discardable context stops at once, discarded; one whose region has just ended a non-discardable stretch stops at that
header with nothing to discard (R33), and so does one whose header counts as consumed only at this boundary (log 87). A Trap that a TRAP
has made due at that header stays due in the stopped context: it survives a migration, which keeps the context, and is lost by a save,
whose image has no place for it (DESIGN CHOICE, log 93). -/
def stopDiscardable (s : State) (c : CoreId) (j : CtxId) : State :=
  if (ctxAt s c j).stopHere || (ctxAt s c j).rsDue then stopAs s c j .atHeader else stopAs (discard s c j) c j .discarded

/-- Raises a trap in a context: a stop due for a discardable context goes first (R33); in S mode every trap but an Interrupt
and a held Power Stop is a double trap (R267). -/
def raiseTrap (s : State) (c : CoreId) (j : CtxId) (i : TrapInfo) : State :=
  if stopDue s c j && !stNd (ctxAt s c j) then stopDiscardable s c j
  else if stPriv (ctxAt s c j) && i.cause != .interrupt then doubleTrap s c j i
  else takeTrap s c j i

/-- A wake event of a core reaches its sleeping contexts (R161). -/
def wakeSleepers (k : Core) : Core :=
  { k with ctxs := k.ctxs.map fun t => match t.wait with
      | .sleep dl _ => { t with wait := .sleep dl true }
      | _ => t }

/-- The meter of a team says that it is paused until the next interval (R326). -/
def teamPaused (s : State) (lid : Word32) (team : Nat) : Bool :=
  s.hub.meters.any fun m => m.lid == lid && m.team == team && m.paused
/-- Engine work charged to a team pauses at beat boundaries: for carats (R326), a checkpoint (R353) or a failed supply (R332). -/
def enginePaused (s : State) (w : Who) : Bool :=
  teamPaused s w.lid w.team || s.hub.ckptGo || s.hub.stopped || !(dieAt s (coreDie w.core)).powered

/-! ### Trace (R359) -/

/-- Writes bytes into a die's trace ring, if it has room and lies in LPDDR (R362), or counts the drop. -/
def traceWrite (s : State) (d : DieId) (bs : List Byte) : State :=
  let k := dieAt s d
  let size := 2 ^ k.trsz.toNat
  if size < (k.trhead - k.trtail).toNat + bs.length || lpddrEnd < k.trbase.toNat + size then
    modDie s d fun k => { k with trdrop := if k.trdrop = BitVec.allOnes 32 then k.trdrop else k.trdrop + 1 }
  else
    let base := k.trbase.toNat / 0x1000 * 0x1000
    let s := (List.range bs.length).foldl (fun s i =>
      homeWrite s (base + (k.trhead.toNat + i) % size) [bs.getD i 0#8]) s
    modDie s d fun k => { k with trhead := k.trhead + BitVec.ofNat 32 bs.length }
def noteCycle (k : Core) : Core := { k with traceCyc := k.cycles }
def notePc (pc : Word) (t : Ctx) : Ctx := { t with lastPc := some pc }
/-- The record of an issued instruction of a traced core; `port` is its kind. -/
def traceIssue (s : State) (c : CoreId) (j : CtxId) (port : Nat) : State :=
  let d := coreDie c
  let i := c.val % 256
  if !((dieAt s d).tren && ((dieAt s d).trsel.get (Fin.ofNat 4 (i / 64))).getLsbD (i % 64)) then s else
  let k := coreAt s c
  let t := ctxAt s c j
  let cyc := k.cycles - k.traceCyc
  let pc := t.pc.addr
  let delta := (pc - t.lastPc.getD 0#64).sshiftRight 2
  let fits := t.lastPc.isSome && delta == ((delta.setWidth 13).signExtend 64) && decide (cyc < 4096)
  let rec32 (p : Nat) (hi : BitVec 25) : List Byte := bytesOf 4 (hi ++ BitVec.ofNat 4 j.val ++ BitVec.ofNat 3 p)
  let s := if fits then traceWrite s d (rec32 port (BitVec.ofNat 12 cyc ++ delta.setWidth 13))
    else traceWrite s d (rec32 7 (BitVec.ofNat 25 port) ++ bytesOf 8 pc ++ leBytes 8 k.cycles)
  modCtx (modCore s c noteCycle) c j (notePc pc)

/-! ### The queue step (R115) -/

/-- The context at the start of a region: RSTART and its record, credits dropped, discardable from here (R30). A stop that is `due` by
then finds that the header has ended a non-discardable stretch; where the header counts as consumed only `later`, at the boundary
before its first body word, so does one that is requested up to then (log 87). -/
def regionStart (live : Word32) (st : Vector Stream 4) (due later : Bool) (t : Ctx) : Ctx :=
  { setNd t false with
    rstart := t.pc.addr
    region := ⟨t.npc, t.nnpc, t.nul, t.lc, t.lblk, t.srctr, live, st⟩
    credit := Vector.replicate 8 0, phaseCredit := 0, arrived := Vector.replicate 8 0, phased := 0
    ringsHeld := t.ringsHeld.map fun e => (e.1, false)
    epoch := t.epoch + 1
    rsDue := stNd t && later, stopHere := due && stNd t }
/-- Starts a region at PC. -/
def beginRegion (s : State) (c : CoreId) (j : CtxId) : State :=
  modCtx s c j (regionStart (liveAt s c j (ctxAt s c j).pc.hdr) (coreAt s c).streams ((coreAt s c).stopReq != .none)
    (Config.headerLater s.free))
/-- The first body word of an RS header has reached PC in U mode (R30, R261). -/
def headerReached (s : State) (c : CoreId) (j : CtxId) : Bool :=
  let t := ctxAt s c j
  !stPriv t && t.pc.addr == t.pc.hdr + 8#64 && startsRegion s c j t.pc.hdr
/-- The region start of an RS header, in the step in which its first body word reaches PC. -/
def consumeHeader (s : State) (c : CoreId) (j : CtxId) : State := if headerReached s c j then beginRegion s c j else s
/-- The word at PC issues: a stop that comes from here on finds the region under way. -/
def issued (t : Ctx) : Ctx := { t with rsDue := false, stopHere := false }
/-- What the step of R115 leaves in the context: the queue moved up with `r` behind it, the pending nullifications, the cycles
of the issue, results that have fallen due. -/
def queueStep (r : QSlot × Word × Word) (nul : BitVec 2) (stl : Stl) (t : Ctx) : Ctx :=
  { t with
    pc := t.npc, npc := t.nnpc, nnpc := r.1, lc := r.2.1, lblk := r.2.2, nul := nul, cyc := t.cyc + 1 + stl.toNat
    inflight := t.inflight.filter fun e => decide (t.cyc + 1 + stl.toNat < e.due)
    wait := .none, rsDue := false, stopHere := false, bpPass := false }
/-- The entry that follows the queue, with the loop state it leaves: the target of a transfer, which disarms the loop whose body
it leaves, or SEQ(NNPC) (R114, R115). -/
def nextEntry (s : State) (c : CoreId) (j : CtxId) (taken : Option Word) : QSlot × Word × Word :=
  let t := ctxAt s c j
  match taken with
  | some h => if loopOn t.lblk && t.pc.hdr == loopHdr t.lblk then (⟨h + 8#64, h⟩, 0#64, loopOff t.lblk) else (⟨h + 8#64, h⟩, t.lc, t.lblk)
  | none => seqOf s c j t.lc t.lblk t.nnpc
/-- Core cycles of one issue (R359; log 6). -/
def countCycles (n : Nat) (k : Core) : Core := { k with cycles := k.cycles + n }
/-- Advances the queue by one issued or annulled instruction: `taken` is the target header of a transfer, `skip` a .N branch
not taken (R115). `post` is a write to LC or LBLK, which only later SEQ evaluations see (R147). -/
def advance (s : State) (c : CoreId) (j : CtxId) (stl : Stl) (taken : Option Word) (skip : Bool) (post : Ctx → Ctx) :
    State :=
  let t := ctxAt s c j
  let r := nextEntry s c j taken
  let nul := if skip then 3#2 else t.nul >>> 1
  let s := modCtx s c j fun t => post (queueStep r nul stl t)
  let s := modCore s c (countCycles (1 + Config.stallCycles s.free))
  consumeHeader s c j

/-! ### How an instruction ends -/

/-- How the execution of the word at PC ends. -/
inductive Act
  /-- It has its effect; the queue advances. -/
  | done (s : State)
  /-- It has its effect, and writes LC or LBLK after the step's own SEQ evaluation (R147). -/
  | after (s : State) (post : Ctx → Ctx)
  /-- It has its effect and transfers to a header. -/
  | jump (s : State) (h : Word)
  /-- A .N branch that is not taken. -/
  | skip (s : State)
  /-- It raises a fault and has no effect. -/
  | fault (t : TrapInfo)
  /-- A fault after stores that stay performed (R186). -/
  | faultIn (s : State) (t : TrapInfo)
  /-- It waits: it has no effect but its bookkeeping; `stop` if R33 and its kin let a stop find it. -/
  | wait (s : State) (stop : Bool)
  /-- The debugger halts the core before it. -/
  | halt
  /-- It has replaced the queue itself (ERET, an ended context). -/
  | leave (s : State)

/-- A match halts a core that a debugger has attached (R357, R358): the context passes the match when the core resumes. -/
def haltCore (s : State) (c : CoreId) (j : CtxId) : State :=
  modCtx (modCore s c fun k => { k with dbg := { k.dbg with halt := true, step := false } }) c j fun t =>
    { t with bpPass := true }

/-- The state in which an instruction of the issuing context ends: `port` is its trace kind. -/
def endState (s : State) (stl : Stl) (port : Nat) (a : Act) : State :=
  let c := s.cur.1
  let j := s.cur.2
  match a with
  | .done s' => advance (traceIssue s' c j port) c j stl none false id
  | .after s' post => advance (traceIssue s' c j port) c j stl none false post
  | .jump s' h => advance (traceIssue s' c j port) c j stl (some h) false id
  | .skip s' => advance (traceIssue s' c j port) c j stl none true id
  | .fault t => raiseTrap s c j t
  | .faultIn s' t => raiseTrap s' c j t
  | .wait s' stop => if stop && stopDue s' c j && stNd (ctxAt s' c j) then stopAs s' c j .atWait else s'
  | .halt => haltCore s c j
  | .leave s' => s'
/-- Ends an instruction of the issuing context: it answers a next state however it ends. -/
def finish (s : State) (stl : Stl) (port : Nat) (a : Act) : Out := .next (endState s stl port a)

/-- An instruction that reads the registers numbered `rs`: a register read early under SCHK = 1 is a Stall Underrun (R120);
otherwise `body` acts with the issuing core and context. -/
def instr (s : State) (stl : Stl) (port : Nat) (rs : List Nat) (body : CoreId → CtxId → Act) : Out :=
  let t := ctxAt s s.cur.1 s.cur.2
  finish s stl port <|
    match earlyRead t rs, stSchk t with
    | some r, true => .fault (valTrap .stallUnderrun (BitVec.ofNat 64 r))
    | _, _ => body s.cur.1 s.cur.2

/-- Register numbers for the scoreboard. -/
abbrev nx (r : Reg) : Nat := r.toNat
abbrev nv (r : Reg) : Nat := 32 + r.toNat
abbrev nm (r : MReg) : Nat := 64 + r.toNat

end Sys2Proof.Machine
end

