-- ==== Sys2Proof/Machine/Operands.lean ====
section
/-! DEFINITION. Operand forms: effective addresses, watchpoints, the checks of an access and its performance by a context;
register and flag results of scalar instructions; the checks of the issuing context. -/

namespace Sys2Proof.Machine

/-! ### Register results -/

/-- An integer operation on x[a] and x[b] with a result of latency `lat` (R127, R128). -/
def alu2 (s : State) (stl : Stl) (lat : Nat) (d a b : Reg) (f : Word → Word → Word) : Out :=
  instr s stl 0 [nx a, nx b] fun c j =>
    let t := ctxAt s c j
    .done (writeX s c j d lat (f (readX s t a) (readX s t b)))
/-- An integer operation on x[a]. -/
def alu1 (s : State) (stl : Stl) (d a : Reg) (f : Word → Word) : Out :=
  instr s stl 0 [nx a] fun c j => .done (writeX s c j d 1 (f (readX s (ctxAt s c j) a)))
/-- A .w operation: 32-bit operands, a sign-extended result. -/
def aluW (s : State) (stl : Stl) (lat : Nat) (d a b : Reg) (f : Word32 → Word32 → Word32) : Out :=
  alu2 s stl lat d a b fun x y => sext64 (f (lo32 x) (lo32 y))

/-- Flags are sticky: an instruction only sets them (R68). -/
def raiseFlags (s : State) (c : CoreId) (j : CtxId) (f : FFlags) : State :=
  modCtx s c j fun t => { t with fflags := t.fflags ||| f }
/-- An FP32 result in x[d], bits [63:32] zero (R60), with its flags. -/
def fpDone (s : State) (c : CoreId) (j : CtxId) (d : Reg) (lat : Nat) (r : FRes) : Act :=
  .done (writeX (raiseFlags s c j r.flags) c j d lat (BitVec.ofNat 64 r.bits))
/-- An FP operation on two registers (Table 6.3). -/
def fp2 (s : State) (stl : Stl) (d a b : Reg) (f : Word32 → Word32 → FRes) : Out :=
  instr s stl 0 [nx a, nx b] fun c j =>
    let t := ctxAt s c j
    fpDone s c j d 4 (f (lo32 (readX s t a)) (lo32 (readX s t b)))
/-- An FP operation on one register. -/
def fp1 (s : State) (stl : Stl) (lat : Nat) (d a : Reg) (f : Word → FRes) : Out :=
  instr s stl 0 [nx a] fun c j => fpDone s c j d lat (f (readX s (ctxAt s c j) a))

/-- The draw of a conversion at one element position, and the counter after `n` positions (R66). -/
def drawAt (t : Ctx) (i : Nat) : Nat := draw t.srkey (t.srctr + BitVec.ofNat 32 i)
/-- SRCTR advances by `n` in an SR conversion. -/
def srAdvance (s : State) (c : CoreId) (j : CtxId) (rm : RMode) (n : Nat) : State :=
  if rm = .sr then modCtx s c j fun t => { t with srctr := t.srctr + BitVec.ofNat 32 n } else s
/-- A scalar conversion (R137): `f` takes the draw and x[a]; an FP8 overflow sets CVTOVF. -/
def fcvt (s : State) (stl : Stl) (rm : RMode) (d a : Reg) (f : Nat → Word → FRes) (fp8 : Bool) : Out :=
  instr s stl 0 [nx a] fun c j =>
    let t := ctxAt s c j
    let r := f (drawAt t 0) (readX s t a)
    let s := srAdvance s c j rm 1
    let s := if fp8 && r.ovf then modCtx s c j fun t => { t with cvtovf := true } else s
    fpDone s c j d 4 r

/-! ### The issuing context -/

/-- An instruction that a charm may not execute (R20): Context Class with the word. -/
def ctx0Only (j : CtxId) (w : Word32) (a : Act) : Act := if j.val = 0 then a else .fault (wordTrap .contextClass w)
/-- The instruction ends the region's discardability (R32). -/
def undiscard (s : State) (c : CoreId) (j : CtxId) : State := modCtx s c j endDiscard

/-! ### Watchpoints (R357) -/

/-- First address a watchpoint covers (Table 21.5). -/
def watchBase (k : Core) (i : Fin 4) : Nat :=
  let w := k.dbg.wp.get i
  let hi := w.toNat / 512 * 512
  if (w.extractLsb' 3 6).toNat < 9 then hi + ((k.dbg.wpa.get i).extractLsb' 0 9).toNat else hi
/-- Whether a watchpoint matches `n` bytes at an address. -/
def watchMatch (k : Core) (rd wr : Bool) (ea : Word) (n : Nat) (i : Fin 4) : Bool :=
  let w := k.dbg.wp.get i
  w.getLsbD 0 && ((rd && w.getLsbD 1) || (wr && w.getLsbD 2)) &&
    meet (watchBase k i) (2 ^ (w.extractLsb' 3 6).toNat) ea.toNat n
/-- What a debug match does: Breakpoint with ATTACH = 0, a halt with ATTACH = 1 (R357). -/
def debugMatch (k : Core) (sub : Nat) (v : Word) : Act :=
  if k.dbg.attach then .halt else .fault ⟨.breakpoint, BitVec.ofNat 8 sub, false, false, v⟩
/-- A watchpoint match of an access that the debugger does not let pass. -/
def watched (s : State) (c : CoreId) (j : CtxId) (rd wr : Bool) (ea : Word) (n : Nat) : Option Act :=
  let k := coreAt s c
  if (ctxAt s c j).bpPass || n = 0 then none else
  match (List.finRange 4).find? (watchMatch k rd wr ea n) with
  | some i => some (debugMatch k (5 + i.val) ea)
  | none => none
def kindReads (k : AccKind) : Bool :=
  match k with
  | .fetch => false
  | .load => true
  | .store => false
  | .atomic => true
  | .counted => false
  | .merge => true
/-- The place of an access of the issuing context, or how it ends instead: a watchpoint, a fault of Table 7.1, or a wait at a
frozen window (R337). -/
def access (s : State) (c : CoreId) (j : CtxId) (kind : AccKind) (ea : Word) (n align : Nat) : Except Act Place :=
  match watched s c j (kindReads kind) kind.writes ea n with
  | some a => .error a
  | none =>
    match place s (whoOf s c j) kind ea n align with
    | .ok p => .ok p
    | .fault t => .error (.fault t)
    | .held => .error (.wait s false)
/-- An access of the issuing context that goes on with its place, after the reads of its walk (R294), or ends the instruction as
`access` says. -/
def accessing (s : State) (c : CoreId) (j : CtxId) (kind : AccKind) (ea : Word) (n align : Nat) (k : State → Place → Act) : Act :=
  let s' := walked s (whoOf s c j) kind ea
  match access s c j kind ea n align with
  | .ok p => k s' p
  | .error (.fault t) => .faultIn s' t
  | .error a => a
/-- Access with POISON = 1 (R284). -/
def poisonFault (ea : Word) : TrapInfo := ⟨.access, 0#8, false, true, ea⟩

/-- A read that must first settle fences waits while a buffered store is held at a frozen window (R90, R337). -/
def readHeld (s : State) (c : CoreId) (j : CtxId) : Bool :=
  buffersHeld s c j && (ctxAt s c j).sbuf.any fun it => match it with | .fence _ succ _ _ => succ.getLsbD 0 | _ => false

/-! ### Loads and stores of a scalar register -/

/-- x[a] + SEXT(off) × size (R151). -/
def eaOf (s : State) (c : CoreId) (j : CtxId) (a : Reg) {w : Nat} (off : BitVec w) (size : Nat) : Word :=
  readX s (ctxAt s c j) a + sext64 off * BitVec.ofNat 64 size
/-- A load waits while an entry that it must let drain first is held at a frozen window (R88, R90, R337). -/
def loadHeld (s : State) (c : CoreId) (j : CtxId) (acq : Option Scope) (p : Place) (n : Nat) : Bool :=
  match acq with
  | none => readHeld s c j
  | some sc => if wide sc then settleHeld s c j (beforeAcquire p n) else readHeld s c j
/-- A load of Table 7.2: plain, or an acquire at a scope. -/
def loadWith (s : State) (stl : Stl) (d a : Reg) (ea : CoreId → CtxId → Word) (size : Nat) (signed : Bool)
    (acq : Option Scope) : Out :=
  instr s stl 5 [nx a] fun c j =>
    accessing s c j .load (ea c j) size size fun s p =>
      if loadHeld s c j acq p size then .wait s false else
      let r := match acq with
        | none => issueLoad s c j p size (.x d signed)
        | some sc => loadAcquire (performOverlaps s c j p size) c j sc p size
      if r.2.2 then .fault (poisonFault (ea c j)) else .done (writeX r.1 c j d 1 (extendBytes signed r.2.1))
/-- A plain load (R151). -/
def load (s : State) (stl : Stl) (d a : Reg) (off : BitVec 9) (size : Nat) (signed : Bool) : Out :=
  loadWith s stl d a (fun c j => eaOf s c j a off size) size signed none
/-- An acquire load (R152). -/
def loadAcq (s : State) (stl : Stl) (d a : Reg) (sc : Scope) (size : Nat) (signed : Bool) : Out :=
  loadWith s stl d a (fun c j => readX s (ctxAt s c j) a) size signed (some sc)

/-- The register after r (ST.Q). -/
def nextReg (r : Reg) : Reg := r + 1#5
/-- The bytes a store writes: the low bytes of x[r], and x[r+1] for ST.Q (R153). -/
def storeBytes (s : State) (t : Ctx) (r : Reg) (size : Nat) : List Byte :=
  if size = 16 then bytesOf 8 (readX s t r) ++ bytesOf 8 (readX s t (nextReg r)) else bytesOf size (readX s t r)
/-- Registers that a store's data comes from. -/
def storeRegs (r : Reg) (size : Nat) : List Nat := if size = 16 then [nx r, nx (nextReg r)] else [nx r]
/-- A store enters the store buffer (R86) with the translation `pin` of its address (R298); a late load of its bytes has been
performed. -/
def buffer (s : State) (c : CoreId) (j : CtxId) (p : Place) (bs : List Byte) (rel : Bool) (sc : Scope) (cnt : Bool)
    (pin : Option TlbEntry) : State :=
  modCtx (performOverlaps s c j p bs.length) c j fun t => { t with sbuf := t.sbuf ++ [.store p bs rel sc cnt (sbEpoch t) pin] }
/-- The translation that a store of the context to an address keeps while it is buffered. -/
def storePin (s : State) (c : CoreId) (j : CtxId) (ea : Word) : Option TlbEntry := pinOf s (whoOf s c j) .store ea
/-- A plain store (R153). -/
def store (s : State) (stl : Stl) (d a : Reg) (off : BitVec 9) (size : Nat) : Out :=
  instr s stl 5 (storeRegs d size ++ [nx a]) fun c j =>
    let ea := eaOf s c j a off size
    accessing s c j .store ea size size fun s p =>
      .done (buffer s c j p (storeBytes s (ctxAt s c j) d size) false .pkg false (storePin s c j ea))
/-- An ordered store (R154): .rel drains as a release; .ar drains in its own step, after all older accesses, and invalidates
the clean bytes at .cl and above. Both end discardability. -/
def storeRel (s : State) (stl : Stl) (ar : Bool) (sc : Scope) (a b : Reg) (size : Nat) : Out :=
  instr s stl 5 ([nx a] ++ storeRegs b size) fun c j =>
    let t := ctxAt s c j
    accessing s c j .store (readX s t a) size size fun s p =>
      if putsTravel s c j then .wait s false else
      let s' := undiscard (buffer s c j p (storeBytes s t b size) true sc false (storePin s c j (readX s t a))) c j
      if !ar then .done s'
      else if buffersHeld s' c j then .wait s false
      else
        let s' := drainAll s' c j
        .done (if wide sc then invalidateClean s' c else s')
/-- A counted remote store (R155). -/
def storeCnt (s : State) (stl : Stl) (d a : Reg) (off : BitVec 9) (size : Nat) : Out :=
  instr s stl 5 (storeRegs d size ++ [nx a]) fun c j =>
    accessing s c j .counted (eaOf s c j a off size) size size fun s p =>
      .done (buffer s c j p (storeBytes s (ctxAt s c j) d size) false .pkg true none)

/-- An atomic (R157, R158): `f` gives the new value of `size` bytes from the old one, or none to write nothing. An older
late load of the bytes has been performed. -/
def amo (s : State) (stl : Stl) (far dw : Bool) (ord : MemOrder) (rs : List Nat) (d a : Reg)
    (f : Ctx → Nat → Option Nat) : Out :=
  instr s stl 5 rs fun c j =>
    let t := ctxAt s c j
    let ea := readX s t a
    let size := if dw then 8 else 4
    let acq := ord == .acq || ord == .ar
    let rel := ord == .rel || ord == .ar
    accessing s c j .atomic ea size size fun s p =>
      if buffersHeld s c j || (rel && putsTravel s c j) then .wait s false else
      let r := atomicAt (performOverlaps s c j p size) c j p size far acq rel fun old => (f t (leNat old)).map (leBytes size)
      if r.2.2 then .fault (poisonFault ea)
      else .done (writeX (undiscard r.1 c j) c j d 1 (extendBytes true r.2.1))
/-- An AMO of Table 7.3 on numbers of `w` bits. -/
def amoOp (s : State) (stl : Stl) (far dw : Bool) (ord : MemOrder) (d a b : Reg)
    (f : (w : Nat) → BitVec w → BitVec w → BitVec w) : Out :=
  amo s stl far dw ord [nx a, nx b] d a fun t old =>
    let w := if dw then 64 else 32
    some (f w (BitVec.ofNat w old) ((readX s t b).setWidth w)).toNat

end Sys2Proof.Machine
end

