-- ==== Sys2Proof/Machine/Scalar.lean ====
section
/-! DEFINITION. Scalar integer and floating-point instructions (R127–R137, R143, R148). -/

namespace Sys2Proof.Machine

/-! ### Bit operations of Table 6.1 -/

/-- Set bits of a word. -/
def popCount {w : Nat} (v : BitVec w) : Nat := ((List.range w).filter v.getLsbD).length
/-- Leading zero bits; w for zero. -/
def leadZeros {w : Nat} (v : BitVec w) : Nat := ((List.range w).find? fun i => v.getLsbD (w - 1 - i)).getD w
/-- Trailing zero bits; w for zero. -/
def trailZeros {w : Nat} (v : BitVec w) : Nat := ((List.range w).find? v.getLsbD).getD w
/-- The shift amount of a .d operation. -/
def sh6 (b : Word) : Nat := b.toNat % 64
/-- The shift amount of a .w operation. -/
def sh5 (b : Word32) : Nat := b.toNat % 32
def smin {w : Nat} (a b : BitVec w) : BitVec w := if a.slt b then a else b
def smax {w : Nat} (a b : BitVec w) : BitVec w := if a.slt b then b else a
def umin {w : Nat} (a b : BitVec w) : BitVec w := if a.ult b then a else b
def umax {w : Nat} (a b : BitVec w) : BitVec w := if a.ult b then b else a

/-! ### Quotients (Table 6.2) -/

def quotS {w : Nat} (a b : BitVec w) : BitVec w := if b = 0#w then BitVec.allOnes w else a.sdiv b
def quotU {w : Nat} (a b : BitVec w) : BitVec w := if b = 0#w then BitVec.allOnes w else a / b
def remS {w : Nat} (a b : BitVec w) : BitVec w := if b = 0#w then a else a.srem b
def remU {w : Nat} (a b : BitVec w) : BitVec w := if b = 0#w then a else a % b

/-- NOP: No effect (R148). -/
def execNop (stl : Stl) (s : State) : Out := instr s stl 0 [] fun _ _ => .done s

/-- ADD: Table 6.1, 64 bits (R127). -/
def execAdd (stl : Stl) (d a b : Reg) (s : State) : Out := alu2 s stl 1 d a b fun x y => x + y
/-- SUB: Table 6.1, 64 bits (R127). -/
def execSub (stl : Stl) (d a b : Reg) (s : State) : Out := alu2 s stl 1 d a b fun x y => x - y
/-- AND: Table 6.1, 64 bits (R127). -/
def execAnd (stl : Stl) (d a b : Reg) (s : State) : Out := alu2 s stl 1 d a b fun x y => x &&& y
/-- OR: Table 6.1, 64 bits (R127). -/
def execOr (stl : Stl) (d a b : Reg) (s : State) : Out := alu2 s stl 1 d a b fun x y => x ||| y
/-- XOR: Table 6.1, 64 bits (R127). -/
def execXor (stl : Stl) (d a b : Reg) (s : State) : Out := alu2 s stl 1 d a b fun x y => x ^^^ y
/-- ANDN: Table 6.1, 64 bits (R127). -/
def execAndn (stl : Stl) (d a b : Reg) (s : State) : Out := alu2 s stl 1 d a b fun x y => x &&& ~~~y
/-- SLL: Table 6.1, 64 bits (R127). -/
def execSll (stl : Stl) (d a b : Reg) (s : State) : Out := alu2 s stl 1 d a b fun x y => x <<< sh6 y
/-- SRL: Table 6.1, 64 bits (R127). -/
def execSrl (stl : Stl) (d a b : Reg) (s : State) : Out := alu2 s stl 1 d a b fun x y => x >>> sh6 y
/-- SRA: Table 6.1, 64 bits (R127). -/
def execSra (stl : Stl) (d a b : Reg) (s : State) : Out := alu2 s stl 1 d a b fun x y => x.sshiftRight (sh6 y)
/-- ROL: Table 6.1, 64 bits (R127). -/
def execRol (stl : Stl) (d a b : Reg) (s : State) : Out := alu2 s stl 1 d a b fun x y => x.rotateLeft (sh6 y)
/-- ROR: Table 6.1, 64 bits (R127). -/
def execRor (stl : Stl) (d a b : Reg) (s : State) : Out := alu2 s stl 1 d a b fun x y => x.rotateRight (sh6 y)
/-- SLT: Table 6.1, 64 bits (R127). -/
def execSlt (stl : Stl) (d a b : Reg) (s : State) : Out := alu2 s stl 1 d a b fun x y => boolWord (x.slt y)
/-- SLTU: Table 6.1, 64 bits (R127). -/
def execSltu (stl : Stl) (d a b : Reg) (s : State) : Out := alu2 s stl 1 d a b fun x y => boolWord (x.ult y)
/-- SEQ: Table 6.1, 64 bits (R127). -/
def execSeq (stl : Stl) (d a b : Reg) (s : State) : Out := alu2 s stl 1 d a b fun x y => boolWord (x == y)
/-- SNE: Table 6.1, 64 bits (R127). -/
def execSne (stl : Stl) (d a b : Reg) (s : State) : Out := alu2 s stl 1 d a b fun x y => boolWord (x != y)
/-- MIN: Table 6.1, 64 bits (R127). -/
def execMin (stl : Stl) (d a b : Reg) (s : State) : Out := alu2 s stl 1 d a b smin
/-- MAX: Table 6.1, 64 bits (R127). -/
def execMax (stl : Stl) (d a b : Reg) (s : State) : Out := alu2 s stl 1 d a b smax
/-- MINU: Table 6.1, 64 bits (R127). -/
def execMinu (stl : Stl) (d a b : Reg) (s : State) : Out := alu2 s stl 1 d a b umin
/-- MAXU: Table 6.1, 64 bits (R127). -/
def execMaxu (stl : Stl) (d a b : Reg) (s : State) : Out := alu2 s stl 1 d a b umax
/-- CLZ: Table 6.1, 64 bits (R127). -/
def execClz (stl : Stl) (d a : Reg) (s : State) : Out := alu1 s stl d a fun x => BitVec.ofNat 64 (leadZeros x)
/-- CTZ: Table 6.1, 64 bits (R127). -/
def execCtz (stl : Stl) (d a : Reg) (s : State) : Out := alu1 s stl d a fun x => BitVec.ofNat 64 (trailZeros x)
/-- POPC: Table 6.1, 64 bits (R127). -/
def execPopc (stl : Stl) (d a : Reg) (s : State) : Out := alu1 s stl d a fun x => BitVec.ofNat 64 (popCount x)

/-- ADD_W: Table 6.1, 32 bits (R127). -/
def execAddW (stl : Stl) (d a b : Reg) (s : State) : Out := aluW s stl 1 d a b fun x y => x + y
/-- SUB_W: Table 6.1, 32 bits (R127). -/
def execSubW (stl : Stl) (d a b : Reg) (s : State) : Out := aluW s stl 1 d a b fun x y => x - y
/-- AND_W: Table 6.1, 32 bits (R127). -/
def execAndW (stl : Stl) (d a b : Reg) (s : State) : Out := aluW s stl 1 d a b fun x y => x &&& y
/-- OR_W: Table 6.1, 32 bits (R127). -/
def execOrW (stl : Stl) (d a b : Reg) (s : State) : Out := aluW s stl 1 d a b fun x y => x ||| y
/-- XOR_W: Table 6.1, 32 bits (R127). -/
def execXorW (stl : Stl) (d a b : Reg) (s : State) : Out := aluW s stl 1 d a b fun x y => x ^^^ y
/-- ANDN_W: Table 6.1, 32 bits (R127). -/
def execAndnW (stl : Stl) (d a b : Reg) (s : State) : Out := aluW s stl 1 d a b fun x y => x &&& ~~~y
/-- SLL_W: Table 6.1, 32 bits (R127). -/
def execSllW (stl : Stl) (d a b : Reg) (s : State) : Out := aluW s stl 1 d a b fun x y => x <<< sh5 y
/-- SRL_W: Table 6.1, 32 bits (R127). -/
def execSrlW (stl : Stl) (d a b : Reg) (s : State) : Out := aluW s stl 1 d a b fun x y => x >>> sh5 y
/-- SRA_W: Table 6.1, 32 bits (R127). -/
def execSraW (stl : Stl) (d a b : Reg) (s : State) : Out := aluW s stl 1 d a b fun x y => x.sshiftRight (sh5 y)
/-- ROL_W: Table 6.1, 32 bits (R127). -/
def execRolW (stl : Stl) (d a b : Reg) (s : State) : Out := aluW s stl 1 d a b fun x y => x.rotateLeft (sh5 y)
/-- ROR_W: Table 6.1, 32 bits (R127). -/
def execRorW (stl : Stl) (d a b : Reg) (s : State) : Out := aluW s stl 1 d a b fun x y => x.rotateRight (sh5 y)
/-- CLZ_W: Table 6.1, 32 bits (R127). -/
def execClzW (stl : Stl) (d a : Reg) (s : State) : Out := alu1 s stl d a fun x => BitVec.ofNat 64 (leadZeros (lo32 x))
/-- CTZ_W: Table 6.1, 32 bits (R127). -/
def execCtzW (stl : Stl) (d a : Reg) (s : State) : Out := alu1 s stl d a fun x => BitVec.ofNat 64 (trailZeros (lo32 x))
/-- POPC_W: Table 6.1, 32 bits (R127). -/
def execPopcW (stl : Stl) (d a : Reg) (s : State) : Out := alu1 s stl d a fun x => BitVec.ofNat 64 (popCount (lo32 x))

/-- MUL: Table 6.2 (R128). -/
def execMul (stl : Stl) (d a b : Reg) (s : State) : Out := alu2 s stl 3 d a b fun x y => x * y
/-- MULH: Table 6.2 (R128). -/
def execMulh (stl : Stl) (d a b : Reg) (s : State) : Out :=
  alu2 s stl 3 d a b fun x y => BitVec.ofInt 64 (x.toInt * y.toInt / 2 ^ 64)
/-- MULHU: Table 6.2 (R128). -/
def execMulhu (stl : Stl) (d a b : Reg) (s : State) : Out :=
  alu2 s stl 3 d a b fun x y => BitVec.ofNat 64 (x.toNat * y.toNat / 2 ^ 64)
/-- DIV: Table 6.2 (R128). -/
def execDiv (stl : Stl) (d a b : Reg) (s : State) : Out := alu2 s stl 1 d a b quotS
/-- DIVU: Table 6.2 (R128). -/
def execDivu (stl : Stl) (d a b : Reg) (s : State) : Out := alu2 s stl 1 d a b quotU
/-- REM: Table 6.2 (R128). -/
def execRem (stl : Stl) (d a b : Reg) (s : State) : Out := alu2 s stl 1 d a b remS
/-- REMU: Table 6.2 (R128). -/
def execRemu (stl : Stl) (d a b : Reg) (s : State) : Out := alu2 s stl 1 d a b remU
/-- MUL_W: Table 6.2, 32 bits (R128). -/
def execMulW (stl : Stl) (d a b : Reg) (s : State) : Out := aluW s stl 3 d a b fun x y => x * y
/-- DIV_W: Table 6.2, 32 bits (R128). -/
def execDivW (stl : Stl) (d a b : Reg) (s : State) : Out := aluW s stl 1 d a b quotS
/-- DIVU_W: Table 6.2, 32 bits (R128). -/
def execDivuW (stl : Stl) (d a b : Reg) (s : State) : Out := aluW s stl 1 d a b quotU
/-- REM_W: Table 6.2, 32 bits (R128). -/
def execRemW (stl : Stl) (d a b : Reg) (s : State) : Out := aluW s stl 1 d a b remS
/-- REMU_W: Table 6.2, 32 bits (R128). -/
def execRemuW (stl : Stl) (d a b : Reg) (s : State) : Out := aluW s stl 1 d a b remU

/-- ADD_IMM: x[a] with SEXT(imm12) (R129). -/
def execAddImm (stl : Stl) (d a : Reg) (imm : BitVec 12) (s : State) : Out := alu1 s stl d a fun x => x + sext64 imm
/-- ADD_W_IMM: x[a] with SEXT(imm12) (R129). -/
def execAddWImm (stl : Stl) (d a : Reg) (imm : BitVec 12) (s : State) : Out :=
  alu1 s stl d a fun x => sext64 (lo32 (x + sext64 imm))
/-- AND_IMM: x[a] with SEXT(imm12) (R129). -/
def execAndImm (stl : Stl) (d a : Reg) (imm : BitVec 12) (s : State) : Out := alu1 s stl d a fun x => x &&& sext64 imm
/-- OR_IMM: x[a] with SEXT(imm12) (R129). -/
def execOrImm (stl : Stl) (d a : Reg) (imm : BitVec 12) (s : State) : Out := alu1 s stl d a fun x => x ||| sext64 imm
/-- XOR_IMM: x[a] with SEXT(imm12) (R129). -/
def execXorImm (stl : Stl) (d a : Reg) (imm : BitVec 12) (s : State) : Out := alu1 s stl d a fun x => x ^^^ sext64 imm
/-- ANDN_IMM: x[a] with SEXT(imm12) (R129). -/
def execAndnImm (stl : Stl) (d a : Reg) (imm : BitVec 12) (s : State) : Out := alu1 s stl d a fun x => x &&& ~~~sext64 imm

/-- A shift by a constant, at 64 bits or, with w, at 32 bits (R130). -/
def shiftImm (s : State) (stl : Stl) (w : Bool) (d a : Reg) (sh : BitVec 6) (f : {n : Nat} → BitVec n → Nat → BitVec n) : Out :=
  alu1 s stl d a fun x => if w then sext64 (f (lo32 x) sh.toNat) else f x sh.toNat
/-- SLL_IMM: Shift by a constant; w selects the 32-bit form (R130). -/
def execSllImm (stl : Stl) (w : Bool) (d a : Reg) (sh : BitVec 6) (s : State) : Out :=
  shiftImm s stl w d a sh fun x n => x <<< n
/-- SRL_IMM: Shift by a constant; w selects the 32-bit form (R130). -/
def execSrlImm (stl : Stl) (w : Bool) (d a : Reg) (sh : BitVec 6) (s : State) : Out :=
  shiftImm s stl w d a sh fun x n => x >>> n
/-- SRA_IMM: Shift by a constant; w selects the 32-bit form (R130). -/
def execSraImm (stl : Stl) (w : Bool) (d a : Reg) (sh : BitVec 6) (s : State) : Out :=
  shiftImm s stl w d a sh fun x n => x.sshiftRight n
/-- ROL_IMM: Shift by a constant; w selects the 32-bit form (R130). -/
def execRolImm (stl : Stl) (w : Bool) (d a : Reg) (sh : BitVec 6) (s : State) : Out :=
  shiftImm s stl w d a sh fun x n => x.rotateLeft n
/-- ROR_IMM: Shift by a constant; w selects the 32-bit form (R130). -/
def execRorImm (stl : Stl) (w : Bool) (d a : Reg) (sh : BitVec 6) (s : State) : Out :=
  shiftImm s stl w d a sh fun x n => x.rotateRight n

/-- SEL: x[c] ≠ 0 ? x[a] : x[b] (R131). -/
def execSel (stl : Stl) (d a b c : Reg) (s : State) : Out :=
  instr s stl 0 [nx a, nx b, nx c] fun p j =>
    let t := ctxAt s p j
    .done (writeX s p j d 1 (if readX s t c = 0#64 then readX s t b else readX s t a))

/-- `len` bits from `pos`, as a mask in place. -/
def fieldMask (len pos : BitVec 6) : Word := ((1#64 <<< (len.toNat + 1)) - 1#64) <<< pos.toNat
/-- x[a][pos + len − 1 : pos] (R132); the field is one bit longer than the `len` of the word. -/
def extractField (x : Word) (len pos : BitVec 6) : Word := (x &&& fieldMask len pos) >>> pos.toNat
def insertField (t x : Word) (len pos : BitVec 6) : Word := (t &&& ~~~fieldMask len pos) ||| ((x <<< pos.toNat) &&& fieldMask len pos)
/-- BFX: Extracts len + 1 bits at pos (R132). -/
def execBfx (stl : Stl) (d a : Reg) (len pos : BitVec 6) (s : State) : Out := alu1 s stl d a fun x => extractField x len pos
/-- BFI: Inserts len + 1 bits at pos (R132). -/
def execBfi (stl : Stl) (d a : Reg) (len pos : BitVec 6) (s : State) : Out :=
  alu2 s stl 1 d d a fun t x => insertField t x len pos

/-- LIW: x[d] := SEXT(L) (R133). -/
def execLiw (stl : Stl) (d : Reg) (lit : Word32) (s : State) : Out :=
  instr s stl 0 [] fun c j => .done (writeX s c j d 1 (sext64 lit))
/-- LIWH: Literal into bits [63:32] (R133). -/
def execLiwh (stl : Stl) (d : Reg) (lit : Word32) (s : State) : Out :=
  alu1 s stl d d fun x => (zext64 lit <<< 32) ||| zext64 (lo32 x)
/-- ADDPC: Address of the first word + SEXT(L) (R133). -/
def execAddpc (stl : Stl) (d : Reg) (lit : Word32) (s : State) : Out :=
  instr s stl 0 [] fun c j => .done (writeX s c j d 1 ((ctxAt s c j).pc.addr + sext64 lit))
/-- RNG: The generator (R143). -/
def execRng (stl : Stl) (d a b : Reg) (s : State) : Out :=
  alu2 s stl 3 d a b fun x y => (zext64 (genG (lo32 x ^^^ 0x5BD1E995#32) (lo32 y)) <<< 32) ||| zext64 (genG (lo32 x) (lo32 y))

/-- FADD: Table 6.3 (R134). -/
def execFadd (stl : Stl) (rm : RMode) (d a b : Reg) (s : State) : Out :=
  fp2 s stl d a b fun x y => addFl fmtF32 rm (f32 x) (f32 y)
/-- FSUB: Table 6.3 (R134). -/
def execFsub (stl : Stl) (rm : RMode) (d a b : Reg) (s : State) : Out :=
  fp2 s stl d a b fun x y => subFl fmtF32 rm (f32 x) (f32 y)
/-- FMUL: Table 6.3 (R134). -/
def execFmul (stl : Stl) (rm : RMode) (d a b : Reg) (s : State) : Out :=
  fp2 s stl d a b fun x y => mulFl fmtF32 rm (f32 x) (f32 y)
/-- FMIN: Table 6.3 (R134). -/
def execFmin (stl : Stl) (d a b : Reg) (s : State) : Out := fp2 s stl d a b fun x y => minMaxFl fmtF32 false x.toNat y.toNat
/-- FMAX: Table 6.3 (R134). -/
def execFmax (stl : Stl) (d a b : Reg) (s : State) : Out := fp2 s stl d a b fun x y => minMaxFl fmtF32 true x.toNat y.toNat
/-- FSGN: Table 6.3 (R134). -/
def execFsgn (stl : Stl) (d a b : Reg) (s : State) : Out := fp2 s stl d a b sgnFl
/-- FEXP2: Table 3.8 (R75). -/
def execFexp2 (stl : Stl) (d a : Reg) (s : State) : Out := fp1 s stl 8 d a fun x => transFl .exp2 (f32 (lo32 x))
/-- FLOG2: Table 3.8 (R75). -/
def execFlog2 (stl : Stl) (d a : Reg) (s : State) : Out := fp1 s stl 8 d a fun x => transFl .log2 (f32 (lo32 x))
/-- FRCP: Table 3.8 (R75). -/
def execFrcp (stl : Stl) (d a : Reg) (s : State) : Out := fp1 s stl 8 d a fun x => transFl .rcp (f32 (lo32 x))
/-- FRSQ: Table 3.8 (R75). -/
def execFrsq (stl : Stl) (d a : Reg) (s : State) : Out := fp1 s stl 8 d a fun x => transFl .rsq (f32 (lo32 x))

/-- ±(a × b) + c (R135). -/
def fused (s : State) (stl : Stl) (minus : Bool) (d a b c : Reg) : Out :=
  instr s stl 0 [nx a, nx b, nx c] fun p j =>
    let t := ctxAt s p j
    let x := f32 (lo32 (readX s t a))
    fpDone s p j d 4 (fmaFl fmtF32 (if minus then flNeg x else x) (f32 (lo32 (readX s t b))) (f32 (lo32 (readX s t c))))
/-- FFMA: Fused multiply-add (R135). -/
def execFfma (stl : Stl) (d a b c : Reg) (s : State) : Out := fused s stl false d a b c
/-- FFMS: Fused multiply-add (R135). -/
def execFfms (stl : Stl) (d a b c : Reg) (s : State) : Out := fused s stl true d a b c
/-- FCMP: FP comparison (R136). -/
def execFcmp (stl : Stl) (rel : FRel) (d a b : Reg) (s : State) : Out :=
  fp2 s stl d a b fun x y =>
    let r := cmpFl rel (f32 x) (f32 y)
    ⟨if r.1 then 1 else 0, r.2, false⟩

/-- FP32 to an integer of `w` bits in [lo, hi], extended to 64 bits by `ext` (R64, Table 6.4). -/
def toIntRes (rm : RMode) (lo hi : Int) (r : Nat) (x : Word) : FRes :=
  let v := flToInt rm r lo hi (f32 (lo32 x))
  ⟨(BitVec.ofInt 64 v.1).toNat, v.2, false⟩
/-- FCVT_I32_F32: Table 6.4 (R137). -/
def execFcvtI32F32 (stl : Stl) (rm : RMode) (d a : Reg) (s : State) : Out :=
  fcvt s stl rm d a (toIntRes rm (-2 ^ 31) (2 ^ 31 - 1)) false
/-- FCVT_UINT32_F32: Table 6.4 (R137). -/
def execFcvtUint32F32 (stl : Stl) (rm : RMode) (d a : Reg) (s : State) : Out :=
  fcvt s stl rm d a (toIntRes rm 0 (2 ^ 32 - 1)) false
/-- FCVT_I64_F32: Table 6.4 (R137). -/
def execFcvtI64F32 (stl : Stl) (rm : RMode) (d a : Reg) (s : State) : Out :=
  fcvt s stl rm d a (toIntRes rm (-2 ^ 63) (2 ^ 63 - 1)) false
/-- FCVT_UINT64_F32: Table 6.4 (R137). -/
def execFcvtUint64F32 (stl : Stl) (rm : RMode) (d a : Reg) (s : State) : Out :=
  fcvt s stl rm d a (toIntRes rm 0 (2 ^ 64 - 1)) false
/-- FCVT_F32_I32: Table 6.4 (R137). -/
def execFcvtF32I32 (stl : Stl) (rm : RMode) (d a : Reg) (s : State) : Out :=
  fcvt s stl rm d a (fun r x => intToFl fmtF32 rm r (lo32 x).toInt) false
/-- FCVT_F32_UINT32: Table 6.4 (R137). -/
def execFcvtF32Uint32 (stl : Stl) (rm : RMode) (d a : Reg) (s : State) : Out :=
  fcvt s stl rm d a (fun r x => intToFl fmtF32 rm r (lo32 x).toNat) false
/-- FCVT_F32_I64: Table 6.4 (R137). -/
def execFcvtF32I64 (stl : Stl) (rm : RMode) (d a : Reg) (s : State) : Out :=
  fcvt s stl rm d a (fun r x => intToFl fmtF32 rm r x.toInt) false
/-- FCVT_F32_UINT64: Table 6.4 (R137). -/
def execFcvtF32Uint64 (stl : Stl) (rm : RMode) (d a : Reg) (s : State) : Out :=
  fcvt s stl rm d a (fun r x => intToFl fmtF32 rm r x.toNat) false
/-- FCVT_BF16_F32: Table 6.4 (R137). -/
def execFcvtBf16F32 (stl : Stl) (rm : RMode) (d a : Reg) (s : State) : Out :=
  fcvt s stl rm d a (fun r x => convFl fmtBf16 rm r (f32 (lo32 x))) false
/-- FCVT_F32_BF16: Table 6.4 (R137). -/
def execFcvtF32Bf16 (stl : Stl) (d a : Reg) (s : State) : Out :=
  fp1 s stl 4 d a fun x => ⟨x.toNat % 2 ^ 16 * 2 ^ 16, 0#5, false⟩
/-- FCVT_E4M3_F32: Table 6.4 (R137). -/
def execFcvtE4m3F32 (stl : Stl) (rm : RMode) (d a : Reg) (s : State) : Out :=
  fcvt s stl rm d a (fun r x => convFl fmtE4m3 rm r (f32 (lo32 x))) true
/-- FCVT_E5M2_F32: Table 6.4 (R137). -/
def execFcvtE5m2F32 (stl : Stl) (rm : RMode) (d a : Reg) (s : State) : Out :=
  fcvt s stl rm d a (fun r x => convFl fmtE5m2 rm r (f32 (lo32 x))) true
/-- FCVT_F32_E4M3: Table 6.4 (R137). -/
def execFcvtF32E4m3 (stl : Stl) (d a : Reg) (s : State) : Out :=
  fp1 s stl 4 d a fun x => convFl fmtF32 .rne 0 (unpackFl fmtE4m3 (x.toNat % 256))
/-- FCVT_F32_E5M2: Table 6.4 (R137). -/
def execFcvtF32E5m2 (stl : Stl) (d a : Reg) (s : State) : Out :=
  fp1 s stl 4 d a fun x => convFl fmtF32 .rne 0 (unpackFl fmtE5m2 (x.toNat % 256))

end Sys2Proof.Machine
end

