-- ==== Sys2Proof/Machine/Control.lean ====
section
/-! DEFINITION. Control instructions: branches and jumps (R113–R117, R138–R140), the hardware loop (R141), charms (R144, R145). -/

namespace Sys2Proof.Machine

/-- A transfer to a target, which must be a block header (R113). -/
def transferTo (s : State) (c : CoreId) (j : CtxId) (h : Word) : Act :=
  if isHeader s c j h then .jump s h else .fault (valTrap .branchTarget h)
/-- The word's own address with bits [2:0] cleared, plus a scaled offset (R116). -/
def targetOf (t : Ctx) {w : Nat} (off : BitVec w) : Word := (t.pc.addr &&& ~~~7#64) + sext64 off * 8#64
/-- A branch of Table 5.3 (R138). -/
def branch (s : State) (stl : Stl) (n : Bool) (a : Reg) (off : BitVec 13) (cond : Word → Bool) : Out :=
  instr s stl 0 [nx a] fun c j =>
    let t := ctxAt s c j
    if cond (readX s t a) then transferTo s c j (targetOf t off) else if n then .skip s else .done s
/-- N changes nothing in a branch that is always taken (R116). -/
def branchAlways (s : State) (stl : Stl) (n : Bool) (off : BitVec 13) : Out := branch s stl n 0#5 off fun _ => true

/-- BR: Branch always (R138). -/
def execBr (stl : Stl) (n : Bool) (off : BitVec 13) (s : State) : Out := branchAlways s stl n off
/-- BEQZ: Conditional branch (R138, Table 5.3). -/
def execBeqz (stl : Stl) (n : Bool) (a : Reg) (off : BitVec 13) (s : State) : Out := branch s stl n a off fun x => x == 0#64
/-- BNEZ: Conditional branch (R138, Table 5.3). -/
def execBnez (stl : Stl) (n : Bool) (a : Reg) (off : BitVec 13) (s : State) : Out := branch s stl n a off fun x => x != 0#64
/-- BLTZ: Conditional branch (R138, Table 5.3). -/
def execBltz (stl : Stl) (n : Bool) (a : Reg) (off : BitVec 13) (s : State) : Out := branch s stl n a off fun x => x.slt 0#64
/-- BGEZ: Conditional branch (R138, Table 5.3). -/
def execBgez (stl : Stl) (n : Bool) (a : Reg) (off : BitVec 13) (s : State) : Out :=
  branch s stl n a off fun x => !x.slt 0#64
/-- BGTZ: Conditional branch (R138, Table 5.3). -/
def execBgtz (stl : Stl) (n : Bool) (a : Reg) (off : BitVec 13) (s : State) : Out :=
  branch s stl n a off fun x => (0#64).slt x
/-- BLEZ: Conditional branch (R138, Table 5.3). -/
def execBlez (stl : Stl) (n : Bool) (a : Reg) (off : BitVec 13) (s : State) : Out :=
  branch s stl n a off fun x => !(0#64).slt x

/-- Whether BAL or JAL stands where R117 asks: its two delay slots follow it and end its block. -/
def linkPlace (s : State) (c : CoreId) (j : CtxId) : Bool :=
  let t := ctxAt s c j
  let p := t.pc.addr
  t.npc.addr == p + 4#64 && t.nnpc.addr == p + 8#64 && bodyEnd s c j t.pc.hdr == p + 12#64
/-- A block-format fault of the word at PC, judged before the registers are read (Table 15.3). -/
def blockFault (s : State) (stl : Stl) : Out :=
  finish s stl 0 (.fault (valTrap .blockFormat (ctxAt s s.cur.1 s.cur.2).pc.addr))
/-- A transfer that links into d with the header that follows its block (R117). -/
def linkTo (s : State) (c : CoreId) (j : CtxId) (d : Reg) (h : Word) : Act :=
  let link := nextHeader s c j (ctxAt s c j).pc.hdr
  match transferTo s c j h with
  | .jump s h => .jump (writeX s c j d 1 link) h
  | a => a

/-- BAL: Branch and link (R139). -/
def execBal (stl : Stl) (d : Reg) (off : BitVec 17) (s : State) : Out :=
  if !linkPlace s s.cur.1 s.cur.2 then blockFault s stl else
  instr s stl 0 [] fun c j => linkTo s c j d (targetOf (ctxAt s c j) off)
/-- JR: Jump to register (R140). -/
def execJr (stl : Stl) (a : Reg) (s : State) : Out :=
  instr s stl 0 [nx a] fun c j => transferTo s c j (readX s (ctxAt s c j) a)
/-- JAL: Jump to register and link (R140). -/
def execJal (stl : Stl) (d a : Reg) (s : State) : Out :=
  if !linkPlace s s.cur.1 s.cur.2 then blockFault s stl else
  instr s stl 0 [nx a] fun c j => linkTo s c j d (readX s (ctxAt s c j) a)

/-- Two body words follow the word at PC in its block (R141). -/
def loopPlace (s : State) (c : CoreId) (j : CtxId) : Bool :=
  let t := ctxAt s c j
  decide (t.pc.addr.toNat + 12 ≤ (bodyEnd s c j t.pc.hdr).toNat)
/-- LOOP: Arms the hardware loop (R141). -/
def execLoop (stl : Stl) (a : Reg) (s : State) : Out :=
  if !loopPlace s s.cur.1 s.cur.2 then blockFault s stl else
  instr s stl 0 [nx a] fun c j =>
    let t := ctxAt s c j
    let body := nextHeader s c j t.pc.hdr ||| 1#64
    .done (modCtx s c j fun t => { t with lc := readX s t a, lblk := body })

/-! ### Charms -/

/-- The charm that SPAWN makes (R144, R265): ctx0's registers as they stand, the first block's queue and region. -/
def newCharm (s : State) (c : CoreId) (old : Ctx) (j : CtxId) (target : Word) : Ctx :=
  let t := ctxAt s c 0
  let pc : QSlot := ⟨target + 8#64, target⟩
  let npc := (seqOf s c 0 0#64 0#64 pc).1
  let nnpc := (seqOf s c 0 0#64 0#64 npc).1
  let ctr : Word32 := BitVec.ofNat 32 (j.val * 2 ^ 28)
  { old with
    run := .on
    x := Vector.ofFn fun i => readX s t (BitVec.ofFin i)
    pc := pc, npc := npc, nnpc := nnpc, nul := 0#2
    lc := 0#64, lblk := 0#64, rstart := target + 8#64
    region := ⟨npc, nnpc, 0#2, 0#64, 0#64, ctr, liveAt s c 0 target, (coreAt s c).streams⟩
    status := statusOf (stSchk t) (stDet t) false false false false false false
    epc := 0#64, enpc := 0#64, ennpc := 0#64, enul := 0#2, ecause := 0#64, eval := 0#64
    tvec := t.tvec, sscratch := 0#64, elc := 0#64, elblk := 0#64, erst := 0#64
    asid := t.asid, root := t.root
    fflags := 0#5, cvtovf := false, srkey := t.srkey, srctr := ctr
    exitVal := 0#64, arrived := Vector.replicate 8 0, phased := 0, credit := Vector.replicate 8 0, phaseCredit := 0
    inflight := [], late := [], wait := .none, trapDue := none, powerStop := t.powerStop, powerDone := false
    rsDue := false, stopHere := false
    openJobs := [], batches := [], ringsHeld := [], bpPass := false }
/-- A charm number as a context. -/
def charmId (j : Reg) : CtxId := Fin.ofNat 11 j.toNat
/-- The registers that SPAWN reads: those it copies, where it starts a charm (R120, R144). -/
def spawnReads (s : State) (j : CtxId) : List Nat :=
  if s.cur.2.val = 0 && (ctxAt s s.cur.1 j).run == .off then (List.range 31).map (· + 1) else []
/-- SPAWN: Starts a charm (R144). It is a release at .core of ctx0's older accesses, also where the charm is live (R94). -/
def execSpawn (stl : Stl) (d j : Reg) (off : BitVec 12) (s : State) : Out :=
  instr s stl 0 (spawnReads s (charmId j)) fun c i =>
    let t := ctxAt s c i
    let target := targetOf t off
    if !isHeader s c i target then .fault (valTrap .branchTarget target) else
    ctx0Only i (packI stl d j (off) 0x58#7) <|
    if releaseHeld s c i then .wait s false
    else
      let e := undiscard (releaseStamp s c i .core).1 c i
      if (ctxAt s c (charmId j)).run != .off then .done (writeX e c i d 1 1#64)
      else
        let ch := newCharm s c (ctxAt s c (charmId j)) (charmId j) target
        .done (writeX (modCore e c fun k => putCtx k (charmId j) ch) c i d 1 0#64)

/-- The submitter belongs to the team bound on a core. -/
def ofTeam (k : Core) (w : Who) : Bool :=
  match k.team with
  | some b => b.lid == w.lid && b.team == w.team
  | none => false
/-- A job that a core submitted is outstanding in its cluster's engines or at a port (R16). -/
def jobsOutstanding (s : State) (c : CoreId) : Bool :=
  let g := clusterAt s (clusterOf s c)
  g.jobs.any (fun b => b.who.core == c) || g.engine.queue.any (fun b => b.who.core == c) ||
    s.ports.toList.any fun p => p.jobs.any fun b => b.who.core == c && !b.ghost && ofTeam (coreAt s c) b.who
/-- Some charm of a core is live. -/
def charmsLive (k : Core) : Bool := (allCtxs.drop 1).any fun j => (coreCtx k j).run != .off
/-- An instruction that ends its context: its trace record is written and the context issues no more. -/
def endContext (s : State) (c : CoreId) (j : CtxId) : Act :=
  let s := traceIssue s c j 0
  .leave (modCtx s c j fun t => { t with run := .off, wait := .none, inflight := [] })
/-- The HEXIT value of a control context enters its launch's record (R16). -/
def orExit (s : State) (c : CoreId) (v : Word) : State :=
  match (coreAt s c).team with
  | none => s
  | some b => modHub s fun h =>
      { h with launches := h.launches.map fun l => if l.lid == b.lid then { l with exitOr := l.exitOr ||| v } else l }
/-- HEXIT: Ends the context (R16, R19). In a charm it is a release at .core of every access the charm made. -/
def execHexit (stl : Stl) (a : Reg) (s : State) : Out :=
  instr s stl 0 [nx a] fun c j =>
    let v := readX s (ctxAt s c j) a
    if releaseHeld s c j then .wait s (j.val == 0)
    else if j.val = 0 then
      if charmsLive (coreAt s c) || jobsOutstanding s c then .wait s true
      else
        let s := orExit (drainAll s c j) c v
        endContext (modEngine (modCore s c fun k => { k with finished := true }) (clusterOf s c) (dropLease c)) c j
    else
      let s := modCtx (releaseStamp s c j .core).1 c j fun t => { t with exitVal := v }
      endContext (modCore s c wakeSleepers) c j
/-- HJOIN: Joins a charm (R19). -/
def execHjoin (stl : Stl) (d j : Reg) (s : State) : Out :=
  instr s stl 0 [] fun c i =>
    ctx0Only i (packR stl d j 0#5 (1#7) 0x59#7) <|
    let ch := ctxAt s c (charmId j)
    if ch.run != .off then .wait s true else .done (writeX s c i d 1 ch.exitVal)
/-- HSTAT's mask: bit j for a live charm j, bits [10:1]. -/
def liveMask (k : Core) : Word :=
  (allCtxs.drop 1).foldl (fun m j => if (coreCtx k j).run != .off then putBit m j.val true else m) 0#64
/-- HSTAT: Mask of live charms (R19). -/
def execHstat (stl : Stl) (d : Reg) (s : State) : Out :=
  instr s stl 0 [] fun c j => .done (writeX s c j d 1 (liveMask (coreAt s c)))

end Sys2Proof.Machine
end

