-- ==== Sys2Proof/Machine/System.lean ====
section
/-! DEFINITION. Sysregs (R22, R23, R146, R147, R262, R268, R269, Tables 5.7 and 6.7) and the system instructions of major
0x00 (R270–R275). -/

namespace Sys2Proof.Machine

/-! ### Configurations (R217) -/

def kPort (v : Word) : PortId := Fin.ofNat 2 (v.extractLsb' 1 1).toNat
def kAnchor (v : Word) : Bool := v.getLsbD 2
def kLost (v : Word) : Bool := v.getLsbD 3
def kCircle (v : Word) : CircleId := v.extractLsb' 4 4
def kW (v : Word) : Nat := (v.extractLsb' 8 5).toNat
def kIdx (v : Word) : Nat := (v.extractLsb' 16 5).toNat
def kL (v : Word) : Nat := (v.extractLsb' 24 5).toNat
def kLag (v : Word) : Nat := (v.extractLsb' 32 12).toNat
def kTurn (v : Word) : Nat := (v.extractLsb' 48 12).toNat
/-- A valid configuration; W also keeps to the limit of the last calibration (R356). -/
def kValid (v : Word) (limit : Nat) : Bool :=
  v.getLsbD 0 && !kLost v && decide (1 ≤ kW v) && decide (kW v ≤ kL v) && decide (kW v ≤ limit) && decide (kIdx v < kW v) &&
    (kAnchor v == decide (kIdx v = 0)) && v.extractLsb' 32 12 != 0#12 && v.extractLsb' 48 12 != 0#12
/-- A configuration names a circle of a port. -/
def kNames (v : Word) (p : PortId) (ci : CircleId) : Bool := v.getLsbD 0 && kPort v == p && kCircle v == ci
def circleAt (s : State) (p : PortId) (ci : CircleId) : Circle := (portAt s p).circles.get ci.toFin
def modCircle (s : State) (p : PortId) (ci : CircleId) (f : Circle → Circle) : State :=
  modPort s p fun q => { q with circles := vPut q.circles ci.toFin (f (q.circles.get ci.toFin)) }
/-- A configuration without LOST, which the device sets. -/
def kFields (v : Word) : Word := v &&& ~~~8#64
/-- A numbered operation of a circle is outstanding at the port. -/
def circleBusy (s : State) (p : PortId) (ci : CircleId) : Bool :=
  (portAt s p).jobs.any fun b => kCircle b.cfg == ci && b.num.isSome
/-- A circle comes under a configuration (R220): one that it does not have yet, or that takes it up again after a SEGMENT end, restarts
its windows and operation numbers, with every member present. Written again with the same fields it stays as it is: the spec does not
say whether that is a new configuration (DESIGN CHOICE, log 107). -/
def takeConfig (v : Word) (s : State) (p : PortId) (ci : CircleId) : State :=
  let c := circleAt s p ci
  if !c.lost && c.cfg == some (kFields v) then s
  else if !c.lost && c.cfg.isNone then modCircle s p ci fun c => { c with cfg := some (kFields v) }
  else modPort (modCircle s p ci fun _ => { Circle.reset with cfg := some (kFields v) }) p fun q =>
    { q with members := sPut 0#32 q.members ci.toNat 0#32 }
/-- KCFG has been written: the circle that it names is configured, unless an operation of an older configuration is outstanding there
(R220, R242). -/
def reconfigure (s : State) (v : Word) : State :=
  if v.getLsbD 0 && !kLost v && !circleBusy s (kPort v) (kCircle v) then takeConfig v s (kPort v) (kCircle v) else s

/-! ### Sysreg numbers -/

/-- A number that Tables 5.7, 15.5 and 16.1 list. -/
def sysListed (n : Nat) : Bool :=
  decide (n ≤ 0x007) || (decide (0x010 ≤ n) && decide (n ≤ 0x012)) || (decide (0x020 ≤ n) && decide (n ≤ 0x024)) ||
  (decide (0x028 ≤ n) && decide (n ≤ 0x033)) || n == 0x040 || (decide (0x050 ≤ n) && decide (n ≤ 0x053)) ||
  n == 0x060 || n == 0x061 || n == 0x070 || n == 0x071 || n == 0x080 || n == 0x081 ||
  (decide (0x800 ≤ n) && decide (n ≤ 0x806)) || (decide (0x810 ≤ n) && decide (n ≤ 0x813))
/-- A number reserved to S mode (R261). -/
def sysPrivileged (n : Nat) : Bool := (decide (1 ≤ n) && decide (n ≤ 7)) || decide (0x800 ≤ n)
/-- A SYSR or SYSW of this number is legal in the mode (R122, R261). -/
def sysLegal (priv : Bool) (n : Nat) : Bool := sysListed n && (priv || !sysPrivileged n)

/-! ### Reading -/

/-- IPEND.PRE: a stop is pending for the core (Table 15.5). -/
def prePending (k : Core) : Bool := k.stopReq != .none
/-- IPEND (Table 15.5); TIMER holds while WSTIME ≥ TCMP. -/
def ipendOf (s : State) (k : Core) : Word :=
  ((BitVec.ofBool (prePending k) ++ BitVec.ofBool k.door ++ BitVec.ofBool (decide (k.tcmp.toNat ≤ s.ns)) : BitVec 3)).setWidth 64
/-- ENERGY of a core's team (R327). -/
def energyOf (s : State) (k : Core) : Word :=
  match k.team with
  | none => 0#64
  | some b => BitVec.ofNat 64 (((s.hub.meters.find? fun m => m.lid == b.lid && m.team == b.team).map (·.total)).getD 0)
/-- STATES of BANKQ's selected group (Table 2.9). -/
def bankStates (s : State) (c : CoreId) (sel : BitVec 3) : BitVec 48 :=
  let k := coreAt s c
  let d := dieAt s (coreDie c)
  match sel.toNat with
  | 0 => k.power.extractLsb' 0 48
  | 1 => (k.power.extractLsb' 48 32).setWidth 48
  | 2 => d.l2Power.extractLsb' 0 48
  | 3 => d.l2Power.extractLsb' 48 48
  | 4 => d.wPower.extractLsb' 0 48
  | 5 => d.wPower.extractLsb' 48 48
  | 6 => (d.wPower.extractLsb' 96 32).setWidth 48
  | _ => d.rankPower
/-- ALLOW from its fields (Table 1.4). -/
def allowOf (k : Core) : Word := (((k.allow.get 2) ++ (k.allow.get 1) ++ (k.allow.get 0) : BitVec 24)).setWidth 64
/-- A sysreg as it stands (R146). -/
def sysRead (s : State) (c : CoreId) (j : CtxId) (n : Nat) : Word :=
  let t := ctxAt s c j
  let k := coreAt s c
  match n with
  | 0x000 => t.status | 0x001 => t.epc | 0x002 => t.enpc | 0x003 => t.ennpc | 0x004 => t.enul.setWidth 64
  | 0x005 => t.ecause | 0x006 => t.eval | 0x007 => t.tvec
  | 0x010 => t.lc | 0x011 => t.lblk | 0x012 => t.rstart
  | 0x020 => k.phase.setWidth 64 | 0x021 => allowOf k | 0x022 => k.domcl.setWidth 64 | 0x023 => k.domdie.setWidth 64
  | 0x024 => k.dompkg.setWidth 64
  | 0x028 => k.bmask.get 0 | 0x029 => k.bmask.get 1 | 0x02A => k.bmask.get 2 | 0x02B => k.bmask.get 3
  | 0x02C => k.bmask.get 4 | 0x02D => k.bmask.get 5 | 0x02E => k.bmask.get 6 | 0x02F => k.bmask.get 7
  | 0x030 => k.peermask | 0x031 => ((k.bwfloor ++ k.bwph : BitVec 4)).setWidth 64
  | 0x032 => ((bankStates s c t.bankqSel ++ 0#5 ++ t.bankqSel : BitVec 56)).setWidth 64
  | 0x033 => BitVec.ofNat 64 s.ns
  | 0x040 => energyOf s k
  | 0x050 => t.srkey.setWidth 64 | 0x051 => t.srctr.setWidth 64 | 0x052 => boolWord t.cvtovf
  | 0x053 => t.fflags.setWidth 64
  | 0x060 => k.kcfg | 0x061 => k.kretry.setWidth 64
  | 0x070 => k.qsent.setWidth 64 | 0x071 => k.qrecv.setWidth 64
  | 0x080 => k.lcore.setWidth 64 | 0x081 => k.lclus.setWidth 64
  | 0x800 => t.sscratch | 0x801 => t.elc | 0x802 => t.elblk | 0x803 => t.erst
  | 0x804 => ipendOf s k | 0x805 => k.ienab.setWidth 64 | 0x806 => k.tcmp
  | 0x810 => t.asid.setWidth 64 | 0x811 => ((t.root ++ 0#17 : BitVec 52)).setWidth 64
  | _ => 0#64

/-! ### Writing -/

/-- STATUS as a SYSW leaves it (Table 6.7, R269): U mode reaches SCHK only, which stays 1 while DET = 1. -/
def statusWritten (t : Ctx) (v : Word) : Word :=
  let schk := stDet t || v.getLsbD 0
  if stPriv t then statusOf schk (stDet t) true (v.getLsbD 3) (v.getLsbD 4) (v.getLsbD 5) (stNd t) (v.getLsbD 7)
  else statusOf schk (stDet t) (stPriv t) (stPpriv t) (stIe t) (stPie t) (stNd t) (stPnd t)
/-- LBLK's writable fields (Table 6.8). -/
def lblkMask (v : Word) : Word := v &&& ~~~6#64
/-- A write of 0 to an ALLOW field stores 1 (R23). -/
def allowField (v : Byte) : Byte := if v = 0#8 then 1#8 else v
def allowWritten (v : Word) : Vector Byte 3 :=
  #v[allowField (v.extractLsb' 0 8), allowField (v.extractLsb' 8 8), allowField (v.extractLsb' 16 8)]
/-- BMASKk's writable fields (Table 1.4). -/
def bmaskMask (v : Word) : Word := v &&& 0x000FFFFFFFFFFF03#64
/-- PEERMASK's writable fields (Table 2.2). -/
def peermaskMask (v : Word) : Word := v &&& 0x3FF3FF1F#64
/-- KCFG's fields (Table 10.1). -/
def kcfgMask (v : Word) : Word := v &&& 0x0FFF0FFF1F1F1FFF#64
/-- ECAUSE's fields (Table 15.2). -/
def ecauseMask (v : Word) : Word := v &&& 0x3FFF1F#64
/-- PH as stored: a value below FLOOR stores FLOOR (Table 2.7). -/
def phWritten (floor ph : BitVec 2) : BitVec 2 := if ph < floor then floor else ph
/-- BWPHASE as a SYSW leaves it: S mode also writes FLOOR (R269). -/
def bwphaseWrite (priv : Bool) (v : Word) (k : Core) : Core :=
  let floor : BitVec 2 := if priv then v.extractLsb' 2 2 else k.bwfloor
  { k with bwfloor := floor, bwph := phWritten floor (v.extractLsb' 0 2) }

/-- The writes to a core's registers, with the mode's reach (Table 6.7, R268, R269). -/
def sysWriteCore (priv : Bool) (n : Nat) (v : Word) (k : Core) : Core :=
  match n with
  | 0x021 => { k with allow := allowWritten v }
  | 0x030 => { k with peermask := peermaskMask v }
  | 0x031 => bwphaseWrite priv v k
  | 0x060 => if priv then { k with kcfg := kcfgMask v } else k
  | 0x061 => { k with kretry := v.extractLsb' 0 3 }
  | 0x804 => if v.getLsbD 1 then { k with door := false } else k
  | 0x805 => { k with ienab := v.extractLsb' 0 2 }
  | 0x806 => { k with tcmp := v }
  | _ => if 0x028 ≤ n && n ≤ 0x02F then { k with bmask := vPut k.bmask (Fin.ofNat 8 (n - 0x028)) (bmaskMask v) } else k
/-- The writes to a context's registers; LC and LBLK are written after the step's own SEQ evaluation. -/
def sysWriteCtx (n : Nat) (v : Word) (t : Ctx) : Ctx :=
  match n with
  | 0x000 => { t with status := statusWritten t v }
  | 0x001 => { t with epc := v &&& ~~~3#64 }
  | 0x002 => { t with enpc := v &&& ~~~3#64 }
  | 0x003 => { t with ennpc := v &&& ~~~3#64 }
  | 0x004 => { t with enul := v.extractLsb' 0 2 }
  | 0x005 => { t with ecause := ecauseMask v }
  | 0x006 => { t with eval := v }
  | 0x007 => { t with tvec := v &&& ~~~7#64 }
  | 0x032 => { t with bankqSel := v.extractLsb' 0 3 }
  | 0x050 => { t with srkey := v.setWidth 32 }
  | 0x051 => { t with srctr := v.setWidth 32 }
  | 0x052 => { t with cvtovf := v.getLsbD 0 }
  | 0x053 => { t with fflags := v.setWidth 5 }
  | 0x800 => { t with sscratch := v }
  | 0x801 => { t with elc := v }
  | 0x802 => { t with elblk := lblkMask v }
  | 0x803 => { t with erst := v }
  | 0x810 => { t with asid := v.setWidth 9 }
  | 0x811 => { t with root := v.extractLsb' 17 35 }
  | _ => t
/-- The loop registers' write (R147). -/
def sysWriteLoop (n : Nat) (v : Word) (t : Ctx) : Ctx :=
  match n with
  | 0x010 => { t with lc := v }
  | 0x011 => { t with lblk := lblkMask v }
  | _ => t
/-- A write to BMASKk waits for the open generation of its channel (R23). -/
def bmaskBusy (k : Core) (n : Nat) : Bool :=
  decide (0x028 ≤ n) && decide (n ≤ 0x02F) && k.arr.getLsbD (n - 0x028)
/-- All a SYSW writes but LC and LBLK. -/
def sysWrite (s : State) (c : CoreId) (j : CtxId) (n : Nat) (v : Word) : State :=
  let priv := stPriv (ctxAt s c j)
  let s := modCtx (modCore s c (sysWriteCore priv n v)) c j (sysWriteCtx n v)
  if n = 0x060 && priv then reconfigure s (kcfgMask v) else s

/-! ### Major 0x16 and 0x17 -/

/-- An Illegal Instruction of the word at PC, judged before the registers are read (Table 15.3). -/
def illegalWord (s : State) (stl : Stl) (w : Word32) : Out := finish s stl 0 (.fault (wordTrap .illegal w))
/-- Whether the issuing context is in S mode. -/
def inS (s : State) : Bool := stPriv (ctxAt s s.cur.1 s.cur.2)

/-- SYSR: Reads a sysreg (R146). -/
def execSysr (stl : Stl) (d : Reg) (num : BitVec 12) (s : State) : Out :=
  if !sysLegal (inS s) num.toNat then illegalWord s stl (packI stl d 0#5 (num) 0x16#7) else
  instr s stl 0 [] fun c j => .done (writeX s c j d 1 (sysRead s c j num.toNat))
/-- SYSW: Writes a sysreg (R146). -/
def execSysw (stl : Stl) (a : Reg) (num : BitVec 12) (s : State) : Out :=
  if !sysLegal (inS s) num.toNat then illegalWord s stl (packI stl 0#5 a (num) 0x17#7) else
  instr s stl 0 [nx a] fun c j =>
    let v := readX s (ctxAt s c j) a
    if bmaskBusy (coreAt s c) num.toNat then .wait s false
    else .after (undiscard (sysWrite s c j num.toNat v) c j) (sysWriteLoop num.toNat v)

/-! ### Major 0x00 -/

/-- TRAP: Completes its step, raises Trap at the next boundary (R270). -/
def execTrap (stl : Stl) (k : BitVec 5) (s : State) : Out :=
  instr s stl 0 [] fun c j =>
    .done (modCtx s c j fun t => { t with trapDue := some t.pc.addr, trapLit := k })
/-- ERET: Return from a trap (R271). -/
def execEret (stl : Stl) (s : State) : Out :=
  if !inS s then illegalWord s stl (packR stl 0#5 0#5 0#5 (2#7) 0x00#7) else
  instr s stl 0 [] fun c j => .leave (returnTrap (traceIssue s c j 0) c j)
/-- An enabled interrupt source is pending (R266): DOOR before TIMER is only an order of evaluation. -/
def interruptPending (s : State) (k : Core) : Bool :=
  (k.ienab.getLsbD 1 && k.door) || (k.ienab.getLsbD 0 && decide (k.tcmp.toNat ≤ s.ns))
/-- WFI: Waits for an enabled interrupt or a pending pre-emption (R272). An interrupt that ends the wait is taken at the boundary after
it. -/
def execWfi (stl : Stl) (s : State) : Out :=
  if !inS s then illegalWord s stl (packR stl 0#5 0#5 0#5 (3#7) 0x00#7) else
  instr s stl 0 [] fun c j =>
    if prePending (coreAt s c) || interruptPending s (coreAt s c) then .done s
    else .wait (modCtx s c j fun t => { t with wait := .wfi }) false

/-- The cores of the partition of die `d`. -/
def partCores (s : State) (d : DieId) : List CoreId :=
  (List.range (partOfDie s d).ndies).flatMap fun i => dieCores (physDie s d i)
/-- The dies of the partition of die `d`. -/
def partDies (s : State) (d : DieId) : List DieId :=
  (List.range (partOfDie s d).ndies).map (physDie s d)
/-- A cached entry that TLBINV removes (R273). -/
def tlbHit (mode : Nat) (asid : BitVec 9) (va : Word) (e : TlbEntry) : Bool :=
  let ours := e.asid == asid || (peT e.entry && peG e.entry)
  match mode with
  | 0 => ours && decide (e.vbase ≤ va.toNat % 2 ^ 56) && decide (va.toNat % 2 ^ 56 < e.vbase + e.size)
  | 1 => ours
  | 2 => true
  | _ => false
/-- A merge operation of the partition still pins a translation that the TLBINV removes: a put on its way to any die, or an MZERO in
progress (R298). -/
def pinned (s : State) (ds : List DieId) (mode : Nat) (asid : BitVec 9) (va : Word) : Bool :=
  s.dies.toList.any fun d =>
    (d.puts.any fun p => ds.contains (coreDie p.who.core) && p.pin.any (tlbHit mode asid va)) ||
    d.wins.any fun w => w.zeroer.any (fun z => ds.contains (coreDie z.1)) && w.zeroPin.any (tlbHit mode asid va)
/-- A buffered store that pins a translation which the TLBINV removes, until it drains; no other pin is waited for (R298, R303). -/
def pinsStore (mode : Nat) (asid : BitVec 9) (va : Word) : SbItem → Bool
  | .store _ _ _ _ _ _ pin => pin.any (tlbHit mode asid va)
  | .fence _ _ _ _ => false
/-- Some such store of the partition cannot drain yet. -/
def pinsHeld (s : State) (cs : List CoreId) (mode : Nat) (asid : BitVec 9) (va : Word) : Bool :=
  cs.any fun c => allCtxs.any fun j => settleHeld s c j (pinsStore mode asid va)
/-- Every such store of the partition has drained: the pins of core stores have cleared (R298). -/
def drainPart (s : State) (cs : List CoreId) (mode : Nat) (asid : BitVec 9) (va : Word) : State :=
  cs.foldl (fun s c => if (coreAt s c).ctxs.toList.any (fun t => !t.sbuf.isEmpty)
    then allCtxs.foldl (fun s j => settle s c j (pinsStore mode asid va)) s else s) s
/-- Every L1 of the partition written back and invalidated (R299); R87 allows as much for MODE 0. -/
def flushPart (s : State) (cs : List CoreId) : State :=
  cs.foldl (fun s c => if (coreAt s c).l1.isEmpty then s
    else modCore (writeBackAll s c none) c fun k => { k with l1 := [], l1Poison := [] }) s
/-- TLBINV: Invalidates translations (R273, R299). -/
def execTlbinv (stl : Stl) (a b : Reg) (s : State) : Out :=
  if !inS s then illegalWord s stl (packR stl 0#5 a b (4#7) 0x00#7) else
  instr s stl 0 [nx a, nx b] fun c j =>
    let t := ctxAt s c j
    let va := readX s t a
    let v := readX s t b
    let asid : BitVec 9 := v.extractLsb' 0 9
    let mode := (v.extractLsb' 9 2).toNat
    let cs := partCores s (coreDie c)
    let ds := partDies s (coreDie c)
    if releaseHeld s c j || pinsHeld s cs mode asid va || pinned s ds mode asid va then .wait s false else
    let s := writeBackAll (releaseStamp s c j .pkg).1 c none
    if mode = 3 then .done s else
    let s := flushPart (drainPart (settleAccesses s) cs mode asid va) cs
    .done (ds.foldl (fun s d => modDie s d fun e => { e with tlb := e.tlb.filter (!tlbHit mode asid va ·) }) s)

/-- The line that CFLUSH or CINV names, none outside region 0x00, after check 7 of Table 7.1 (R274). -/
def lineOf (s : State) (c : CoreId) (j : CtxId) (kind : AccKind) (ea : Word) : Except Act (Option Nat) :=
  if region ea != 0 then .ok none else
  let w := whoOf s c j
  match translate s (coreDie c) w.asid w.root kind w.priv ea with
  | .error t => .error (.faultIn (walked s w kind ea) t)
  | .ok (.mem pa _) => .ok (some (pa / 256))
  | .ok _ => .ok none
/-- An entry of a store buffer that stores into a line. -/
def inLine (line : Nat) : SbItem → Bool := itemMeets (.mem (line * 256) false) 256
/-- CFLUSH: Writes a line back (R274). -/
def execCflush (stl : Stl) (a : Reg) (s : State) : Out :=
  instr s stl 5 [nx a] fun c j =>
    match lineOf s c j .load (readX s (ctxAt s c j) a) with
    | .error act => act
    | .ok none => .done s
    | .ok (some l) =>
      let s := walked s (whoOf s c j) .load (readX s (ctxAt s c j) a)
      if buffersHeld s c j then .wait s false else .done (writeBackLine (settle s c j (inLine l)) c l none)
/-- CINV: Invalidates a line, discarding dirty bytes (R274). -/
def execCinv (stl : Stl) (a : Reg) (s : State) : Out :=
  if !inS s then illegalWord s stl (packR stl 0#5 a 0#5 (6#7) 0x00#7) else
  instr s stl 5 [nx a] fun c j =>
    match lineOf s c j .store (readX s (ctxAt s c j) a) with
    | .error act => act
    | .ok none => .done s
    | .ok (some l) =>
      let s := walked s (whoOf s c j) .store (readX s (ctxAt s c j) a)
      if buffersHeld s c j then .wait s false
      else .done (modCore (settle s c j (inLine l)) c fun k => dropLine k l)
/-- IFENCE: Instruction fence (R275). -/
def execIfence (stl : Stl) (s : State) : Out :=
  instr s stl 0 [] fun c j =>
    if buffersHeld s c j then .wait s false
    else .done (modCore (writeBackAll (drainAll s c j) c none) c fun k => { k with icache := [], fetchPoison := [] })
/-- BKPT: Raises Breakpoint (R270). -/
def execBkpt (stl : Stl) (s : State) : Out :=
  instr s stl 0 [] fun c j => debugMatch (coreAt s c) 0 (ctxAt s c j).pc.addr

end Sys2Proof.Machine
end

