-- ==== Sys2Proof/Machine/MemInstr.lean ====
section
/-! DEFINITION. Loads, stores, prefetch, atomics and FENCE (R149–R159). -/

namespace Sys2Proof.Machine

/-- LD_B: Plain load (R151, Table 7.2). -/
def execLdB (stl : Stl) (d a : Reg) (off : BitVec 9) (s : State) : Out := load s stl d a off 1 true
/-- LD_BU: Plain load (R151, Table 7.2). -/
def execLdBu (stl : Stl) (d a : Reg) (off : BitVec 9) (s : State) : Out := load s stl d a off 1 false
/-- LD_H: Plain load (R151, Table 7.2). -/
def execLdH (stl : Stl) (d a : Reg) (off : BitVec 9) (s : State) : Out := load s stl d a off 2 true
/-- LD_HU: Plain load (R151, Table 7.2). -/
def execLdHu (stl : Stl) (d a : Reg) (off : BitVec 9) (s : State) : Out := load s stl d a off 2 false
/-- LD_W: Plain load (R151, Table 7.2). -/
def execLdW (stl : Stl) (d a : Reg) (off : BitVec 9) (s : State) : Out := load s stl d a off 4 true
/-- LD_WU: Plain load (R151, Table 7.2). -/
def execLdWu (stl : Stl) (d a : Reg) (off : BitVec 9) (s : State) : Out := load s stl d a off 4 false
/-- LD_D: Plain load (R151, Table 7.2). -/
def execLdD (stl : Stl) (d a : Reg) (off : BitVec 9) (s : State) : Out := load s stl d a off 8 false
/-- ST_B: Plain store (R153). -/
def execStB (stl : Stl) (d a : Reg) (off : BitVec 9) (s : State) : Out := store s stl d a off 1
/-- ST_H: Plain store (R153). -/
def execStH (stl : Stl) (d a : Reg) (off : BitVec 9) (s : State) : Out := store s stl d a off 2
/-- ST_W: Plain store (R153). -/
def execStW (stl : Stl) (d a : Reg) (off : BitVec 9) (s : State) : Out := store s stl d a off 4
/-- ST_D: Plain store (R153). -/
def execStD (stl : Stl) (d a : Reg) (off : BitVec 9) (s : State) : Out := store s stl d a off 8
/-- ST_Q: Plain store (R153). -/
def execStQ (stl : Stl) (d a : Reg) (off : BitVec 9) (s : State) : Out := store s stl d a off 16
/-- LD_B_ACQ: Acquire load (R152). -/
def execLdBAcq (stl : Stl) (d a : Reg) (sc : Scope) (s : State) : Out := loadAcq s stl d a sc 1 true
/-- LD_BU_ACQ: Acquire load (R152). -/
def execLdBuAcq (stl : Stl) (d a : Reg) (sc : Scope) (s : State) : Out := loadAcq s stl d a sc 1 false
/-- LD_H_ACQ: Acquire load (R152). -/
def execLdHAcq (stl : Stl) (d a : Reg) (sc : Scope) (s : State) : Out := loadAcq s stl d a sc 2 true
/-- LD_HU_ACQ: Acquire load (R152). -/
def execLdHuAcq (stl : Stl) (d a : Reg) (sc : Scope) (s : State) : Out := loadAcq s stl d a sc 2 false
/-- LD_W_ACQ: Acquire load (R152). -/
def execLdWAcq (stl : Stl) (d a : Reg) (sc : Scope) (s : State) : Out := loadAcq s stl d a sc 4 true
/-- LD_WU_ACQ: Acquire load (R152). -/
def execLdWuAcq (stl : Stl) (d a : Reg) (sc : Scope) (s : State) : Out := loadAcq s stl d a sc 4 false
/-- LD_D_ACQ: Acquire load (R152). -/
def execLdDAcq (stl : Stl) (d a : Reg) (sc : Scope) (s : State) : Out := loadAcq s stl d a sc 8 false
/-- ST_B_REL: Ordered store, .rel or .ar (R154). -/
def execStBRel (stl : Stl) (ar : Bool) (sc : Scope) (a b : Reg) (s : State) : Out := storeRel s stl ar sc a b 1
/-- ST_H_REL: Ordered store, .rel or .ar (R154). -/
def execStHRel (stl : Stl) (ar : Bool) (sc : Scope) (a b : Reg) (s : State) : Out := storeRel s stl ar sc a b 2
/-- ST_W_REL: Ordered store, .rel or .ar (R154). -/
def execStWRel (stl : Stl) (ar : Bool) (sc : Scope) (a b : Reg) (s : State) : Out := storeRel s stl ar sc a b 4
/-- ST_D_REL: Ordered store, .rel or .ar (R154). -/
def execStDRel (stl : Stl) (ar : Bool) (sc : Scope) (a b : Reg) (s : State) : Out := storeRel s stl ar sc a b 8
/-- ST_Q_REL: Ordered store, .rel or .ar (R154). -/
def execStQRel (stl : Stl) (ar : Bool) (sc : Scope) (a b : Reg) (s : State) : Out := storeRel s stl ar sc a b 16
/-- ST_B_CNT: Counted remote store (R155). -/
def execStBCnt (stl : Stl) (d a : Reg) (off : BitVec 9) (s : State) : Out := storeCnt s stl d a off 1
/-- ST_H_CNT: Counted remote store (R155). -/
def execStHCnt (stl : Stl) (d a : Reg) (off : BitVec 9) (s : State) : Out := storeCnt s stl d a off 2
/-- ST_W_CNT: Counted remote store (R155). -/
def execStWCnt (stl : Stl) (d a : Reg) (off : BitVec 9) (s : State) : Out := storeCnt s stl d a off 4
/-- ST_D_CNT: Counted remote store (R155). -/
def execStDCnt (stl : Stl) (d a : Reg) (off : BitVec 9) (s : State) : Out := storeCnt s stl d a off 8

/-- The prefetch of a byte, after the reads of its walk: its sector enters the L1 as clean (R156). -/
def prefetchAt (s : State) (c : CoreId) (j : CtxId) (ea : Word) : State :=
  let s := walked s (whoOf s c j) .load ea
  match place s (whoOf s c j) .load ea 1 1 with
  | .ok (.mem pa false) => if (coreAt s c).l1k == 0 then s else fillSector s c pa
  | .ok (.weight d off) => if (coreAt s c).l1k == 0 then s else fillWeight s c d off
  | _ => s
/-- PFCH: Prefetch (R156). -/
def execPfch (stl : Stl) (a : Reg) (off : BitVec 12) (s : State) : Out :=
  instr s stl 5 [nx a] fun c j =>
    .done (if Config.prefetchFills s.free then prefetchAt s c j (readX s (ctxAt s c j) a + sext64 off) else s)

/-- AMOSWAP: Atomic (R157, Table 7.3). -/
def execAmoSwap (stl : Stl) (far dw : Bool) (ord : MemOrder) (d a b : Reg) (s : State) : Out :=
  amoOp s stl far dw ord d a b fun _ _ y => y
/-- AMOADD: Atomic (R157, Table 7.3). -/
def execAmoAdd (stl : Stl) (far dw : Bool) (ord : MemOrder) (d a b : Reg) (s : State) : Out :=
  amoOp s stl far dw ord d a b fun _ x y => x + y
/-- AMOAND: Atomic (R157, Table 7.3). -/
def execAmoAnd (stl : Stl) (far dw : Bool) (ord : MemOrder) (d a b : Reg) (s : State) : Out :=
  amoOp s stl far dw ord d a b fun _ x y => x &&& y
/-- AMOOR: Atomic (R157, Table 7.3). -/
def execAmoOr (stl : Stl) (far dw : Bool) (ord : MemOrder) (d a b : Reg) (s : State) : Out :=
  amoOp s stl far dw ord d a b fun _ x y => x ||| y
/-- AMOXOR: Atomic (R157, Table 7.3). -/
def execAmoXor (stl : Stl) (far dw : Bool) (ord : MemOrder) (d a b : Reg) (s : State) : Out :=
  amoOp s stl far dw ord d a b fun _ x y => x ^^^ y
/-- AMOMIN: Atomic (R157, Table 7.3). -/
def execAmoMin (stl : Stl) (far dw : Bool) (ord : MemOrder) (d a b : Reg) (s : State) : Out :=
  amoOp s stl far dw ord d a b fun _ x y => smin x y
/-- AMOMAX: Atomic (R157, Table 7.3). -/
def execAmoMax (stl : Stl) (far dw : Bool) (ord : MemOrder) (d a b : Reg) (s : State) : Out :=
  amoOp s stl far dw ord d a b fun _ x y => smax x y
/-- AMOMINU: Atomic (R157, Table 7.3). -/
def execAmoMinu (stl : Stl) (far dw : Bool) (ord : MemOrder) (d a b : Reg) (s : State) : Out :=
  amoOp s stl far dw ord d a b fun _ x y => umin x y
/-- AMOMAXU: Atomic (R157, Table 7.3). -/
def execAmoMaxu (stl : Stl) (far dw : Bool) (ord : MemOrder) (d a b : Reg) (s : State) : Out :=
  amoOp s stl far dw ord d a b fun _ x y => umax x y
/-- AMOCAS: Compare and swap (R158). -/
def execAmocas (stl : Stl) (far dw : Bool) (ord : MemOrder) (d a b : Reg) (s : State) : Out :=
  amo s stl far dw ord [nx d, nx a, nx b] d a fun t old =>
    let m := if dw then 2 ^ 64 else 2 ^ 32
    if old = (readX s t d).toNat % m then some ((readX s t b).toNat % m) else none

/-! FENCE (R90): a fence with W in its predecessor set is an entry of the store buffer that later accesses of its successor set wait
for; with R there too, the older loads are performed before it goes. Before one with R alone the context's late loads have been
performed as it issues, and it invalidates the clean bytes at once where R is in the successor set. -/
/-- FENCE: Fence (R159, R90). A merge put counts as an access of kind W, the reading of its source as one of kind R (DESIGN CHOICE,
log 94): a fence with W in its predecessor set waits for the puts on their way. -/
def execFence (stl : Stl) (sc : Scope) (succ pred : BitVec 2) (s : State) : Out :=
  instr s stl 5 [] fun c j =>
    if pred.getLsbD 1 && putsTravel s c j then .wait s false
    else if pred.getLsbD 1 then .done (modCtx s c j fun t => { t with sbuf := t.sbuf ++ [.fence pred succ sc (sbEpoch t)] })
    else .done (if wide sc && succ.getLsbD 0 then invalidateClean s c else s)

end Sys2Proof.Machine
end

