-- ==== Sys2Proof/Machine/Sync.lean ====
section
/-! DEFINITION. Barriers, phases, quiescence and sleep (R23–R29, R34, R94, R160, R161). -/

namespace Sys2Proof.Machine

/-! ### Groups of a channel (R25) -/

/-- SCOPE of a BMASK value: 0 cluster, 1 die, 2 package, 3 local. -/
def bmScope (v : Word) : Nat := v.toNat % 4
/-- The scope of a channel's releases and acquires. -/
def bmOrder (v : Word) : Scope :=
  match bmScope v with
  | 0 => .cl
  | 1 => .die
  | 2 => .pkg
  | _ => .core
/-- Core `m` lies in core `c`'s domain at a level: own cluster, own logical die, whole partition (R24). -/
def inDomain (s : State) (level : Nat) (c m : CoreId) : Bool :=
  let a := coreAt s c
  let b := coreAt s m
  match level with
  | 0 => a.lcore.toNat / 8 == b.lcore.toNat / 8
  | 1 => ldieOf a == ldieOf b
  | _ => true
/-- Core `m` is selected by a BMASK value at its scope. -/
def bmSelects (v : Word) (m : Core) : Bool :=
  match bmScope v with
  | 0 => v.getLsbD (8 + cicOf m)
  | 1 => v.getLsbD (16 + cidOf m)
  | 2 => v.getLsbD (48 + ldieOf m)
  | _ => false
/-- G(c) of a channel. -/
def groupOf (s : State) (c : CoreId) (k : BitVec 3) : List CoreId :=
  let v := (coreAt s c).bmask.get k.toFin
  if bmScope v = 3 || !bmSelects v (coreAt s c) then [c]
  else (teamCores s c).filter fun m =>
    inDomain s (bmScope v) c m && bmSelects v (coreAt s m) && (coreAt s m).bmask.get k.toFin == v
/-- A halted core holds a completion of the channel that it has not been told of (R358). -/
def completionQueued (q : Core) (k : BitVec 3) : Bool :=
  q.dbg.queued.any fun e => match e with
    | .generation i _ _ _ => i == k
    | .door => false
    | .stop _ => false
/-- A core has arrived in the open generation of a channel. -/
def hasArrived (q : Core) (k : BitVec 3) : Bool := q.arr.getLsbD k.toNat && !completionQueued q k
/-- A completed generation reaches a member (R26); its members and the stamps of their arrivals are kept for the acquires
(R94). A completion is a wake event (R161). -/
def recordGeneration (k : BitVec 3) (band bor : Bool) (members : List (Nat × Nat)) (q : Core) : Core :=
  wakeSleepers
    { q with resAnd := putBit q.resAnd k.toNat band, resOr := putBit q.resOr k.toNat bor, arr := putBit q.arr k.toNat false,
             ready := putBit q.ready k.toNat true, genMembers := vPut q.genMembers k.toFin members }
/-- A member that the debugger has halted is told when it resumes (R358). -/
def tellGeneration (k : BitVec 3) (band bor : Bool) (members : List (Nat × Nat)) (q : Core) : Core :=
  if q.dbg.halt then
    { q with dbg := { q.dbg with queued := q.dbg.queued ++ [.generation k band bor members] } }
  else recordGeneration k band bor members q
/-- Completes the open generation of a group when every member has arrived (R26). -/
def completeGroup (s : State) (g : List CoreId) (k : BitVec 3) : State :=
  if g.isEmpty || !(g.all fun m => hasArrived (coreAt s m) k) then s else
  let band := g.all fun m => (coreAt s m).vote.getLsbD k.toNat
  let bor := g.any fun m => (coreAt s m).vote.getLsbD k.toNat
  let members := g.map fun m => (m.val, (coreAt s m).arrStamp.get k.toFin)
  g.foldl (fun s m => modCore s m (tellGeneration k band bor members)) s
/-- Completes the open generation of c's group. -/
def completeGeneration (s : State) (c : CoreId) (k : BitVec 3) : State := completeGroup s (groupOf s c k) k

/-! ### The instructions of Table 7.4 -/

/-- A re-executed ARRIVE takes a credit and does nothing else (R34). It stands for the arrival again, which a further discard of
the region credits again (Table 1.7). -/
def takeCredit (t : Ctx) (k : BitVec 3) : Ctx :=
  { t with credit := vPut t.credit k.toFin (t.credit.get k.toFin - 1)
           arrived := vPut t.arrived k.toFin (t.arrived.get k.toFin + 1) }
/-- A re-executed PHASE takes a credit, in the same way. -/
def takePhaseCredit (t : Ctx) : Ctx := { t with phaseCredit := t.phaseCredit - 1, phased := t.phased + 1 }
/-- An ARRIVE of a U-mode region is one made since RSTART; a handler's is no part of the region (R30, R261). -/
def noteArrival (k : BitVec 3) (t : Ctx) : Ctx :=
  if stPriv t then t else { t with arrived := vPut t.arrived k.toFin (t.arrived.get k.toFin + 1) }
/-- The same of PHASE. -/
def notePhase (t : Ctx) : Ctx := if stPriv t then t else { t with phased := t.phased + 1 }
/-- An arrival: a release at the channel's scope, then ARR, VOTE and READY (R26). -/
def arrive (s : State) (c : CoreId) (j : CtxId) (k : BitVec 3) (v : Bool) : State :=
  let r := releaseStamp s c j (bmOrder ((coreAt s c).bmask.get k.toFin))
  let s := modCtx r.1 c j (noteArrival k)
  modCore s c fun q =>
    { q with arr := putBit q.arr k.toNat true, vote := putBit q.vote k.toNat v, ready := putBit q.ready k.toNat false
             arrStamp := vPut q.arrStamp k.toFin r.2 }
/-- An arrival on a channel whose group is the core alone completes its generation at once (R25); a larger group's generation
completes in an event of its own (log 24). -/
def arriveAlone (s : State) (c : CoreId) (j : CtxId) (k : BitVec 3) (v : Bool) : State :=
  if groupOf s c k = [c] then completeGroup (arrive s c j k v) [c] k else arrive s c j k v
/-- ARRIVE: Barrier arrival (R26). -/
def execArrive (stl : Stl) (a : Reg) (ch : BitVec 3) (s : State) : Out :=
  instr s stl 0 [nx a] fun c j =>
    let t := ctxAt s c j
    if !stPriv t && 0 < t.credit.get ch.toFin then .done (modCtx s c j fun t => takeCredit t ch)
    else if (coreAt s c).arr.getLsbD ch.toNat || releaseHeld s c j then .wait s false
    else .done (arriveAlone s c j ch ((readX s t a).getLsbD 0))

/-- The acquire of a channel's last generation at its scope (R94). -/
def acquireChannel (s : State) (c : CoreId) (k : BitVec 3) : State :=
  if wide (bmOrder ((coreAt s c).bmask.get k.toFin)) then
    let s := ((coreAt s c).genMembers.get k.toFin).foldl (fun s m => writeBackAll s (coreId m.1) (some m.2)) s
    invalidateClean s c
  else s
/-- A channel's result is read and its READY cleared. -/
def readChannel (s : State) (c : CoreId) (k : BitVec 3) : State :=
  modCore (acquireChannel s c k) c fun q => { q with ready := putBit q.ready k.toNat false }
/-- WAITB: Barrier wait (R26). -/
def execWaitb (stl : Stl) (d : Reg) (ch : BitVec 3) (s : State) : Out :=
  instr s stl 0 [] fun c j =>
    let q := coreAt s c
    let i := ch.toNat
    if q.arr.getLsbD i then .wait s true
    else if readHeld s c j then .wait s false
    else .done (writeX (readChannel (beforeRead s c j) c ch) c j d 1
      ((BitVec.ofBool (q.resOr.getLsbD i) ++ BitVec.ofBool (q.resAnd.getLsbD i) : BitVec 2).setWidth 64))

/-- The first ready channel of a mask in the order START, START + 1, … (R26). -/
def readyChannel (q : Core) (mask : BitVec 8) : Option (BitVec 3) :=
  ((List.range 8).map fun i => q.start + BitVec.ofNat 3 i).find? fun k => q.ready.getLsbD k.toNat && mask.getLsbD k.toNat
/-- WANY: Waits for any channel of a mask (R26). -/
def execWany (stl : Stl) (d : Reg) (mask : BitVec 8) (s : State) : Out :=
  instr s stl 0 [] fun c j =>
    if mask = 0#8 then .done (writeX s c j d 1 (1#64 <<< 63)) else
    match readyChannel (coreAt s c) mask with
    | none => .wait s true
    | some k =>
      if readHeld s c j then .wait s false else
      let q := coreAt s c
      let v : BitVec 5 := BitVec.ofBool (q.resOr.getLsbD k.toNat) ++ BitVec.ofBool (q.resAnd.getLsbD k.toNat) ++ k
      let s := modCore (readChannel (beforeRead s c j) c k) c fun q => { q with start := k + 1#3 }
      .done (writeX s c j d 1 (v.setWidth 64))

/-- The gate of one level: every core of the domain holds a count not behind p + 1 − A (R24). A count that the gate uses may lag behind
the true count; the model uses the true counts of that step (DESIGN CHOICE, log 112). -/
def gateOpen (s : State) (c : CoreId) (level : Nat) (a : Byte) : Bool :=
  a == 255#8 || (teamCores s c).all fun m =>
    !inDomain s level c m ||
      decide (((coreAt s m).phase - ((coreAt s c).phase + 1#32 - a.setWidth 32)).toNat < 2 ^ 31)
/-- PHASE: Advances the phase counter (R24). -/
def execPhase (stl : Stl) (s : State) : Out :=
  instr s stl 0 [] fun c j =>
    ctx0Only j (packR stl 0#5 0#5 0#5 (2#7) 0x26#7) <|
    let q := coreAt s c
    if !stPriv (ctxAt s c j) && 0 < (ctxAt s c j).phaseCredit then .done (modCtx s c j takePhaseCredit)
    else if gateOpen s c 0 (q.allow.get 0) && gateOpen s c 1 (q.allow.get 1) && gateOpen s c 2 (q.allow.get 2) then
      let s := modCore s c fun q => { q with phase := q.phase + 1 }
      .done (modCtx s c j notePhase)
    else .wait s true

/-- One wave (R29): the totals of QSENT and QRECV over the team, told to every context of it that waits in QWAIT. -/
def wave (s : State) (c : CoreId) : State :=
  let cs := teamCores s c
  let sent := cs.foldl (fun n m => n + (coreAt s m).qsent) 0#32
  let recv := cs.foldl (fun n m => n + (coreAt s m).qrecv) 0#32
  let see (t : Ctx) : Ctx :=
    match t.wait with
    | .qwait last none =>
      if sent != recv then { t with wait := .qwait none none }
      else if last == some sent then { t with wait := .qwait last (some sent) }
      else { t with wait := .qwait (some sent) none }
    | _ => t
  cs.foldl (fun s m => modCore s m fun q => { q with ctxs := q.ctxs.map see }) s
/-- QWAIT: Quiescence wait (R29). -/
def execQwait (stl : Stl) (d : Reg) (s : State) : Out :=
  instr s stl 0 [] fun c j =>
    match (ctxAt s c j).wait with
    | .qwait _ (some v) =>
      if readHeld s c j then .wait s false
      else .done (writeX (invalidateClean (beforeRead s c j) c) c j d 1 (v.setWidth 64))
    | .qwait _ none => .wait s true
    | _ => .wait (modCtx s c j fun t => { t with wait := .qwait none none }) true

/-- SLEEP: Sleep (R161). -/
def execSleep (stl : Stl) (a : Reg) (s : State) : Out :=
  instr s stl 0 [nx a] fun c j =>
    let n := (lo32 (readX s (ctxAt s c j) a)).toNat
    if n = 0 then .done s else
    match (ctxAt s c j).wait with
    | .sleep dl woken => if woken || decide (dl ≤ s.ns) then .done s else .wait s true
    | _ => .wait (modCtx s c j fun t => { t with wait := .sleep (s.ns + n) false }) true

end Sys2Proof.Machine
end

