-- ==== Sys2Proof/Machine/Rings.lean ====
section
/-! DEFINITION. Rings (R211–R213) and stream registers (R187–R190). -/

namespace Sys2Proof.Machine

/-! ### Rings -/

def ringAt (s : State) (c : CoreId) (r : BitVec 3) : Ring := (coreAt s c).rings.get r.toFin
def modRing (s : State) (c : CoreId) (r : BitVec 3) (f : Ring → Ring) : State :=
  modCore s c fun k => { k with rings := vPut k.rings r.toFin (f (k.rings.get r.toFin)) }
/-- Offset in the scratchpad of a slot. -/
def slotOff (r : Ring) (i : Nat) : Nat := r.base + i * r.slot
/-- The SELF-window address of an offset (R38). -/
def selfVa (off : Nat) : Word := BitVec.ofNat 64 (2 * 2 ^ 56 + off)
/-- A slot is available on a side: FREE and the slot at HEAD, or FILLED and the slot at TAIL, which no engine holds (R212). -/
def slotReady (r : Ring) (produce : Bool) : Bool :=
  if produce then decide (0 < r.free) && r.prod.isNone else decide (0 < r.filled) && r.cons.isNone
/-- The index of the slot taken next on a side. -/
def slotIndex (r : Ring) (produce : Bool) : Nat := if produce then r.head else r.tail
/-- A slot returned by a producer is filled, one returned by a consumer is free (R212). -/
def giveSlot (produce : Bool) (r : Ring) : Ring :=
  if produce then { r with head := (r.head + 1) % r.count, free := r.free - 1, filled := r.filled + 1 }
  else { r with tail := (r.tail + 1) % r.count, filled := r.filled - 1, free := r.free + 1 }
/-- The stream of a core that is bound to a ring. -/
def ringStream (k : Core) (i : Nat) : Option Stream := k.streams.toList.find? fun b => b.kind == .ring && b.ring.toNat == i
/-- A context holds the slot at TAIL, or with `head` the one at HEAD: its stream says which, else the core's side does (R212). -/
def heldAt (k : Core) (i : Fin 8) (head : Bool) : Bool :=
  let r := k.rings.get i
  r.held && (match ringStream k i.val with
    | some b => b.out == head
    | none => r.side == head)
/-- The descriptor of a copy job as it stands for its submitter, before the job has read it. -/
def namedDesc (s : State) (b : CopyJob) : BitVec 512 :=
  if b.started || b.form == .cpy then b.desc else
  match place s b.who .load b.descVa 64 1 with
  | .ok p => BitVec.ofNat 512 (leNat ((List.range 64).map fun i => peekByte s b.who.core [] (placeAdd p i)))
  | _ => 0#512
/-- An accepted engine job names a ring of core `c` (R211). -/
def ringBusy (s : State) (c : CoreId) (r : BitVec 3) : Bool :=
  let g := clusterAt s (clusterOf s c)
  (g.engine.queue.any fun q => q.who.core == c && (match q.op with
    | .ldw _ i => i == r
    | .mul _ _ i _ _ => i == r
    | _ => false)) ||
  g.jobs.any fun b =>
    b.who.core == c && b.form != .cpy && (namedDesc s b).getLsbD 392 && (namedDesc s b).extractLsb' 0 3 == r

/-- Ring Misuse of a word (Table 15.3). -/
def misuse (w : Word32) : Act := .fault (wordTrap .ringMisuse w)

/-- The scratchpad offset of a ring's base: through SELF or the core's own peer window (R211). -/
def ringBase (k : Core) (va : Word) : Option Nat :=
  let off := va.toNat % 0x80000
  if region va = 2 then (if va.extractLsb' 19 37 = 0#37 then some off else none)
  else if region va = 1 then
    (if va.extractLsb' 29 27 = 0#27 && va.toNat / 0x80000 % 1024 == k.lcore.toNat then some off else none)
  else none
/-- The binding that RBIND's operands ask for, if they keep its rules (R211). -/
def ringFrom (k : Core) (base size count : Word) : Option Ring :=
  let slot := (lo32 size).toNat
  let n := count.toNat % 0x10000
  if n = 0 then some .unbound else
  match ringBase k base with
  | none => none
  | some off =>
    if slot % 16 = 0 && 16 ≤ slot && slot ≤ 65536 && n ≤ 4096 && off % 16 = 0 && off + n * slot ≤ k.grant * 8192 then
      some { Ring.unbound with bound := true, base := off, slot := slot, count := n, side := count.getLsbD 16, free := n }
    else none
/-- RBIND: Binds or unbinds a ring (R211). -/
def execRbind (stl : Stl) (ring : BitVec 3) (a b c : Reg) (s : State) : Out :=
  instr s stl 0 [nx a, nx b, nx c] fun p j =>
    let t := ctxAt s p j
    let r := ringAt s p ring
    match ringFrom (coreAt s p) (readX s t a) (readX s t b) (readX s t c) with
    | none => misuse (packRC stl (0#2 ++ ring) a b c (0#2) 0x4C#7)
    | some new =>
      if r.strm || r.held || ringBusy s p ring then misuse (packRC stl (0#2 ++ ring) a b c (0#2) 0x4C#7)
      else .done (modRing s p ring fun _ => new)

/-- The context acquired the held slot since its RSTART (R212). -/
def heldHere (t : Ctx) (r : BitVec 3) : Bool := t.ringsHeld.any fun e => e.1 == r.toNat && e.2
/-- Notes that a context holds a ring's slot. -/
def noteHeld (t : Ctx) (r : BitVec 3) : Ctx := { t with ringsHeld := (r.toNat, true) :: t.ringsHeld.filter (·.1 != r.toNat) }
/-- RACQ: Ring instruction (R212). -/
def execRacq (stl : Stl) (d : Reg) (ring : BitVec 3) (s : State) : Out :=
  instr s stl 0 [] fun c j =>
    let r := ringAt s c ring
    let va := selfVa (slotOff r (slotIndex r r.side))
    if !r.bound || r.strm then misuse (packR stl d 0#5 (0#2 ++ ring) (0#7) 0x4D#7)
    else if r.held then (if heldHere (ctxAt s c j) ring then .done (writeX s c j d 1 va) else misuse (packR stl d 0#5 (0#2 ++ ring) (0#7) 0x4D#7))
    else if !slotReady r r.side then .wait s true
    else if readHeld s c j then .wait s false
    else
      let s := invalidateClean (beforeRead s c j) c
      let s := modRing s c ring fun r => { r with held := true }
      .done (writeX (modCtx s c j fun t => noteHeld t ring) c j d 1 va)
/-- A ring's slot goes back with the stamp of its release: HELD clears and no context holds it any more. -/
def returnSlot (s : State) (c : CoreId) (ring : BitVec 3) (produce : Bool) (st : Nat) : State :=
  let s := modRing s c ring fun r => { giveSlot produce r with held := false, rel := st }
  modCore s c fun k =>
    { k with ctxs := k.ctxs.map fun t => { t with ringsHeld := t.ringsHeld.filter (·.1 != ring.toNat) } }
/-- RREL: Ring instruction (R212). -/
def execRrel (stl : Stl) (d : Reg) (ring : BitVec 3) (s : State) : Out :=
  instr s stl 0 [] fun c j =>
    let r := ringAt s c ring
    if !r.bound || r.strm || !r.held then misuse (packR stl d 0#5 (0#2 ++ ring) (1#7) 0x4D#7)
    else if releaseHeld s c j then .wait s false
    else
      let rel := releaseStamp s c j .cl
      let s := undiscard (returnSlot rel.1 c ring r.side rel.2) c j
      .done (writeX s c j d 1 (BitVec.ofNat 64 (slotIndex r r.side)))
/-- The word of Table 9.6. -/
def rstatWord (r : Ring) : Word :=
  if !r.bound then 0#64 else
  BitVec.ofBool r.bound ++ BitVec.ofBool r.strm ++ BitVec.ofBool r.side ++ BitVec.ofBool r.held ++
    BitVec.ofNat 12 r.tail ++ 0#4 ++ BitVec.ofNat 12 r.head ++ 0#3 ++ BitVec.ofNat 13 r.filled ++ 0#3 ++
    BitVec.ofNat 13 r.free
/-- RSTAT: Ring instruction (R212). -/
def execRstat (stl : Stl) (d : Reg) (ring : BitVec 3) (s : State) : Out :=
  instr s stl 0 [] fun c j => .done (writeX s c j d 1 (rstatWord (ringAt s c ring)))

/-! ### Stream registers -/

def streamAt (s : State) (c : CoreId) (k : BitVec 2) : Stream := (coreAt s c).streams.get k.toFin
def putStream (s : State) (c : CoreId) (k : BitVec 2) (b : Stream) : State :=
  modCore s c fun q => { q with streams := vPut q.streams k.toFin b }
/-- The stream slot of a vector register, if it is one of v28–v31 and bound. -/
def boundStream (s : State) (c : CoreId) (r : Reg) : Option (BitVec 2) :=
  if 28#5 ≤ r && (streamAt s c (r.setWidth 2)).kind != .unbound then some (r.setWidth 2) else none

/-- Unbinds a stream register (R188): a partly used slot is released as it stands, an untouched one is handed back. The answer
says whether a slot was released. -/
def unbindStream (s : State) (c : CoreId) (j : CtxId) (k : BitVec 2) : State × Bool :=
  let b := streamAt s c k
  let zero (s : State) : State := writeV (putStream s c k .none) c j (7#3 ++ k) 1 0#512
  match b.kind with
  | .unbound => (s, false)
  | .addr => (zero s, false)
  | .ring =>
    let clear (s : State) : State := modRing (zero s) c b.ring fun r => { r with strm := false }
    if !b.holds then (clear s, false)
    else if b.off = 0 then (modRing (clear s) c b.ring fun r => { r with held := false }, false)
    else
      let rel := releaseStamp s c j .cl
      (returnSlot (clear rel.1) c b.ring b.out rel.2, true)
/-- An unbind that would release a slot must wait for the context's older accesses. -/
def unbindHeld (s : State) (c : CoreId) (j : CtxId) (k : BitVec 2) : Bool :=
  let b := streamAt s c k
  b.kind == .ring && b.holds && b.off != 0 && releaseHeld s c j
/-- SBIND's common part: the old binding goes, the new one starts at position 0 (R187). -/
def bindStream (s : State) (c : CoreId) (j : CtxId) (k : BitVec 2) (b : Stream) : Act :=
  if unbindHeld s c j k then .wait s false else
  let r := unbindStream s c j k
  let s := if r.2 then undiscard r.1 c j else r.1
  let s := writeV (putStream s c k b) c j (7#3 ++ k) 1 0#512
  .done (if b.kind == .ring then modRing s c b.ring fun r => { r with strm := true } else s)
/-- SBIND_RING: Binds v(28+k) to a ring (R187). -/
def execSbindRing (stl : Stl) (k : BitVec 2) (ring : BitVec 3) (s : State) : Out :=
  instr s stl 0 [] fun c j =>
    ctx0Only j (packRC stl (7#3 ++ k) (0#2 ++ ring) 0#5 0#5 (0#2) 0x4E#7) <|
    let r := ringAt s c ring
    let b := streamAt s c k
    let ours := b.kind == .ring && b.ring == ring
    if !r.bound || r.slot % 64 != 0 || (r.strm && !ours) then misuse (packRC stl (7#3 ++ k) (0#2 ++ ring) 0#5 0#5 (0#2) 0x4E#7)
    else bindStream s c j k { Stream.none with kind := .ring, ring := ring, made := (ctxAt s c j).epoch + 1 }
/-- SBIND_ADDR: Binds v(28+k) to an address stream (R187). -/
def execSbindAddr (stl : Stl) (k : BitVec 2) (a b c : Reg) (s : State) : Out :=
  instr s stl 0 [nx a, nx b, nx c] fun p j =>
    ctx0Only j (packRC stl (7#3 ++ k) a b c (1#2) 0x4E#7) <|
    let t := ctxAt s p j
    bindStream s p j k { Stream.none with
      kind := .addr, base := readX s t a, stride := readX s t b, count := lo32 (readX s t c), made := t.epoch + 1 }
/-- SUNBIND: Unbinds v(28+k) (R188). -/
def execSunbind (stl : Stl) (k : BitVec 2) (s : State) : Out :=
  instr s stl 0 [] fun c j =>
    ctx0Only j (packR stl (7#3 ++ k) 0#5 0#5 (0#7) 0x4F#7) <|
    if unbindHeld s c j k then .wait s false else
    let r := unbindStream s c j k
    .done (if r.2 then undiscard r.1 c j else r.1)

/-! ### Pops, pushes and updates (R189) -/

/-- Whether an access of a direction is Ring Misuse: another direction was fixed, the count is reached, an update of a ring, or
a slot that some context holds. That includes a slot that ctx0 itself has acquired by RACQ since its RSTART: R189 acquires as RACQ
does, and R212 lets the holder's RACQ return such a slot again, but does not say that a stream takes it (DESIGN CHOICE, log 103). -/
def streamMisused (s : State) (c : CoreId) (k : BitVec 2) (dir : StreamDir) : Bool :=
  let b := streamAt s c k
  (b.dir != .unset && b.dir != dir) ||
  (match b.kind with
   | .addr => b.pos == b.count
   | .ring => dir == .update || ((ringAt s c b.ring).held && !b.holds)
   | .unbound => false)
/-- The address of an address stream's next group. -/
def streamEa (b : Stream) : Word := b.base + b.pos.setWidth 64 * b.stride
/-- The ring slot a binding uses: the one it holds, or the next on its side. -/
def streamSlot (s : State) (c : CoreId) (b : Stream) (produce : Bool) : Nat :=
  let r := ringAt s c b.ring
  slotOff r (slotIndex r produce)
/-- The binding holds the slot that an access on a side uses; one that holds the other side's hands it back untouched. -/
def holdsFor (b : Stream) (produce : Bool) : Bool := b.holds && b.out == produce
/-- The place of the next 64 bytes of a binding, or how the instruction ends instead. -/
def streamPlace (s : State) (c : CoreId) (j : CtxId) (k : BitVec 2) (dir : StreamDir) : Except Act Place :=
  let b := streamAt s c k
  match b.kind with
  | .ring =>
    let produce := dir == .sink
    let off := streamSlot s c b produce + b.off
    if !holdsFor b produce && !slotReady (ringAt s c b.ring) produce then .error (.wait s true)
    else match watched s c j (!produce) produce (selfVa off) 64 with
      | some a => .error a
      | none => .ok (.array c off)
  | _ =>
    match dir with
    | .sink => access s c j .store (streamEa b) 64 64
    | .update =>
      (match access s c j .load (streamEa b) 64 64 with
       | .error a => .error a
       | .ok _ => access s c j .store (streamEa b) 64 64)
    | _ => access s c j .load (streamEa b) 64 64
/-- The address that a poisoned pop reports. -/
def streamVa (s : State) (c : CoreId) (k : BitVec 2) : Word :=
  let b := streamAt s c k
  if b.kind == .ring then selfVa (streamSlot s c b false + b.off) else streamEa b
/-- Whether this access completes a ring slot. -/
def completesSlot (s : State) (c : CoreId) (k : BitVec 2) : Bool :=
  let b := streamAt s c k
  b.kind == .ring && decide ((ringAt s c b.ring).slot ≤ b.off + 64)
/-- The binding after one access: its direction fixed, its position advanced, its slot taken and, at the slot's end, released as
RREL releases it; completing a slot ends discardability (R32). -/
def streamStep (s : State) (c : CoreId) (j : CtxId) (k : BitVec 2) (dir : StreamDir) : State :=
  let b := streamAt s c k
  let b' := { b with dir := dir, pos := b.pos + 1 }
  if b.kind != .ring then putStream s c k b' else
  let produce := dir == .sink
  let b' := { b' with out := produce }
  let s := if holdsFor b produce then s else modRing (invalidateClean s c) c b.ring fun r => { r with held := true }
  if completesSlot s c k then
    let rel := releaseStamp s c j .cl
    let s := returnSlot rel.1 c b.ring produce rel.2
    undiscard (putStream s c k { b' with off := 0, holds := false }) c j
  else putStream s c k { b' with off := b.off + 64, holds := true }

end Sys2Proof.Machine
end

