-- ==== Sys2Proof/Machine/Vector.lean ====
section
/-! DEFINITION. Vector instructions (R174–R186) over stream operands (R189). -/

namespace Sys2Proof.Machine

/-! ### Elements (R60) -/

/-- Element i of width w, as a number. -/
def elem (w : Nat) (v : VWord) (i : Nat) : Nat := (v.extractLsb' (w * i) w).toNat
/-- A register from its elements 0 … n − 1, the rest zero. -/
def packElems (w n : Nat) (f : Nat → Nat) : VWord :=
  (List.range n).foldl (fun v i => v ||| ((BitVec.ofNat w (f i)).setWidth 512 <<< (w * i))) 0#512
/-- Elements of a width: 16, 32 or 64. -/
def lanes (w : Nat) : Nat := 512 / w
/-- Active elements receive `f`, inactive ones keep `old` (R175). -/
def masked (w : Nat) (m : Word) (old : VWord) (f : Nat → Nat) : VWord :=
  packElems w (lanes w) fun i => if m.getLsbD i then f i else elem w old i
/-- Flags of the active elements below n (R176). -/
def maskedFlags (n : Nat) (m : Word) (f : Nat → FFlags) : FFlags :=
  (List.range n).foldl (fun a i => if m.getLsbD i then a ||| f i else a) 0#5
/-- Width of an element type. -/
def vtWidth (t : VType) : Nat := match t with | .f32 => 32 | .bf16 => 16 | .i32 => 32 | .i16 => 16 | .i8 => 8
/-- Float format of a float type. -/
def vtFmt (t : VType) : Fmt := if t = .bf16 then fmtBf16 else fmtF32
/-- A w-bit number as a signed integer. -/
def sInt (w n : Nat) : Int := (BitVec.ofNat w n).toInt

/-! ### Instructions over vector operands (R189) -/

/-- What the operands of a vector instruction are: its vector sources in the order of its fields, its vector destination, and
whether that destination is its accumulator too (VFMA). -/
structure VOps where
  srcs : List Reg := []
  dst  : Option Reg := none
  upd  : Bool := false

/-- The streams an instruction accesses, sources first, each once (R189). -/
def streamUses (s : State) (c : CoreId) (o : VOps) : List (BitVec 2 × StreamDir) :=
  let db := o.dst.bind (boundStream s c)
  let pops := (o.srcs.filterMap (boundStream s c)).eraseDups
  let pops := if o.upd then pops.filter (some · != db) else pops
  pops.map (·, .source) ++ db.toList.map fun k => (k, if o.upd then .update else .sink)
/-- Whether a stream is misused by an access, or by two accesses of one instruction that differ in direction. -/
def useBad (s : State) (c : CoreId) (us : List (BitVec 2 × StreamDir)) (u : BitVec 2 × StreamDir) : Bool :=
  streamMisused s c u.1 u.2 || us.any fun x => x.1 == u.1 && x.2 != u.2
/-- How an instruction with these streams ends when one of them stops it: faults of Table 7.1 first, then Ring Misuse, then
blocking. A misused access of an address stream has no address of its own to check (DESIGN CHOICE, log 95). -/
def streamStop (s : State) (c : CoreId) (j : CtxId) (w : Word32) (us : List (BitVec 2 × StreamDir)) : Option Act :=
  let bad (u : BitVec 2 × StreamDir) : Bool := useBad s c us u
  let stops := us.filterMap fun u => if bad u then none else
    match streamPlace s c j u.1 u.2 with
    | .error a => some a
    | .ok _ => none
  let fault := stops.find? fun a => match a with | .fault _ => true | .halt => true | _ => false
  match fault with
  | some a => some a
  | none =>
    if us.any bad then some (misuse w)
    else match stops.head? with
      | some a => some a
      | none =>
        if us.any fun u => completesSlot s c u.1 && releaseHeld s c j then some (.wait s false)
        else if us.any (fun u => u.2 != .sink) && readHeld s c j then some (.wait s false)
        else none
/-- The 64 bytes that each popped or updated stream delivers, and the state after their reads. -/
def streamRead (s : State) (c : CoreId) (j : CtxId) :
    List (BitVec 2 × StreamDir) → State × List (BitVec 2 × VWord) × Option TrapInfo
  | [] => (s, [], none)
  | (k, dir) :: us =>
    if dir == .sink then streamRead s c j us else
    match streamPlace s c j k dir with
    | .error _ => streamRead s c j us
    | .ok p =>
      let s := if (streamAt s c k).kind == .addr then walked s (whoOf s c j) .load (streamEa (streamAt s c k)) else s
      let r := loadPlain (performOverlaps s c j p 64) c j p 64
      if r.2.2 then (r.1, [], some (poisonFault (streamVa s c k))) else
      let t := streamRead r.1 c j us
      (t.1, (k, BitVec.ofNat 512 (leNat r.2.1)) :: t.2.1, t.2.2)
/-- The state in which a push or update of a stream stores: the walk for an address stream's store has made its reads (R294). -/
def pushWalked (s : State) (c : CoreId) (j : CtxId) (b : Stream) : State :=
  if b.kind == .addr then walked s (whoOf s c j) .store (streamEa b) else s
/-- The translation that such a store keeps while it is buffered; a ring's slot needs none. -/
def pushPin (s : State) (c : CoreId) (j : CtxId) (b : Stream) : Option TlbEntry :=
  if b.kind == .addr then storePin s c j (streamEa b) else none
/-- Writes a vector result: a register with its latency, or a push or update of its stream (R189). -/
def vResult (s : State) (c : CoreId) (j : CtxId) (o : VOps) (lat : Nat) (v : VWord) : State :=
  match o.dst with
  | none => s
  | some d =>
    match boundStream s c d with
    | none => writeV s c j d lat v
    | some k =>
      let b := streamAt s c k
      let e := pushWalked s c j b
      match streamPlace e c j k (if o.upd then .update else .sink) with
      | .ok p => buffer e c j p (bytesOf 64 v) false .pkg false (pushPin e c j b)
      | .error _ => s
/-- Every stream that is popped has its group: no access of it is misused, stopped or blocked. -/
def popsReady (s : State) (c : CoreId) (j : CtxId) (us : List (BitVec 2 × StreamDir)) : Bool :=
  us.all fun u => u.2 == .sink || (!useBad s c us u && (match streamPlace s c j u.1 u.2 with
    | .ok _ => true
    | .error _ => false))
/-- The value of a vector operand, where `got` are the groups that the streams have delivered. -/
def operandOf (s : State) (c : CoreId) (j : CtxId) (got : List (BitVec 2 × VWord)) (x : Reg) : VWord :=
  match boundStream s c x with
  | some k => ((got.find? (·.1 == k)).map (·.2)).getD 0#512
  | none => readV s c (ctxAt s c j) x
/-- What the body of a vector instruction answers: its effect besides the streams, and its vector result; or how it ends. -/
abbrev VBody := Except Act (State × VWord)
/-- A vector instruction: `rs` are its other registers, `own` its own access check; `body` receives the source values and the
previous value of the destination (zero for a push, the loaded group for an update). -/
def vector (s : State) (stl : Stl) (port : Nat) (w : Word32) (rs : List Nat) (o : VOps) (lat : Nat)
    (own : CoreId → CtxId → Option Act) (body : State → CoreId → CtxId → (Reg → VWord) → VWord → VBody) : Out :=
  let c := s.cur.1
  let plainSrcs := (o.srcs ++ if o.upd then o.dst.toList else []).filter fun r => (boundStream s c r).isNone
  instr s stl port (rs ++ plainSrcs.map nv) fun c j =>
    ctx0Only j w <|
    match own c j with
    | some a => a
    | none =>
      let us := streamUses s c o
      let act : Act :=
        let r := streamRead s c j us
        match r.2.2 with
        | some t => .fault t
        | none =>
          let val := operandOf s c j r.2.1
          let old := match o.dst with
            | none => 0#512
            | some d => if (boundStream s c d).isSome then (if o.upd then val d else 0#512)
              else if o.upd then val d else vreg (coreAt s c) d
          match body r.1 c j val old with
          | .error a => a
          | .ok (s', v) => .done (us.foldl (fun s u => streamStep s c j u.1 u.2) (vResult s' c j o lat v))
      match streamStop s c j w us with
      | none => act
      | some a =>
        -- where only the destination is misused, the faults of the instruction's own accesses come first (Table 15.3), if its
        -- sources are there to say where they go
        if us.any (useBad s c us) && popsReady s c j us then
          (match act with
           | .fault t => .fault t
           | .faultIn _ t => .fault t
           | _ => a)
        else a

/-- The mask of an instruction as it reads it. -/
def maskOf (s : State) (c : CoreId) (j : CtxId) (m : MReg) : Word := readM s c (ctxAt s c j) m
/-- A masked element-wise result with flags. -/
def laneDone (s : State) (c : CoreId) (j : CtxId) (w : Nat) (m : Word) (old : VWord) (f : Nat → FRes) : VBody :=
  .ok (raiseFlags s c j (maskedFlags (lanes w) m fun i => (f i).flags), masked w m old fun i => (f i).bits)

/-! ### Table 8.1 -/

/-- An element operation: `ff` on codes of the float format, `fi` on w-bit integers; each takes a, b and the accumulator. -/
def elementOp (s : State) (stl : Stl) (w : Word32) (t : VType) (d a b : Reg) (m : MReg) (upd : Bool)
    (ff : Fmt → Nat → Nat → Nat → FRes) (fi : (n : Nat) → BitVec n → BitVec n → BitVec n → BitVec n) : Out :=
  vector s stl 1 w [nm m] ⟨[a, b], some d, upd⟩ 4 (fun _ _ => none) fun s c j v old =>
    let n := vtWidth t
    laneDone s c j n (maskOf s c j m) old fun i =>
      let x := elem n (v a) i
      let y := elem n (v b) i
      let z := elem n old i
      if t.isFloat then ff (vtFmt t) x y z
      else ⟨(fi n (BitVec.ofNat n x) (BitVec.ofNat n y) (BitVec.ofNat n z)).toNat, 0#5, false⟩
/-- An operation that only integers have. -/
def noFloat (f : Fmt) (_ _ _ : Nat) : FRes := ⟨zeroCode f false, 0#5, false⟩
/-- A result clamped to the type's range (R61). -/
def saturate (n : Nat) (v : Int) : BitVec n := BitVec.ofInt n (max (-2 ^ (n - 1)) (min v (2 ^ (n - 1) - 1)))
/-- The shift amount of an element: vb_i modulo the width (R177). -/
def laneShift {n : Nat} (y : BitVec n) : Nat := y.toNat % n
/-- VADD: Element operation (R177, Table 8.1). -/
def execVadd (stl : Stl) (t : VType) (d a b : Reg) (m : MReg) (s : State) : Out :=
  elementOp s stl (packV stl d a b m (0#4) (vtypeOp t)) t d a b m false (fun f x y _ => addFl f .rne (unpackFl f x) (unpackFl f y)) fun _ x y _ => x + y
/-- VSUB: Element operation (R177, Table 8.1). -/
def execVsub (stl : Stl) (t : VType) (d a b : Reg) (m : MReg) (s : State) : Out :=
  elementOp s stl (packV stl d a b m (1#4) (vtypeOp t)) t d a b m false (fun f x y _ => subFl f .rne (unpackFl f x) (unpackFl f y)) fun _ x y _ => x - y
/-- VMUL: Element operation (R177, Table 8.1). -/
def execVmul (stl : Stl) (t : VType) (d a b : Reg) (m : MReg) (s : State) : Out :=
  elementOp s stl (packV stl d a b m (2#4) (vtypeOp t)) t d a b m false (fun f x y _ => mulFl f .rne (unpackFl f x) (unpackFl f y)) fun _ x y _ => x * y
/-- VFMA: Element operation (R177, Table 8.1). -/
def execVfma (stl : Stl) (t : VType) (d a b : Reg) (m : MReg) (s : State) : Out :=
  elementOp s stl (packV stl d a b m (3#4) (vtypeOp t)) t d a b m true (fun f x y z => fmaFl f (unpackFl f x) (unpackFl f y) (unpackFl f z))
    fun _ x y z => z + x * y
/-- VMIN: Element operation (R177, Table 8.1). -/
def execVmin (stl : Stl) (t : VType) (d a b : Reg) (m : MReg) (s : State) : Out :=
  elementOp s stl (packV stl d a b m (4#4) (vtypeOp t)) t d a b m false (fun f x y _ => minMaxFl f false x y) fun _ x y _ => smin x y
/-- VMAX: Element operation (R177, Table 8.1). -/
def execVmax (stl : Stl) (t : VType) (d a b : Reg) (m : MReg) (s : State) : Out :=
  elementOp s stl (packV stl d a b m (5#4) (vtypeOp t)) t d a b m false (fun f x y _ => minMaxFl f true x y) fun _ x y _ => smax x y
/-- VADD_SS: Saturating addition, .i16 and .i8 (R177). -/
def execVaddSs (stl : Stl) (t : VType) (d a b : Reg) (m : MReg) (s : State) : Out :=
  elementOp s stl (packV stl d a b m (8#4) (vtypeOp t)) t d a b m false noFloat fun n x y _ => saturate n (x.toInt + y.toInt)
/-- VSUB_SS: Saturating subtraction, .i16 and .i8 (R177). -/
def execVsubSs (stl : Stl) (t : VType) (d a b : Reg) (m : MReg) (s : State) : Out :=
  elementOp s stl (packV stl d a b m (15#4) (vtypeOp t)) t d a b m false noFloat fun n x y _ => saturate n (x.toInt - y.toInt)
/-- VAND: Integer element operation (R177). -/
def execVand (stl : Stl) (t : VType) (d a b : Reg) (m : MReg) (s : State) : Out :=
  elementOp s stl (packV stl d a b m (9#4) (vtypeOp t)) t d a b m false noFloat fun _ x y _ => x &&& y
/-- VOR: Integer element operation (R177). -/
def execVor (stl : Stl) (t : VType) (d a b : Reg) (m : MReg) (s : State) : Out :=
  elementOp s stl (packV stl d a b m (10#4) (vtypeOp t)) t d a b m false noFloat fun _ x y _ => x ||| y
/-- VXOR: Integer element operation (R177). -/
def execVxor (stl : Stl) (t : VType) (d a b : Reg) (m : MReg) (s : State) : Out :=
  elementOp s stl (packV stl d a b m (11#4) (vtypeOp t)) t d a b m false noFloat fun _ x y _ => x ^^^ y
/-- VSHL: Integer element operation (R177). -/
def execVshl (stl : Stl) (t : VType) (d a b : Reg) (m : MReg) (s : State) : Out :=
  elementOp s stl (packV stl d a b m (12#4) (vtypeOp t)) t d a b m false noFloat fun _ x y _ => x <<< laneShift y
/-- VSHR: Integer element operation (R177). -/
def execVshr (stl : Stl) (t : VType) (d a b : Reg) (m : MReg) (s : State) : Out :=
  elementOp s stl (packV stl d a b m (13#4) (vtypeOp t)) t d a b m false noFloat fun _ x y _ => x >>> laneShift y
/-- VSRA: Integer element operation (R177). -/
def execVsra (stl : Stl) (t : VType) (d a b : Reg) (m : MReg) (s : State) : Out :=
  elementOp s stl (packV stl d a b m (14#4) (vtypeOp t)) t d a b m false noFloat fun _ x y _ => x.sshiftRight (laneShift y)

/-! ### Reductions (R77, R178) -/

/-- A 32-bit partial result with the flags raised on the way. -/
abbrev Leaf32 := Word32 × FFlags
/-- One level of the pairwise tree. -/
def pairUp (f : Leaf32 → Leaf32 → Leaf32) : List Leaf32 → List Leaf32
  | [] => []
  | [x] => [x]
  | x :: y :: r => f x y :: pairUp f r
/-- The tree of R77: `n` levels over the leaves. -/
def tree (f : Leaf32 → Leaf32 → Leaf32) : Nat → List Leaf32 → Leaf32
  | 0, l => l.headD (0#32, 0#5)
  | n + 1, l => tree f n (pairUp f l)
/-- Combines two partial results by a function on codes. -/
def joinBy (f : Word32 → Word32 → Word32 × FFlags) (x y : Leaf32) : Leaf32 :=
  let r := f x.1 y.1
  (r.1, x.2 ||| y.2 ||| r.2)
/-- A reduction: its leaves by element, its neutral leaf and its combining step; the result stands in element 0 (R178). -/
def reduce (s : State) (stl : Stl) (w : Word32) (t : VType) (d : Reg) (srcs : List Reg) (m : MReg)
    (leaf : (Reg → Nat → Nat) → Nat → Leaf32) (neutral : Word32) (f : Word32 → Word32 → Word32 × FFlags) : Out :=
  vector s stl 1 w [nm m] ⟨srcs, some d, false⟩ 4 (fun _ _ => none) fun s c j v _ =>
    let n := vtWidth t
    let mk := maskOf s c j m
    let ls := (List.range (lanes n)).map fun i =>
      if mk.getLsbD i then leaf (fun r i => elem n (v r) i) i else (neutral, 0#5)
    let r := tree (joinBy f) (lanes n).log2 ls
    .ok (raiseFlags s c j r.2, r.1.setWidth 512)
/-- A float element widened exactly to FP32 (R63). -/
def widenF (t : VType) (x : Nat) : Word32 := BitVec.ofNat 32 (if t = .bf16 then x * 2 ^ 16 else x)
/-- An integer element sign-extended to 32 bits. -/
def widenI (t : VType) (x : Nat) : Word32 := BitVec.ofInt 32 (sInt (vtWidth t) x)
/-- FMIN and FMAX on FP32 codes. -/
def minMaxF32 (mx : Bool) (x y : Word32) : Word32 × FFlags :=
  let r := minMaxFl fmtF32 mx x.toNat y.toNat
  (BitVec.ofNat 32 r.bits, r.flags)
def noFlags (f : Word32 → Word32 → Word32) (x y : Word32) : Word32 × FFlags := (f x y, 0#5)
/-- The leaf of an inactive element of VRED. -/
def redNeutral (t : VType) (op : RedOp) : Word32 :=
  let n := vtWidth t
  match op with
  | .sum => 0#32
  | .min => if t.isFloat then 0x7F800000#32 else BitVec.ofInt 32 (2 ^ (n - 1) - 1)
  | .max => if t.isFloat then 0xFF800000#32 else BitVec.ofInt 32 (-2 ^ (n - 1))
/-- The combining step of VRED. -/
def redStep (t : VType) (op : RedOp) : Word32 → Word32 → Word32 × FFlags :=
  match op with
  | .sum => if t.isFloat then addF32 else noFlags fun x y => x + y
  | .min => if t.isFloat then minMaxF32 false else noFlags smin
  | .max => if t.isFloat then minMaxF32 true else noFlags smax
/-- VRED: Reduction (R178). -/
def execVred (stl : Stl) (t : VType) (d a : Reg) (op : RedOp) (m : MReg) (s : State) : Out :=
  reduce s stl (packV stl d a (redCode op) m (6#4) (vtypeOp t)) t d [a] m
    (fun e i => (if t.isFloat then widenF t (e a i) else widenI t (e a i), 0#5)) (redNeutral t op) (redStep t op)
/-- VDOT: Dot product (R178). -/
def execVdot (stl : Stl) (t : VType) (d a b : Reg) (m : MReg) (s : State) : Out :=
  reduce s stl (packV stl d a b m (7#4) (vtypeOp t)) t d [a, b] m
    (fun e i => if t.isFloat then mulF32 (widenF t (e a i)) (widenF t (e b i))
      else (widenI t (e a i) * widenI t (e b i), 0#5)) 0#32 (redStep t .sum)
/-- VSQSUM: Sum of squares, float only (R178). -/
def execVsqsum (stl : Stl) (t : VType) (d a : Reg) (m : MReg) (s : State) : Out :=
  reduce s stl (packV stl d a 0#5 m (8#4) (vtypeOp t)) t d [a] m (fun e i => mulF32 (widenF t (e a i)) (widenF t (e a i))) 0#32 addF32

/-! ### Conversions (Table 8.2) -/

/-- A conversion of `n` elements from width ws to width wd; destination elements at and above n are written zero by a
narrowing one, and there are none above n in a widening one. `f` takes the draw and the source element. -/
def vconvert (s : State) (stl : Stl) (w : Word32) (rm : RMode) (d a : Reg) (m : MReg) (ws wd n : Nat)
    (f : Nat → Nat → FRes) : Out :=
  vector s stl 1 w [nm m] ⟨[a], some d, false⟩ 4 (fun _ _ => none) fun s c j v old =>
    let mk := maskOf s c j m
    let t := ctxAt s c j
    let g (i : Nat) : FRes := f (drawAt t i) (elem ws (v a) i)
    let s := srAdvance (raiseFlags s c j (maskedFlags n mk fun i => (g i).flags)) c j rm n
    .ok (s, packElems wd n fun i => if mk.getLsbD i then (g i).bits else elem wd old i)
/-- VCVT_BF16_F32: Table 8.2 (R179). -/
def execVcvtBf16F32 (stl : Stl) (rm : RMode) (d a : Reg) (m : MReg) (s : State) : Out :=
  vconvert s stl (packV stl d a (0#2 ++ modeCode rm) m (0#4) 0x35#7) rm d a m 32 16 16 fun r x => convFl fmtBf16 rm r (unpackFl fmtF32 x)
/-- VCVT_F32_BF16: Table 8.2 (R179). -/
def execVcvtF32Bf16 (stl : Stl) (rm : RMode) (d a : Reg) (m : MReg) (s : State) : Out :=
  vconvert s stl (packV stl d a (0#2 ++ modeCode rm) m (1#4) 0x35#7) rm d a m 16 32 16 fun _ x => ⟨x * 2 ^ 16, 0#5, false⟩
/-- VCVT_I32_F32: Table 8.2 (R179). -/
def execVcvtI32F32 (stl : Stl) (rm : RMode) (d a : Reg) (m : MReg) (s : State) : Out :=
  vconvert s stl (packV stl d a (0#2 ++ modeCode rm) m (2#4) 0x35#7) rm d a m 32 32 16 fun r x =>
    let v := flToInt rm r (-2 ^ 31) (2 ^ 31 - 1) (unpackFl fmtF32 x)
    ⟨(BitVec.ofInt 32 v.1).toNat, v.2, false⟩
/-- VCVT_F32_I32: Table 8.2 (R179). -/
def execVcvtF32I32 (stl : Stl) (rm : RMode) (d a : Reg) (m : MReg) (s : State) : Out :=
  vconvert s stl (packV stl d a (0#2 ++ modeCode rm) m (3#4) 0x35#7) rm d a m 32 32 16 fun r x => intToFl fmtF32 rm r (sInt 32 x)
/-- VCVT_I16_I32: Table 8.2 (R179). -/
def execVcvtI16I32 (stl : Stl) (rm : RMode) (d a : Reg) (m : MReg) (s : State) : Out :=
  vconvert s stl (packV stl d a (0#2 ++ modeCode rm) m (4#4) 0x35#7) rm d a m 32 16 16 fun _ x => ⟨(saturate 16 (sInt 32 x)).toNat, 0#5, false⟩
/-- VCVT_I8_I16: Table 8.2 (R179). -/
def execVcvtI8I16 (stl : Stl) (rm : RMode) (d a : Reg) (m : MReg) (s : State) : Out :=
  vconvert s stl (packV stl d a (0#2 ++ modeCode rm) m (5#4) 0x35#7) rm d a m 16 8 32 fun _ x => ⟨(saturate 8 (sInt 16 x)).toNat, 0#5, false⟩
/-- VCVT_I32_I16: Table 8.2 (R179). -/
def execVcvtI32I16 (stl : Stl) (rm : RMode) (d a : Reg) (m : MReg) (s : State) : Out :=
  vconvert s stl (packV stl d a (0#2 ++ modeCode rm) m (6#4) 0x35#7) rm d a m 16 32 16 fun _ x => ⟨(BitVec.ofInt 32 (sInt 16 x)).toNat, 0#5, false⟩
/-- VCVT_I16_I8: Table 8.2 (R179). -/
def execVcvtI16I8 (stl : Stl) (rm : RMode) (d a : Reg) (m : MReg) (s : State) : Out :=
  vconvert s stl (packV stl d a (0#2 ++ modeCode rm) m (7#4) 0x35#7) rm d a m 8 16 32 fun _ x => ⟨(BitVec.ofInt 16 (sInt 8 x)).toNat, 0#5, false⟩

/-- A transcendental on FP32 elements (R180). -/
def vtrans (s : State) (stl : Stl) (w : Word32) (k : Trans) (d a : Reg) (m : MReg) : Out :=
  vector s stl 1 w [nm m] ⟨[a], some d, false⟩ 8 (fun _ _ => none) fun s c j v old =>
    laneDone s c j 32 (maskOf s c j m) old fun i => transFl k (unpackFl fmtF32 (elem 32 (v a) i))
/-- VEXP2: Table 3.8 on each element (R180). -/
def execVexp2 (stl : Stl) (d a : Reg) (m : MReg) (s : State) : Out := vtrans s stl (packV stl d a 0#5 m (0#4) 0x3D#7) .exp2 d a m
/-- VLOG2: Table 3.8 on each element (R180). -/
def execVlog2 (stl : Stl) (d a : Reg) (m : MReg) (s : State) : Out := vtrans s stl (packV stl d a 0#5 m (1#4) 0x3D#7) .log2 d a m
/-- VRCP: Table 3.8 on each element (R180). -/
def execVrcp (stl : Stl) (d a : Reg) (m : MReg) (s : State) : Out := vtrans s stl (packV stl d a 0#5 m (2#4) 0x3D#7) .rcp d a m
/-- VRSQ: Table 3.8 on each element (R180). -/
def execVrsq (stl : Stl) (d a : Reg) (m : MReg) (s : State) : Out := vtrans s stl (packV stl d a 0#5 m (3#4) 0x3D#7) .rsq d a m

/-! ### Comparisons and masks (R181, R182) -/

/-- A mask from a relation on active elements; positions at and above E are zero (R181). -/
def maskFrom (n : Nat) (m : Word) (f : Nat → Bool) : Word :=
  (List.range n).foldl (fun w i => if m.getLsbD i && f i then putBit w i true else w) 0#64
/-- VCMP_FLOAT: Float comparison into a mask (R181). -/
def execVcmpFloat (stl : Stl) (t : VType) (rel : FRel) (k : MReg) (a b : Reg) (m : MReg) (s : State) : Out :=
  vector s stl 1 (packV stl (0#2 ++ k) a b m (bit (t == .bf16) ++ frelCode rel) 0x36#7) [nm m] ⟨[a, b], none, false⟩ 4 (fun _ _ => none) fun s c j v _ =>
    let n := vtWidth t
    let mk := maskOf s c j m
    let g (i : Nat) := cmpFl rel (unpackFl (vtFmt t) (elem n (v a) i)) (unpackFl (vtFmt t) (elem n (v b) i))
    let s := raiseFlags s c j (maskedFlags (lanes n) mk fun i => (g i).2)
    .ok (writeM s c j k 4 (maskFrom (lanes n) mk fun i => (g i).1), 0#512)
/-- A relation on w-bit integers (R181). -/
def irelHolds (rel : IRel) {n : Nat} (x y : BitVec n) : Bool :=
  match rel with
  | .eq => x == y
  | .ne => x != y
  | .lt => x.slt y
  | .le => !y.slt x
  | .gt => y.slt x
  | .ge => !x.slt y
  | .ltu => x.ult y
  | .geu => !x.ult y
/-- VCMP_INTEGER: Integer comparison into a mask (R181). -/
def execVcmpInteger (stl : Stl) (t : VType) (rel : IRel) (k : MReg) (a b : Reg) (m : MReg) (s : State) : Out :=
  vector s stl 1 (packV stl (itypeCode t ++ k) a b m (0#1 ++ irelCode rel) 0x37#7) [nm m] ⟨[a, b], none, false⟩ 4 (fun _ _ => none) fun s c j v _ =>
    let n := vtWidth t
    let mk := maskOf s c j m
    .ok (writeM s c j k 4 (maskFrom (lanes n) mk fun i =>
      irelHolds rel (BitVec.ofNat n (elem n (v a) i)) (BitVec.ofNat n (elem n (v b) i))), 0#512)
/-- An instruction on mask registers alone. -/
def maskOp (s : State) (stl : Stl) (w : Word32) (rs : List MReg) (f : State → CoreId → CtxId → State) : Out :=
  vector s stl 1 w (rs.map nm) {} 2 (fun _ _ => none) fun s c j _ _ => .ok (f s c j, 0#512)
/-- MAND: Mask instruction (R182). -/
def execMand (stl : Stl) (d a b : MReg) (s : State) : Out :=
  maskOp s stl (packV stl (0#2 ++ d) (0#2 ++ a) (0#2 ++ b) 0#3 (0#4) 0x39#7) [a, b] fun s c j => writeM s c j d 2 (maskOf s c j a &&& maskOf s c j b)
/-- MOR: Mask instruction (R182). -/
def execMor (stl : Stl) (d a b : MReg) (s : State) : Out :=
  maskOp s stl (packV stl (0#2 ++ d) (0#2 ++ a) (0#2 ++ b) 0#3 (1#4) 0x39#7) [a, b] fun s c j => writeM s c j d 2 (maskOf s c j a ||| maskOf s c j b)
/-- MXOR: Mask instruction (R182). -/
def execMxor (stl : Stl) (d a b : MReg) (s : State) : Out :=
  maskOp s stl (packV stl (0#2 ++ d) (0#2 ++ a) (0#2 ++ b) 0#3 (2#4) 0x39#7) [a, b] fun s c j => writeM s c j d 2 (maskOf s c j a ^^^ maskOf s c j b)
/-- MNOT: Mask instruction (R182). -/
def execMnot (stl : Stl) (d a : MReg) (s : State) : Out :=
  maskOp s stl (packV stl (0#2 ++ d) (0#2 ++ a) 0#5 0#3 (3#4) 0x39#7) [a] fun s c j => writeM s c j d 2 (~~~maskOf s c j a)
/-- MPOP: Number of set mask bits (R182). -/
def execMpop (stl : Stl) (d : Reg) (a : MReg) (s : State) : Out :=
  maskOp s stl (packV stl d (0#2 ++ a) 0#5 0#3 (4#4) 0x39#7) [a] fun s c j => writeX s c j d 2 (BitVec.ofNat 64 (popCount (maskOf s c j a)))
/-- MFIRST: Lowest set mask bit (R182). -/
def execMfirst (stl : Stl) (d : Reg) (a : MReg) (s : State) : Out :=
  maskOp s stl (packV stl d (0#2 ++ a) 0#5 0#3 (5#4) 0x39#7) [a] fun s c j => writeX s c j d 2 (BitVec.ofNat 64 (trailZeros (maskOf s c j a)))

/-! ### Lane moves (Table 8.3) -/

/-- VSEL: Table 8.3 (R183). -/
def execVsel (stl : Stl) (d a b : Reg) (m : MReg) (s : State) : Out :=
  vector s stl 1 (packV stl d a b m (0#4) 0x38#7) [nm m] ⟨[a, b], some d, false⟩ 2 (fun _ _ => none) fun s c j v _ =>
    let mk := maskOf s c j m
    .ok (s, packElems 32 16 fun i => elem 32 (if mk.getLsbD i then v a else v b) i)
/-- A masked move: `f` takes the x operand, a function giving source elements, and the element number. -/
def laneMove (s : State) (stl : Stl) (w : Word32) (n : Nat) (xr : Option Reg) (d : Reg) (srcs : List Reg) (m : MReg)
    (f : Word → (Reg → Nat → Nat) → Nat → Nat) : Out :=
  vector s stl 1 w (nm m :: xr.toList.map nx) ⟨srcs, some d, false⟩ 2 (fun _ _ => none) fun s c j v old =>
    let x := match xr with
      | some r => readX s (ctxAt s c j) r
      | none => 0#64
    .ok (s, masked n (maskOf s c j m) old fun i => f x (fun r i => elem n (v r) i) i)
/-- VBCAST_32: Table 8.3 (R183). -/
def execVbcast32 (stl : Stl) (d a : Reg) (m : MReg) (s : State) : Out :=
  laneMove s stl (packV stl d a 0#5 m (1#4) 0x38#7) 32 (some a) d [] m fun x _ _ => x.toNat
/-- VBCAST_16: Table 8.3 (R183). -/
def execVbcast16 (stl : Stl) (d a : Reg) (m : MReg) (s : State) : Out :=
  laneMove s stl (packV stl d a 0#5 m (2#4) 0x38#7) 16 (some a) d [] m fun x _ _ => x.toNat
/-- VBCAST_8: Table 8.3 (R183). -/
def execVbcast8 (stl : Stl) (d a : Reg) (m : MReg) (s : State) : Out :=
  laneMove s stl (packV stl d a 0#5 m (3#4) 0x38#7) 8 (some a) d [] m fun x _ _ => x.toNat
/-- VMOV: Table 8.3 (R183). -/
def execVmov (stl : Stl) (d a : Reg) (m : MReg) (s : State) : Out := laneMove s stl (packV stl d a 0#5 m (4#4) 0x38#7) 32 none d [a] m fun _ e i => e a i
/-- VPERM_32: Table 8.3 (R183). -/
def execVperm32 (stl : Stl) (d a b : Reg) (m : MReg) (s : State) : Out :=
  laneMove s stl (packV stl d a b m (8#4) 0x38#7) 32 none d [a, b] m fun _ e i => e a (e b i % 16)
/-- VPERM_16: Table 8.3 (R183). -/
def execVperm16 (stl : Stl) (d a b : Reg) (m : MReg) (s : State) : Out :=
  laneMove s stl (packV stl d a b m (9#4) 0x38#7) 16 none d [a, b] m fun _ e i => e a (e b i % 32)
/-- VPERM_8: Table 8.3 (R183). -/
def execVperm8 (stl : Stl) (d a b : Reg) (m : MReg) (s : State) : Out :=
  laneMove s stl (packV stl d a b m (10#4) 0x38#7) 8 none d [a, b] m fun _ e i => e a (e b i % 64)
/-- va_(i+k) if 0 ≤ i + k < E, else 0. -/
def slid (n : Nat) (x : Word) (e : Nat → Nat) (i : Nat) : Nat :=
  let k := x.toInt + i
  if 0 ≤ k && k < (lanes n : Int) then e k.toNat else 0
/-- VSLIDE_32: Table 8.3 (R183). -/
def execVslide32 (stl : Stl) (d a b : Reg) (m : MReg) (s : State) : Out :=
  laneMove s stl (packV stl d a b m (11#4) 0x38#7) 32 (some b) d [a] m fun x e i => slid 32 x (e a) i
/-- VSLIDE_16: Table 8.3 (R183). -/
def execVslide16 (stl : Stl) (d a b : Reg) (m : MReg) (s : State) : Out :=
  laneMove s stl (packV stl d a b m (12#4) 0x38#7) 16 (some b) d [a] m fun x e i => slid 16 x (e a) i
/-- VSLIDE_8: Table 8.3 (R183). -/
def execVslide8 (stl : Stl) (d a b : Reg) (m : MReg) (s : State) : Out :=
  laneMove s stl (packV stl d a b m (13#4) 0x38#7) 8 (some b) d [a] m fun x e i => slid 8 x (e a) i
/-- VEXT: element x[vb] mod E into x[vd]. -/
def vext (s : State) (stl : Stl) (w : Word32) (n : Nat) (d a b : Reg) : Out :=
  vector s stl 1 w [nx b] ⟨[a], none, false⟩ 2 (fun _ _ => none) fun s c j v _ =>
    .ok (writeX s c j d 2 (BitVec.ofNat 64 (elem n (v a) ((readX s (ctxAt s c j) b).toNat % lanes n))), 0#512)
/-- VEXT_32: Table 8.3 (R183). -/
def execVext32 (stl : Stl) (d a b : Reg) (s : State) : Out := vext s stl (packV stl d a b 0#3 (5#4) 0x38#7) 32 d a b
/-- VEXT_16: Table 8.3 (R183). -/
def execVext16 (stl : Stl) (d a b : Reg) (s : State) : Out := vext s stl (packV stl d a b 0#3 (6#4) 0x38#7) 16 d a b
/-- VEXT_8: Table 8.3 (R183). -/
def execVext8 (stl : Stl) (d a b : Reg) (s : State) : Out := vext s stl (packV stl d a b 0#3 (7#4) 0x38#7) 8 d a b

/-! ### Memory (R184–R186) -/

/-- The stop of a vector's access, if its checks find one: its walk has made its reads (R294). -/
def accessStop (s : State) (c : CoreId) (j : CtxId) (kind : AccKind) (ea : Word) : Option Act :=
  match access s c j kind ea 64 64 with
  | .error (.fault t) => some (.faultIn (walked s (whoOf s c j) kind ea) t)
  | .error a => some a
  | .ok _ => none
/-- VLD: Vector load (R184). -/
def execVld (stl : Stl) (d a : Reg) (off : BitVec 12) (s : State) : Out :=
  vector s stl 5 (packI stl d a (off) 0x3A#7) [nx a] ⟨[], some d, false⟩ 1
    (fun c j => if readHeld s c j then some (.wait s false) else accessStop s c j .load (eaOf s c j a off 64))
    fun s c j _ _ =>
      match access s c j .load (eaOf s c j a off 64) 64 64 with
      | .error act => .error act
      | .ok p =>
        let s := walked s (whoOf s c j) .load (eaOf s c j a off 64)
        let r := if (boundStream s c d).isSome then loadPlain (performOverlaps s c j p 64) c j p 64
          else issueLoad s c j p 64 (.lane d 512 0)
        if r.2.2 then .error (.fault (poisonFault (eaOf s c j a off 64)))
        else .ok (r.1, BitVec.ofNat 512 (leNat r.2.1))
/-- VST: Vector store (R184). -/
def execVst (stl : Stl) (d a : Reg) (off : BitVec 12) (s : State) : Out :=
  vector s stl 5 (packI stl d a (off) 0x3B#7) [nx a] ⟨[d], none, false⟩ 1 (fun c j => accessStop s c j .store (eaOf s c j a off 64))
    fun s c j v _ =>
      match access s c j .store (eaOf s c j a off 64) 64 64 with
      | .error act => .error act
      | .ok p =>
        let s := walked s (whoOf s c j) .store (eaOf s c j a off 64)
        .ok (buffer s c j p (bytesOf 64 (v d)) false .pkg false (storePin s c j (eaOf s c j a off 64)), 0#512)

/-- A watchpoint that some active element matches, judged before the first access. -/
def anyWatched (s : State) (c : CoreId) (j : CtxId) (wr : Bool) (n : Nat) (eas : List (Nat × Word)) : Option Act :=
  eas.findSome? fun e => watched s c j (!wr) wr e.2 n
/-- Reads the active elements in ascending order (R186); each may be performed later, into its lane of `d`. -/
def gatherFrom (s : State) (c : CoreId) (j : CtxId) (d : Reg) (n : Nat) :
    List (Nat × Word) → State → List (Nat × Nat) → Except Act (State × List (Nat × Nat))
  | [], s', got => .ok (s', got)
  | (i, ea) :: rest, s', got =>
    match place s' (whoOf s' c j) .load ea n n with
    | .fault t => .error (.faultIn (walked s (whoOf s c j) .load ea) t)
    | .held => .error (.wait s false)
    | .ok p =>
      let s' := walked s' (whoOf s' c j) .load ea
      let r := if (boundStream s' c d).isSome then loadPlain (performOverlaps s' c j p n) c j p n
        else issueLoad s' c j p n (.lane d (8 * n) i)
      if r.2.2 then .error (.fault (poisonFault ea)) else gatherFrom s c j d n rest r.1 ((i, leNat r.2.1) :: got)
/-- Buffers the active elements in ascending order; those before a fault stay performed (R186). -/
def scatterTo (s : State) (c : CoreId) (j : CtxId) (n : Nat) (v : Nat → Nat) :
    List (Nat × Word) → State → Except Act State
  | [], s' => .ok s'
  | (i, ea) :: rest, s' =>
    match place s' (whoOf s' c j) .store ea n n with
    | .fault t => .error (.faultIn (walked s' (whoOf s' c j) .store ea) t)
    | .held => .error (.wait s false)
    | .ok p =>
      let s' := walked s' (whoOf s' c j) .store ea
      scatterTo s c j n v rest (buffer s' c j p (leBytes n (v i)) false .pkg false (storePin s' c j ea))
/-- Active elements with their addresses. -/
def activeEas (w : Nat) (m : Word) (ea : Nat → Word) : List (Nat × Word) :=
  ((List.range (lanes w)).filter fun i => m.getLsbD i).map fun i => (i, ea i)
/-- EA_i of a strided access. -/
def strideEa (base stride : Word) (i : Nat) : Word := base + BitVec.ofNat 64 i * stride
/-- EA_i of an indexed access. -/
def indexEa (w : Nat) (base : Word) (idx : VWord) (i : Nat) : Word := base + BitVec.ofNat 64 (elem w idx i * (w / 8))
/-- An element-wise load; `ea` gives EA_i from the instruction's values. -/
def elementLoad (s : State) (stl : Stl) (wd : Word32) (w : Nat) (d a : Reg) (rs : List Nat) (srcs : List Reg) (m : MReg)
    (ea : State → Ctx → (Reg → VWord) → Word → Nat → Word) : Out :=
  vector s stl 5 wd (nm m :: nx a :: rs) ⟨srcs, some d, false⟩ 1
    (fun c j => if readHeld s c j then some (.wait s false) else none) fun s c j v old =>
      let t := ctxAt s c j
      let mk := maskOf s c j m
      let eas := activeEas w mk (ea s t v (readX s t a))
      match anyWatched s c j false (w / 8) eas with
      | some act => .error act
      | none =>
        match gatherFrom s c j d (w / 8) eas s [] with
        | .error act => .error act
        | .ok (s', got) => .ok (s', masked w mk old fun i => ((got.find? (·.1 == i)).map (·.2)).getD 0)
/-- How a store of a misused stream v[d] ends before its Ring Misuse: by a fault of Table 7.1 of its first active element, whose turn
comes first (R186, R263), where the other sources are there to give its address. -/
def misusedStore (s : State) (c : CoreId) (j : CtxId) (w : Nat) (d a : Reg) (srcs : List Reg) (m : MReg)
    (ea : State → Ctx → (Reg → VWord) → Word → Nat → Word) : Option Act :=
  let us := streamUses s c { srcs := srcs }
  let bad := (boundStream s c d).any fun k => streamMisused s c k .source
  if !bad || !popsReady s c j us then none else
  let r := streamRead s c j us
  if r.2.2.isSome then none else
  match (activeEas w (maskOf s c j m) (ea s (ctxAt s c j) (operandOf s c j r.2.1) (readX s (ctxAt s c j) a))).head? with
  | none => none
  | some e => match access s c j .store e.2 (w / 8) (w / 8) with
    | .error (.fault t) => some (.faultIn (walked s (whoOf s c j) .store e.2) t)
    | .error _ => none
    | .ok _ => none
/-- An element-wise store of v[d]. -/
def elementStore (s : State) (stl : Stl) (wd : Word32) (w : Nat) (d a : Reg) (rs : List Nat) (srcs : List Reg) (m : MReg)
    (ea : State → Ctx → (Reg → VWord) → Word → Nat → Word) : Out :=
  vector s stl 5 wd (nm m :: nx a :: rs) ⟨d :: srcs, none, false⟩ 1 (fun c j => misusedStore s c j w d a srcs m ea) fun s c j v _ =>
    let t := ctxAt s c j
    let eas := activeEas w (maskOf s c j m) (ea s t v (readX s t a))
    match anyWatched s c j true (w / 8) eas with
    | some act => .error act
    | none =>
      match scatterTo s c j (w / 8) (elem w (v d)) eas s with
      | .error act => .error act
      | .ok s' => .ok (s', 0#512)
/-- VLDS_32: Element-wise access (R185, R186). -/
def execVlds32 (stl : Stl) (d a b : Reg) (m : MReg) (s : State) : Out :=
  elementLoad s stl (packV stl d a b m (0#4) 0x3C#7) 32 d a [nx b] [] m fun s t _ x i => strideEa x (readX s t b) i
/-- VLDS_16: Element-wise access (R185, R186). -/
def execVlds16 (stl : Stl) (d a b : Reg) (m : MReg) (s : State) : Out :=
  elementLoad s stl (packV stl d a b m (1#4) 0x3C#7) 16 d a [nx b] [] m fun s t _ x i => strideEa x (readX s t b) i
/-- VLDS_8: Element-wise access (R185, R186). -/
def execVlds8 (stl : Stl) (d a b : Reg) (m : MReg) (s : State) : Out :=
  elementLoad s stl (packV stl d a b m (2#4) 0x3C#7) 8 d a [nx b] [] m fun s t _ x i => strideEa x (readX s t b) i
/-- VSTS_32: Element-wise access (R185, R186). -/
def execVsts32 (stl : Stl) (d a b : Reg) (m : MReg) (s : State) : Out :=
  elementStore s stl (packV stl d a b m (3#4) 0x3C#7) 32 d a [nx b] [] m fun s t _ x i => strideEa x (readX s t b) i
/-- VSTS_16: Element-wise access (R185, R186). -/
def execVsts16 (stl : Stl) (d a b : Reg) (m : MReg) (s : State) : Out :=
  elementStore s stl (packV stl d a b m (4#4) 0x3C#7) 16 d a [nx b] [] m fun s t _ x i => strideEa x (readX s t b) i
/-- VSTS_8: Element-wise access (R185, R186). -/
def execVsts8 (stl : Stl) (d a b : Reg) (m : MReg) (s : State) : Out :=
  elementStore s stl (packV stl d a b m (5#4) 0x3C#7) 8 d a [nx b] [] m fun s t _ x i => strideEa x (readX s t b) i
/-- VGTH_32: Element-wise access (R185, R186). -/
def execVgth32 (stl : Stl) (d a b : Reg) (m : MReg) (s : State) : Out :=
  elementLoad s stl (packV stl d a b m (6#4) 0x3C#7) 32 d a [] [b] m fun _ _ v x i => indexEa 32 x (v b) i
/-- VGTH_16: Element-wise access (R185, R186). -/
def execVgth16 (stl : Stl) (d a b : Reg) (m : MReg) (s : State) : Out :=
  elementLoad s stl (packV stl d a b m (7#4) 0x3C#7) 16 d a [] [b] m fun _ _ v x i => indexEa 16 x (v b) i
/-- VGTH_8: Element-wise access (R185, R186). -/
def execVgth8 (stl : Stl) (d a b : Reg) (m : MReg) (s : State) : Out :=
  elementLoad s stl (packV stl d a b m (8#4) 0x3C#7) 8 d a [] [b] m fun _ _ v x i => indexEa 8 x (v b) i
/-- VSCT_32: Element-wise access (R185, R186). -/
def execVsct32 (stl : Stl) (d a b : Reg) (m : MReg) (s : State) : Out :=
  elementStore s stl (packV stl d a b m (9#4) 0x3C#7) 32 d a [] [b] m fun _ _ v x i => indexEa 32 x (v b) i
/-- VSCT_16: Element-wise access (R185, R186). -/
def execVsct16 (stl : Stl) (d a b : Reg) (m : MReg) (s : State) : Out :=
  elementStore s stl (packV stl d a b m (10#4) 0x3C#7) 16 d a [] [b] m fun _ _ v x i => indexEa 16 x (v b) i
/-- VSCT_8: Element-wise access (R185, R186). -/
def execVsct8 (stl : Stl) (d a b : Reg) (m : MReg) (s : State) : Out :=
  elementStore s stl (packV stl d a b m (11#4) 0x3C#7) 8 d a [] [b] m fun _ _ v x i => indexEa 8 x (v b) i

end Sys2Proof.Machine
end

