-- ==== Sys2Proof/Machine/Matrix.lean ====
section
/-! DEFINITION. The matrix engine (R191–R200): the lease, command issue, the commands themselves, gangs, MRD and MST. -/

namespace Sys2Proof.Machine

/-! ### Names of engines -/

/-- The logical cluster of an engine, within its partition. -/
def lclusOf (s : State) (g : ClusterId) : Nat :=
  let d := dieId (g.val / 32)
  (diePos s d - (partOfDie s d).base.val) * 32 + g.val % 32
/-- A job id (R193): the sequence number and the logical cluster. -/
def jobId (s : State) (g : ClusterId) (seq : Word32) : Word :=
  ((BitVec.ofNat 7 (lclusOf s g) ++ seq : BitVec 39)).setWidth 64
/-- The four clusters 4q to 4q + 3 (R199). -/
def gangOf (g : ClusterId) : List ClusterId := (List.range 4).map fun i => clusterId (g.val / 4 * 4 + i)
/-- The strip index a cluster takes. -/
def stripOf (g : ClusterId) : BitVec 2 := BitVec.ofNat 2 g.val

/-! ### The lease (R192) -/

/-- The core holds the lease with a count set. -/
def holdsLease (e : Engine) (c : CoreId) : Bool := e.holder == some c && decide (0 < e.count)
/-- Uses one count; the lease ends with its last. -/
def spendCount (c : CoreId) (e : Engine) : Engine :=
  if e.count ≤ 1 then dropLease c e else { e with count := e.count - 1, used := e.used + 1 }
/-- Lease State of a word. -/
def leaseState (w : Word32) : Act := .fault (wordTrap .leaseState w)

/-- MLEASE: Takes the matrix engine lease (R192). -/
def execMlease (stl : Stl) (n : BitVec 12) (s : State) : Out := if n = 0#12 || 64#12 < n then illegalWord s stl (packI stl 0#5 0#5 (n) 0x40#7) else
  instr s stl 2 [] fun c j =>
    ctx0Only j (packI stl 0#5 0#5 (n) 0x40#7) <|
    let g := clusterOf s c
    let e := engineAt s g
    if e.holder == some c then
      if e.used = 0 then .done (modEngine s g fun e => { e with count := n.toNat }) else leaseState (packI stl 0#5 0#5 (n) 0x40#7)
    else .wait (modEngine s g fun e => { e with waiting := setAdd e.waiting c.val }) true
/-- MREL: Ends the lease (R192). -/
def execMrel (stl : Stl) (s : State) : Out := instr s stl 2 [] fun c j =>
    ctx0Only j (packR stl 0#5 0#5 0#5 (0#7) 0x41#7) <| .done (modEngine s (clusterOf s c) (dropLease c))

/-- The waiting core that the rotation grants next: the first by core-in-cluster after the last granted. -/
def nextHolder (s : State) (e : Engine) : Option CoreId :=
  let ranked := e.waiting.map fun n => ((cicOf (coreAt s (coreId n)) + 15 - e.lastGrant) % 8, n)
  (ranked.foldl (fun b x => match b with
    | none => some x
    | some y => if x.1 < y.1 then some x else some y) none).map fun x => coreId x.2
/-- Passes a free lease to the next waiting core; a lease given up at a stop comes back with its counts. -/
def grantLease (s : State) (g : ClusterId) : State :=
  let e := engineAt s g
  if e.holder.isSome then s else
  match nextHolder s e with
  | none => s
  | some c =>
    let old := (coreAt s c).leaseSaved.getD (0, 0)
    let s := modCore s c fun k => { k with leaseSaved := none }
    modEngine s g fun e => { e with holder := some c, count := old.1, used := old.2, waiting := setDel e.waiting c.val,
                                    lastGrant := cicOf (coreAt s c) }
/-- LEASE_GRANT: The lease passes to a waiting core (R192). -/
def execLeaseGrant (g : ClusterId) (s : State) : Out := .next (grantLease s g)

/-! ### Issuing a command (R193, R199) -/

/-- The commands of a gang that have been accepted and not completed. -/
def gangPending (s : State) (g : ClusterId) : List (Nat × Word32) :=
  (gangOf g).flatMap fun x => (engineAt s x).queue.map fun q => (x.val, q.seq)
/-- A command that a gang carries out at all four engines, from strip 0's queue (R199). -/
def isGanged : MOp → Bool
  | .shape _ => true
  | .ldw _ _ => false
  | .mul _ _ _ _ _ => true
  | .zacc => true
  | .st _ _ _ => false
  | .leave _ => false
/-- The commands of its gang that a ganged command comes after, as it is accepted at strip 0. -/
def gangAhead (s : State) (g : ClusterId) (op : MOp) : List (Nat × Word32) :=
  if (engineAt s g).strip == some 0#2 && isGanged op then gangPending s g else []
/-- A command enters the queue: a store-release at .cl to the engine's kick (R92). -/
def acceptCmd (s : State) (c : CoreId) (j : CtxId) (op : MOp) : State :=
  let r := releaseStamp s c j .cl
  let ahead := gangAhead s (clusterOf s c) op
  modEngine r.1 (clusterOf s c) fun e => spendCount c
    { e with seq := e.seq + 1, queue := e.queue ++ [⟨e.seq + 1, op, whoOf s c j, r.2, false, [], ahead, false⟩] }
/-- A command that only strip 0 of a gang may issue. -/
def leadOnly (e : Engine) : Bool := e.strip.isNone || e.strip == some 0#2
/-- A command that no gang member may issue. -/
def noGang (e : Engine) : Bool := e.strip.isNone
/-- A command that every engine may issue. -/
def anyGang (_ : Engine) : Bool := true
/-- A ring that a matrix command may not name at issue (R213). -/
def ringUnfit (r : Ring) : Bool := !r.bound || r.strm || r.slot % 64 != 0
/-- Issues a command: its own checks, the lease and gang rules, its ring, then the queue of 16 entries. -/
def command (s : State) (stl : Stl) (w : Word32) (rs : List Nat) (check : CoreId → CtxId → Option Act)
    (gang : Engine → Bool) (ring : Option (BitVec 3)) (d : Reg) (op : Ctx → MOp) : Out :=
  instr s stl 2 rs fun c j =>
    ctx0Only j w <|
    match check c j with
    | some a => a
    | none =>
      let e := engineAt s (clusterOf s c)
      if !holdsLease e c || !gang e then leaseState w
      else if (ring.map fun r => ringUnfit (ringAt s c r)).getD false then misuse w
      else if 16 ≤ e.queue.length || releaseHeld s c j then .wait s false
      else
        .done (writeX (undiscard (acceptCmd s c j (op (ctxAt s c j))) c j) c j d 1 (jobId s (clusterOf s c) (e.seq + 1)))
/-- No check of its own. -/
def noCheck (_ : CoreId) (_ : CtxId) : Option Act := none

/-- MSHAPE: Sets the active bands (R194). -/
def execMshape (stl : Stl) (b : BitVec 5) (s : State) : Out := if b = 0#5 || 4#5 < b then illegalWord s stl (packR stl 0#5 0#5 b (1#7) 0x41#7) else
  command s stl (packR stl 0#5 0#5 b (1#7) 0x41#7) [] noCheck leadOnly none 0#5 fun _ => .shape b.toNat
/-- MZACC: Zeroes the working bank (R197). -/
def execMzacc (stl : Stl) (s : State) : Out := command s stl (packR stl 0#5 0#5 0#5 (2#7) 0x41#7) [] noCheck leadOnly none 0#5 fun _ => .zacc
/-- MLDW: Latches weights (R195). -/
def execMldw (stl : Stl) (i8 : Bool) (d : Reg) (ring : BitVec 3) (s : State) : Out :=
  command s stl (packR stl d (0#2 ++ ring) 0#5 (0#6 ++ bit i8) 0x42#7) [] noCheck anyGang (some ring) d fun _ => .ldw i8 ring
/-- The rows of MMUL and MMULT lie in the bank, or Access (R196). -/
def rowsCheck (s : State) (b c : Reg) (p : CoreId) (j : CtxId) : Option Act :=
  let row0 := (readX s (ctxAt s p j) b).toNat
  let m := (readX s (ctxAt s p j) c).toNat
  if 1 ≤ m && m ≤ 512 && row0 + m ≤ 512 then none else some (.fault (valTrap .access (readX s (ctxAt s p j) b)))
/-- MMUL: Forward product (R196). -/
def execMmul (stl : Stl) (acc : Bool) (d : Reg) (ring : BitVec 3) (b c : Reg) (s : State) : Out :=
  command s stl (packRC stl d (0#2 ++ ring) b c (0#1 ++ bit acc) 0x43#7) [nx b, nx c] (rowsCheck s b c) leadOnly (some ring) d fun t =>
    .mul false acc ring (readX s t b).toNat (readX s t c).toNat
/-- MMULT: Backward product (R196). -/
def execMmult (stl : Stl) (acc : Bool) (d : Reg) (ring : BitVec 3) (b c : Reg) (s : State) : Out :=
  command s stl (packRC stl d (0#2 ++ ring) b c (0#1 ++ bit acc) 0x44#7) [nx b, nx c] (rowsCheck s b c) noGang (some ring) d fun t =>
    .mul true acc ring (readX s t b).toNat (readX s t c).toNat
/-- MST's checks at issue (R198): the row, the alignment, and checks 1–6 over all 512 bytes; translation waits for the beats. -/
def mstCheck (s : State) (a b : Reg) (c : CoreId) (j : CtxId) : Option Act :=
  let t := ctxAt s c j
  let ea := readX s t a
  let row := readX s t b
  if ea.toNat % 64 != 0 then some (.fault ⟨.misaligned, 0#8, false, false, ea⟩)
  else match (if region ea = 0 then Placed.held else place s (whoOf s c j) .store ea 512 64) with
    | .fault f => some (.fault f)
    | _ => if 511#64 < row then some (.fault (valTrap .access row)) else none
/-- MST: Stores a row of the visible bank (R198). -/
def execMst (stl : Stl) (d a b : Reg) (s : State) : Out :=
  command s stl (packR stl d a b (0#7) 0x46#7) [nx a, nx b] (mstCheck s a b) anyGang none d fun t => .st (readX s t a) (readX s t b).toNat 0

/-! MSWAP (R197) -/
/-- Exchanges the banks of an engine. -/
def swapBanks (e : Engine) : Engine := { e with wb := e.vb, vb := e.wb, wbPoison := e.vbPoison, vbPoison := e.wbPoison }
/-- The engines that a command of `g` applies to: all four of its gang from strip 0, else itself. -/
def appliesTo (s : State) (g : ClusterId) : List ClusterId := if (engineAt s g).strip == some 0#2 then gangOf g else [g]
/-- A command that completes as it is accepted: it uses a count and a sequence number, and CSEQ passes it. -/
def acceptNow (s : State) (c : CoreId) (j : CtxId) : State :=
  modEngine (releaseStamp s c j .cl).1 (clusterOf s c) fun e => spendCount c { e with seq := e.seq + 1, cseq := e.seq + 1 }
/-- MSWAP: Exchanges the banks (R197). -/
def execMswap (stl : Stl) (s : State) : Out := instr s stl 2 [] fun c j =>
    ctx0Only j (packR stl 0#5 0#5 0#5 (3#7) 0x41#7) <|
    let g := clusterOf s c
    let e := engineAt s g
    if !holdsLease e c || !leadOnly e then leaseState (packR stl 0#5 0#5 0#5 (3#7) 0x41#7)
    else if (appliesTo s g).any (fun x => !(engineAt s x).queue.isEmpty) || releaseHeld s c j then .wait s false
    else
      let s' := (appliesTo s g).foldl (fun s x => modEngine s x swapBanks) s
      .done (undiscard (acceptNow s' c j) c j)

/-! MGANG (R199) -/
/-- The gang forms when the four engines have joined. -/
def formGang (s : State) (g : ClusterId) : State :=
  if (gangOf g).all fun x => (engineAt s x).joining then
    (gangOf g).foldl (fun s x => modEngine s x fun e => { e with strip := some (stripOf x), joining := false }) s
  else s
/-- MGANG: Joins or leaves a gang (R199). A join is made once the engine's own queue is empty (DESIGN CHOICE, log 96): R199 says only
that it waits for all four engines. A join by an engine that is a member already, and a leave by one that is in no gang, change no gang:
they complete as commands without effect (DESIGN CHOICE, log 104). -/
def execMgang (stl : Stl) (a : Reg) (s : State) : Out := instr s stl 2 [nx a] fun c j =>
    ctx0Only j (packR stl 0#5 a 0#5 (4#7) 0x41#7) <|
    let g := clusterOf s c
    let e := engineAt s g
    if !holdsLease e c then leaseState (packR stl 0#5 a 0#5 (4#7) 0x41#7)
    else if (readX s (ctxAt s c j) a).getLsbD 0 then
      if !e.queue.isEmpty then .wait s true
      else
        let s' := if e.strip.isSome then s else formGang (modEngine s g fun e => { e with joining := true }) g
        if (engineAt s' g).strip.isNone then .wait s' true
        else if releaseHeld s' c j then .wait s' false
        else .done (undiscard (acceptNow s' c j) c j)
    else if 16 ≤ e.queue.length || releaseHeld s c j then .wait s false
    else .done (undiscard (acceptCmd s c j (.leave (gangPending s g))) c j)

/-! MWAIT and MRD -/
/-- The engine that a job id names: the core's own, or a member of its gang (R193). -/
def namedEngine (s : State) (c : CoreId) (id : Word) : Option ClusterId :=
  let g := clusterOf s c
  if id.extractLsb' 39 25 != 0#25 then none
  else ((if (engineAt s g).strip.isSome then gangOf g else [g]).find? fun x => lclusOf s x == (id.extractLsb' 32 7).toNat)
/-- A job number has been reached (R193). -/
def reached (done id : Word32) : Bool := decide ((done - id).toNat < 2 ^ 31)
/-- An acquire at .pkg of a mailbox that an engine has released: the waiter's clean bytes become invalid (R92). -/
def acquireMail (s : State) (c : CoreId) (j : CtxId) : State := invalidateClean (beforeRead s c j) c
/-- MWAIT_MATRIX: Waits for a matrix job (R193). -/
def execMwaitMatrix (stl : Stl) (a : Reg) (s : State) : Out := instr s stl 2 [nx a] fun c j =>
    ctx0Only j (packR stl 0#5 a 0#5 (5#7) 0x41#7) <|
    let id := readX s (ctxAt s c j) a
    match namedEngine s c id with
    | none => leaseState (packR stl 0#5 a 0#5 (5#7) 0x41#7)
    | some g =>
      if !reached (engineAt s g).cseq (lo32 id) then .wait s true
      else if readHeld s c j then .wait s false
      else .done (acquireMail s c j)
/-- Sixteen words of a row of a bank. -/
def bankGroup (m : SMap Word32) (row grp : Nat) : VWord :=
  packElems 32 16 fun i => (sGet 0#32 m (row * 128 + 16 * grp + i)).toNat
/-- MRD's row and group, or Access; a poisoned row is Access with POISON = 1 (R198, R284). -/
def mrdCheck (s : State) (a b : Reg) (c : CoreId) (j : CtxId) : Option Act :=
  let row := readX s (ctxAt s c j) a
  let grp := readX s (ctxAt s c j) b
  if 511#64 < row || 7#64 < grp then some (.fault (valTrap .access row))
  else if (engineAt s (clusterOf s c)).vbPoison.contains (row.toNat * 8 + grp.toNat) then some (.fault (poisonFault row))
  else none
/-- MRD: Reads the visible bank (R198). -/
def execMrd (stl : Stl) (d a b : Reg) (s : State) : Out :=
  vector s stl 2 (packR stl d a b (0#7) 0x45#7) [nx a, nx b] ⟨[], some d, false⟩ 1 (mrdCheck s a b) fun s c j _ _ =>
    let t := ctxAt s c j
    .ok (s, bankGroup (engineAt s (clusterOf s c)).vb (readX s t a).toNat (readX s t b).toNat)

/-! ### What the engine does -/

/-- Pops the head command; CSEQ passes it. -/
def popCmd (e : Engine) : Engine :=
  match e.queue with
  | [] => e
  | q :: qs => { e with queue := qs, cseq := q.seq }
/-- The head command completes, once its writes have been performed (R92): a wake event for its core (R161). -/
def popHead (s : State) (g : ClusterId) : State :=
  match (engineAt s g).queue.head? with
  | none => s
  | some q => modCore (modEngine (hartFlush s (.matrix g)) g popCmd) q.who.core wakeSleepers
/-- Stores what is known of the head command. -/
def putHead (q : MCmd) (e : Engine) : Engine := { e with queue := q :: e.queue.tail }
/-- Bytes of an element in a mode. -/
def elemSize (i8 : Bool) : Nat := if i8 then 1 else 2
/-- Bytes of its ring stream that a command takes, up to the next multiple of 64 (R195, R196). -/
def streamBytes (e : Engine) : MOp → Nat
  | .ldw i8 _ => 32 * e.bands * 128 * elemSize i8
  | .mul back _ _ _ rows => (rows * (if back then 128 else 32 * e.bands) * elemSize e.int8 + 63) / 64 * 64
  | .shape _ => 0
  | .zacc => 0
  | .st _ _ _ => 0
  | .leave _ => 0
/-- The ring a command consumes. -/
def opRing : MOp → Option (BitVec 3)
  | .ldw _ r => some r
  | .mul _ _ r _ _ => some r
  | .shape _ => none
  | .zacc => none
  | .st _ _ _ => none
  | .leave _ => none

/-- CAUSE of Table 15.7 for a fault of a beat: 8, the Access check, for each that the table does not name, such as the misaligned CPL or
SADDR of a launch record that is rejected for it and still written there (DESIGN CHOICE, log 110). -/
def recordCause (t : TrapInfo) : BitVec 4 :=
  match t.cause with
  | .loadPageFault => 1#4
  | .storePageFault => 2#4
  | .windowPermission => 6#4
  | .unallocatedWindow => 7#4
  | _ => 8#4
/-- A translation fault: the job is suspended for service; any other refusal ends it. -/
def translationFault (t : TrapInfo) : Bool := t.cause == .loadPageFault || t.cause == .storePageFault
/-- Posts a record of the matrix engine (kind 1). -/
def postMatrix (s : State) (g : ClusterId) (q : MCmd) (cause : BitVec 4) (va : Word) : State :=
  postFault s (dieId (g.val / 32))
    { va := va, kind := 1#3, cause := cause, asid := q.who.asid, lc := q.who.lc, seq := q.seq,
      unit := BitVec.ofNat 64 (lclusOf s g), ref := 0 }
/-- The head command waits for service. -/
def suspendHead (s : State) (g : ClusterId) (q : MCmd) (cause : BitVec 4) (va : Word) : State :=
  postMatrix (modEngine s g (putHead { q with suspended := true })) g q cause va

/-- Another member's MGANG leaves the gang before this command: the command was accepted after it, and starts when the gang has
dissolved (R199). -/
def afterLeave (s : State) (g : ClusterId) (q : MCmd) : Bool :=
  (engineAt s g).strip.isSome && (gangOf g).any fun x => (engineAt s x).queue.any fun l => match l.op with
    | .leave before => !(x == g && l.seq == q.seq) && !before.contains (g.val, q.seq)
    | _ => false
/-- The engine of strip 0 in a cluster's gang. -/
def leadOf (g : ClusterId) : ClusterId := clusterId (g.val / 4 * 4)
/-- A command waits for one of its gang that was accepted before it (R193, R199): a ganged one at strip 0 for commands in any member's
queue, one in another member's queue for ganged ones at strip 0. So each engine carries out its own commands and the gang's in the
order of their acceptance. -/
def gangOrder (s : State) (g : ClusterId) (q : MCmd) : Bool :=
  match (engineAt s g).strip with
  | none => false
  | some i =>
    if i = 0#2 then isGanged q.op && (gangPending s g).any q.ahead.contains
    else (engineAt s (leadOf g)).queue.any fun l => isGanged l.op && !l.ahead.contains (g.val, q.seq)
/-- A command does not move: it waits for fault service, its engine is paused, the gang dissolves first, or a command of the gang comes
before it. -/
def cmdStays (s : State) (g : ClusterId) (q : MCmd) : Bool :=
  q.suspended || enginePaused s q.who || afterLeave s g q || gangOrder s g q
/-- The head command begins: the acquire of its kick (R92). -/
def beginCmd (s : State) (g : ClusterId) : State :=
  match (engineAt s g).queue.head? with
  | none => s
  | some q =>
    if q.started || cmdStays s g q then s
    else modEngine (writeBackAll s q.who.core (some q.stamp)) g (putHead { q with started := true })
/-- The head command reads on in the slot its engine holds (R213); the slot is freed after its last byte. A poisoned read
posts a record (R284). -/
def pull (s : State) (g : ClusterId) : State :=
  match (engineAt s g).queue.head? with
  | none => s
  | some q =>
    match opRing q.op with
    | none => s
    | some ring =>
      let c := q.who.core
      let r := ringAt s c ring
      match r.cons with
      | none => s
      | some k =>
        let n := min (r.slot - k) (streamBytes (engineAt s g) q.op - q.buf.length)
        if n = 0 || cmdStays s g q || (coreAt s c).frozen then s else
        let off := slotOff r r.tail + k
        let rd := hartRead s (.matrix g) (.array c off) n
        if rd.2.2 then suspendHead rd.1 g q 4#4 (selfVa off) else
        let s := modEngine rd.1 g (putHead { q with buf := q.buf ++ rd.2.1 })
        modRing s c ring fun r =>
          if k + n < r.slot then { r with cons := some (k + n) } else { giveSlot false r with cons := none }
/-- The engine takes the slot at TAIL of the ring its head command names, an acquire at .cl, and reads it. -/
def takeSlot (s : State) (g : ClusterId) (c : CoreId) (ring : BitVec 3) : State :=
  let s := beginCmd s g
  match (engineAt s g).queue.head? with
  | none => s
  | some q =>
    let r := ringAt s c ring
    if q.who.core == c && opRing q.op == some ring && !cmdStays s g q && !(coreAt s c).frozen && r.bound && r.cons.isNone &&
      !heldAt (coreAt s c) ring.toFin false && r.filled != 0 && decide (q.buf.length < streamBytes (engineAt s g) q.op)
    then pull (modRing (writeBackAll s c (some r.rel)) c ring fun r => { r with cons := some 0 }) g
    else s

/-- Element `i` of a byte stream: BF16 bits, or an INT8 byte. -/
def streamElem (i8 : Bool) (bs : Array Byte) (i : Nat) : BitVec 16 :=
  if i8 then (bs.getD i 0#8).setWidth 16 else bs.getD (2 * i + 1) 0#8 ++ bs.getD (2 * i) 0#8
/-- The chain of R78 over `n` products: exact products, one rounding per step; INT8 wraps. -/
def chain (i8 : Bool) (a w : Nat → BitVec 16) : Nat → Word32
  | 0 => 0#32
  | k + 1 =>
    let t := chain i8 a w k
    if i8 then t + ((a k).setWidth 8).signExtend 32 * ((w k).setWidth 8).signExtend 32
    else (fmaF32 (a k ++ 0#16) (w k ++ 0#16) t).1
/-- The bank word after a command: overwritten, or accumulated. -/
def bankAdd (i8 acc : Bool) (old t : Word32) : Word32 := if acc then (if i8 then old + t else (addF32 old t).1) else t
/-- A sparse store with the words of `n` columns of a row replaced. -/
def putRow (m : SMap Word32) (row : Nat) (f : Nat → Word32) (n : Nat) : SMap Word32 :=
  (List.range n).foldl (fun m i => sPut 0#32 m (row * 128 + i) (f i)) m
/-- A sector of a bank lies in rows row0 … row0 + rows − 1. -/
def inRows (row0 rows sec : Nat) : Bool := decide (row0 ≤ sec / 8) && decide (sec / 8 < row0 + rows)
/-- MMUL and MMULT on the working bank (R196); K and the format are those of the issuing engine. -/
def multiply (i8 : Bool) (bands : Nat) (back acc : Bool) (row0 rows : Nat) (bs : Array Byte) (e : Engine) : Engine :=
  let k := 32 * bands
  let wt (i n : Nat) : BitVec 16 := sGet 0#16 e.w (i * 128 + n)
  let touched (sec : Nat) : Bool := inRows row0 rows sec && decide (sec % 8 < (if back then k else 128) / 16)
  { e with wbPoison := e.wbPoison.filter (!touched ·), wb := (List.range rows).foldl (fun m r =>
      let old (i : Nat) : Word32 := sGet 0#32 e.wb ((row0 + r) * 128 + i)
      if back then
        putRow m (row0 + r) (fun i => bankAdd i8 acc (old i)
          (chain i8 (fun n => streamElem i8 bs (r * 128 + n)) (fun n => wt i n) 128)) k
      else
        putRow m (row0 + r) (fun n => bankAdd i8 acc (old n)
          (chain i8 (fun i => streamElem i8 bs (r * k + i)) (fun i => wt i n) k)) 128) e.wb }
/-- Poison that a multiplication reads (R284): of the weights, or of the bank words it accumulates into. -/
def multiplyPoisoned (acc : Bool) (row0 rows : Nat) (e : Engine) : Bool :=
  e.wPoison.any (fun sec => decide (sec < 4 * (32 * e.bands))) || (acc && e.wbPoison.any (inRows row0 rows))
/-- MLDW's latch (R195): K × 128 weights; rows at K and above keep what they hold. -/
def latchWeights (i8 : Bool) (bs : Array Byte) (e : Engine) : Engine :=
  { e with int8 := i8, wPoison := e.wPoison.filter fun sec => decide (4 * (32 * e.bands) ≤ sec), w := (List.range (32 * e.bands * 128)).foldl (fun m i => sPut 0#16 m i (streamElem i8 bs i)) e.w }
/-- MSHAPE's effect (R194, R330): bands at b and above lose their weights; new bands have to wake. -/
def setBands (b : Nat) (e : Engine) : Engine :=
  { e with bands := b, w := e.w.filter fun x => decide (x.1 < 32 * b * 128), wPoison := e.wPoison.filter fun sec => decide (sec < 4 * (32 * b)), wakingBands := decide (e.bands < b) || e.wakingBands }
/-- The engine completes its head command, when the command has all it needs. -/
def completeCmd (s : State) (g : ClusterId) : State :=
  let s := pull (beginCmd s g) g
  let e := engineAt s g
  match e.queue with
  | [] => s
  | q :: _ =>
    let done (f : Engine → Engine) (gs : List ClusterId) : State :=
      popHead (gs.foldl (fun s x => modEngine s x f) s) g
    if cmdStays s g q then s else
    match q.op with
    | .shape b => done (setBands b) (appliesTo s g)
    | .zacc => done (fun e => { e with wb := [], wbPoison := [] }) (appliesTo s g)
    | .ldw i8 _ =>
      if e.wakingBands || decide (q.buf.length < streamBytes e q.op) then s else done (latchWeights i8 q.buf.toArray) [g]
    | .mul back acc _ row0 rows =>
      if (appliesTo s g).any (fun x => (engineAt s x).wakingBands) || decide (q.buf.length < streamBytes e q.op) then s
      else if (appliesTo s g).any fun x => multiplyPoisoned acc row0 rows (engineAt s x) then suspendHead s g q 4#4 0#64
      else done (multiply e.int8 e.bands back acc row0 rows q.buf.toArray) (appliesTo s g)
    | .st _ _ beat => if beat < 8 then s else popHead s g
    | .leave _ => if e.strip.isSome then s else popHead s g
/-- MATRIX_COMMAND_COMPLETE: The engine completes its next command (R193). -/
def execMatrixCommandComplete (g : ClusterId) (s : State) : Out := .next (completeCmd s g)

/-- One beat of the MST at the head (R198): 64 bytes of the row, with checks 4–7 made again. -/
def mstStep (s : State) (g : ClusterId) : State :=
  let s := beginCmd s g
  match (engineAt s g).queue.head? with
  | none => s
  | some q =>
    match q.op with
    | .st ea row beat =>
      if cmdStays s g q || 8 ≤ beat then s else
      let va := ea + BitVec.ofNat 64 (64 * beat)
      if (engineAt s g).vbPoison.contains (row * 8 + beat) then suspendHead s g q 4#4 va else
      let s := walkedAt s (dieId (g.val / 32)) q.who .store va
      match placeAt s (dieId (g.val / 32)) q.who .store va 64 64 with
      | .held => s
      | .fault t =>
        if translationFault t then suspendHead s g q (recordCause t) va
        else postMatrix (popHead s g) g q (recordCause t) va
      | .ok p =>
        let words := (List.range 16).map fun i => sGet 0#32 (engineAt s g).vb (row * 128 + 16 * beat + i)
        let s := hartWrite s (.matrix g) p (words.flatMap (bytesOf 4 ·))
        modEngine s g (putHead { q with op := .st ea row (beat + 1) })
    | _ => s
/-- MST_BEAT: The MST at the head performs a beat (R198). -/
def execMstBeat (g : ClusterId) (s : State) : Out := .next (mstStep s g)

/-- The gang dissolves once the commands accepted before an MGANG of one of its engines have completed (R199). -/
def dissolve (s : State) (g : ClusterId) : State :=
  match (engineAt s g).queue.head? with
  | none => s
  | some q => match q.op with
    | .leave before =>
      if (engineAt s g).strip.isSome && !afterLeave s g q && !(gangPending s g).any before.contains then
        popHead ((gangOf g).foldl (fun s x => modEngine s x fun e => { e with strip := none }) s) g
      else s
    | _ => s
/-- GANG_DISSOLVE: The gang of the cluster dissolves (R199). -/
def execGangDissolve (g : ClusterId) (s : State) : Out := .next (dissolve s g)
/-- BAND_WAKE: Waking bands become usable (R330). -/
def execBandWake (g : ClusterId) (s : State) : Out := .next (modEngine s g fun e => { e with wakingBands := false })

end Sys2Proof.Machine
end

