-- ==== Sys2Proof/Machine/Copy.lean ====
section
/-! DEFINITION. The copy unit (R201–R210, R213): submission, batches, the descriptor forms beat by beat, completion. -/

namespace Sys2Proof.Machine

/-! ### The descriptor (Table 9.4) -/

def dDst (d : BitVec 512) : Word := d.extractLsb' 0 64
def dSrc (d : BitVec 512) : Word := d.extractLsb' 64 64
def dRows (d : BitVec 512) : Nat := (d.extractLsb' 128 32).toNat
def dRlen (d : BitVec 512) : Nat := (d.extractLsb' 160 32).toNat
def dDstr (d : BitVec 512) : Word := d.extractLsb' 192 64
def dSstr (d : BitVec 512) : Word := d.extractLsb' 256 64
def dAux (d : BitVec 512) : Word := d.extractLsb' 320 64
def dSfmt (d : BitVec 512) : Nat := (d.extractLsb' 384 4).toNat
def dDfmt (d : BitVec 512) : Nat := (d.extractLsb' 388 4).toNat
def dRdst (d : BitVec 512) : Bool := d.getLsbD 392
/-- CPY's operands placed as destination, source and a 40-bit count. -/
def cpyDesc (dst src n : Word) : BitVec 512 := ((n.extractLsb' 0 40 ++ src ++ dst : BitVec 168)).setWidth 512
/-- CPY's count. -/
def cpyCount (d : BitVec 512) : Nat := (d.extractLsb' 128 40).toNat

/-- Bytes of an element of a format code; 1 for BSM4, whose elements share bytes. -/
def codeSize (n : Nat) : Nat := match n with | 1 => 2 | 2 => 4 | 3 => 2 | 4 => 4 | _ => 1
/-- The float format of a code (3 BF16, 4 FP32, 5 E4M3, 6 E5M2). -/
def codeFmt (n : Nat) : Fmt := match n with | 3 => fmtBf16 | 4 => fmtF32 | 5 => fmtE4m3 | _ => fmtE5m2
/-- A block-scaled code. -/
def isBsm (n : Nat) : Bool := n == 7 || n == 8
/-- Mantissa bytes of a block of 32 elements. -/
def mantBytes (n : Nat) : Nat := if n = 8 then 16 else 32
/-- The combinations of R203. -/
def formatsOk (f : CopyForm) (sf df : Nat) : Bool :=
  match f with
  | .cpy => true
  | .cpy2 => sf == 0 && df == 0
  | .cgth => sf == 0 && df == 0
  | .cpyt => sf == df && decide (sf ≤ 2)
  | .cdec => decide (5 ≤ sf) && decide (sf ≤ 8) && (df == 3 || df == 4)
  | .cenc => (sf == 3 || sf == 4) && decide (5 ≤ df) && decide (df ≤ 8)
/-- An address array with a stride keeps an element size: the base, and the stride where it is used. -/
def strideOk (sz : Nat) (base stride : Word) (steps : Nat) : Bool :=
  base.toNat % sz == 0 && (decide (steps ≤ 1) || stride.toNat % sz == 0)
/-- The alignment rules of R204 and R205, for a job that has elements. -/
def alignOk (f : CopyForm) (d : BitVec 512) (rows rlen : Nat) : Bool :=
  match f with
  | .cpy => true
  | .cpy2 => true
  | .cgth => rows == 0 || (dAux d).toNat % 4 == 0
  | .cpyt => rows == 0 || rlen == 0 ||
      (strideOk (codeSize (dSfmt d)) (dSrc d) (dSstr d) rows && strideOk (codeSize (dSfmt d)) (dDst d) (dDstr d) rlen)
  | .cdec => (!isBsm (dSfmt d) || rlen % 32 == 0) && (rows == 0 || rlen == 0 || dRdst d ||
      strideOk (codeSize (dDfmt d)) (dDst d) (dDstr d) rows)
  | .cenc => (!isBsm (dDfmt d) || rlen % 32 == 0) && (rows == 0 || rlen == 0 ||
      strideOk (codeSize (dSfmt d)) (dSrc d) (dSstr d) rows)
/-- A descriptor that ends its job with BADDESC (R206). AUX that is not zero where Table 9.4 has it "otherwise zero" (CPY2, CPYT) is
ignored (DESIGN CHOICE, log 97). -/
def badDesc (s : State) (c : CoreId) (f : CopyForm) (d : BitVec 512) (rows rlen : Nat) : Bool :=
  let r := ringAt s c (d.extractLsb' 0 3)
  d.extractLsb' 393 55 != 0#55 || !formatsOk f (dSfmt d) (dDfmt d) || !alignOk f d rows rlen ||
  (dRdst d && (f == .cpyt || f == .cenc || d.extractLsb' 3 61 != 0#61 || !r.bound || r.side))

/-! ### Jobs -/

/-- Rows of a job. -/
def jobRows (b : CopyJob) : Nat :=
  if b.form = .cpy then (if cpyCount b.desc = 0 then 0 else 1)
  else (b.capture.map (·.1.toNat)).getD (dRows b.desc)
/-- Row length of a job. -/
def jobRlen (b : CopyJob) : Nat :=
  if b.form = .cpy then cpyCount b.desc else (b.capture.map (·.2.toNat)).getD (dRlen b.desc)
/-- Units a row is written in: bytes, elements, or for a block-scaled encode the mantissa bytes and the scale byte of each
block. -/
def rowUnits (b : CopyJob) : Nat :=
  if b.form = .cenc && isBsm (dDfmt b.desc) then jobRlen b / 32 * (mantBytes (dDfmt b.desc) + 1) else jobRlen b
/-- Destination bytes of one unit. -/
def unitBytes (b : CopyJob) : Nat :=
  match b.form with
  | .cpyt => codeSize (dSfmt b.desc)
  | .cdec => codeSize (dDfmt b.desc)
  | _ => 1
def mulWord (n : Nat) (w : Word) : Word := BitVec.ofNat 64 n * w
/-- Where unit `idx` of row `row` goes in memory. A block-scaled encode writes a block's mantissa bytes and then its scale byte
(DESIGN CHOICE, log 69). -/
def unitVa (b : CopyJob) : Word :=
  let d := b.desc
  match b.form with
  | .cpy => dDst d + BitVec.ofNat 64 b.idx
  | .cpyt => dDst d + mulWord b.idx (dDstr d) + BitVec.ofNat 64 (b.row * codeSize (dSfmt d))
  | .cenc =>
    let mb := mantBytes (dDfmt d)
    if isBsm (dDfmt d) then
      if b.idx % (mb + 1) = mb then dAux d + BitVec.ofNat 64 (b.row * (jobRlen b / 32) + b.idx / (mb + 1))
      else dDst d + mulWord b.row (dDstr d) + BitVec.ofNat 64 (b.idx / (mb + 1) * mb + b.idx % (mb + 1))
    else dDst d + mulWord b.row (dDstr d) + BitVec.ofNat 64 b.idx
  | _ => dDst d + mulWord b.row (dDstr d) + BitVec.ofNat 64 (b.idx * unitBytes b)
/-- Units that a beat at the job's position may cover before the end of its row, or of its block's mantissas. -/
def unitsLeft (b : CopyJob) : Nat :=
  match b.form with
  | .cpyt => 1
  | .cenc =>
    let mb := mantBytes (dDfmt b.desc)
    if isBsm (dDfmt b.desc) then (if b.idx % (mb + 1) = mb then 1 else mb - b.idx % (mb + 1)) else rowUnits b - b.idx
  | _ => rowUnits b - b.idx

/-- Why a beat cannot be performed. -/
inductive BeatStop
  | fault (t : TrapInfo) (va : Word)
  | poison (va : Word)
  | held
  deriving DecidableEq, Repr

/-- The die whose walkers serve a hart (R296): its own; a port's, that of the job's core. -/
def hartDie (h : Hart) (w : Who) : DieId :=
  match h with
  | .copy g => dieId (g.val / 32)
  | .matrix g => dieId (g.val / 32)
  | .merge d => d
  | .port _ => coreDie w.core
/-- The place of an engine's access, or what stops it. -/
def beatPlace (s : State) (h : Hart) (w : Who) (kind : AccKind) (va : Word) (n : Nat) : Except BeatStop Place :=
  match placeAt s (hartDie h w) w kind va n 1 with
  | .ok p => .ok p
  | .fault t => .error (.fault t va)
  | .held => .error .held
/-- The state after the translation of an engine's access. -/
def walkedBeat (s : State) (h : Hart) (w : Who) (kind : AccKind) (va : Word) : State := walkedAt s (hartDie h w) w kind va
/-- The state after the walk whose fault stops a beat at an address (R294): it has made its reads too. -/
def faultWalked (s : State) (h : Hart) (w : Who) (t : TrapInfo) (va : Word) : State :=
  walkedBeat s h w (if t.cause == .storePageFault then .store else .load) va
/-- An engine's read of `n` bytes, in pieces that lie within 64-byte groups. -/
def engineLoad (h : Hart) (w : Who) : Nat → State → Word → Nat → Except BeatStop (State × List Byte)
  | 0, s, _, _ => .ok (s, [])
  | fuel + 1, s, va, n =>
    if n = 0 then .ok (s, []) else
    let k := min n (64 - va.toNat % 64)
    match beatPlace s h w .load va k with
    | .error e => .error e
    | .ok p =>
      let r := hartRead (walkedBeat s h w .load va) h p k
      if r.2.2 then .error (.poison va) else
      match engineLoad h w fuel r.1 (va + BitVec.ofNat 64 k) (n - k) with
      | .error e => .error e
      | .ok t => .ok (t.1, r.2.1 ++ t.2)
/-- Pieces that `n` bytes can need. -/
def pieces (n : Nat) : Nat := n / 64 + 2
def loadFor (s : State) (h : Hart) (w : Who) (va : Word) (n : Nat) : Except BeatStop (State × List Byte) :=
  engineLoad h w (pieces n) s va n

/-- What a beat of `n` units writes, with the state after its reads, what the job keeps for the rest of the row, and whether
an element overflowed. -/
structure BeatData where
  state : State
  bytes : List Byte
  kept  : List Byte
  ovf   : Bool
/-- Row r of the source. -/
def srcRow (b : CopyJob) (r : Nat) : Word := dSrc b.desc + mulWord r (dSstr b.desc)
/-- Element `i` of little-endian elements of `sz` bytes. -/
def byteElem (sz : Nat) (bs : List Byte) (i : Nat) : Nat := leNat ((bs.drop (i * sz)).take sz)
/-- Mantissa `i` of a block-scaled byte run whose first byte holds element `i0`. -/
def mantAt (four : Bool) (bs : List Byte) (i0 i : Nat) : Int :=
  if four then
    let b := bs.getD (i / 2 - i0 / 2) 0#8
    (if i % 2 = 0 then b.extractLsb' 0 4 else b.extractLsb' 4 4).toInt
  else (bs.getD (i - i0) 0#8).toInt
/-- CDEC's beat (R205): elements i … i + n − 1 of the row. -/
def decodeBeat (s : State) (h : Hart) (b : CopyJob) (n : Nat) : Except BeatStop BeatData :=
  let d := b.desc
  let four := dSfmt d == 8
  let i := b.idx
  let dst := codeFmt (dDfmt d)
  let first := if four then i / 2 else i
  let bytes := if four then (i + n - 1) / 2 - i / 2 + 1 else n
  match loadFor s h b.who (srcRow b b.row + BitVec.ofNat 64 first) bytes with
  | .error e => .error e
  | .ok (s, bs) =>
    if isBsm (dSfmt d) then
      let j0 := i / 32
      match loadFor s h b.who (dAux d + BitVec.ofNat 64 (b.row * (jobRlen b / 32) + j0)) ((i + n - 1) / 32 - j0 + 1) with
      | .error e => .error e
      | .ok (s, es) =>
        let rs := (List.range n).map fun k =>
          decodeBsm four dst (es.getD ((i + k) / 32 - j0) 0#8).toNat (mantAt four bs i (i + k))
        .ok ⟨s, rs.flatMap fun r => leBytes (codeSize (dDfmt d)) r.bits, [], rs.any (·.ovf)⟩
    else
      .ok ⟨s, bs.flatMap fun x => leBytes (codeSize (dDfmt d)) (convFl dst .rne 0 (unpackFl (codeFmt (dSfmt d)) x.toNat)).bits,
        [], false⟩
/-- The draw of element `e` of a CENC job, counted in the order of its destination layout (R67, R205). -/
def encDraw (b : CopyJob) (e : Nat) : Nat := draw b.key (b.ctr + BitVec.ofNat 32 e)
/-- The byte of a block-scaled mantissa array at offset `o` of a block. -/
def mantByte (four : Bool) (ms : List Int) (o : Nat) : Byte :=
  if four then BitVec.ofInt 4 (ms.getD (2 * o + 1) 0) ++ BitVec.ofInt 4 (ms.getD (2 * o) 0) else BitVec.ofInt 8 (ms.getD o 0)
/-- CENC's beat (R205): FP8 elements, mantissa bytes of a block, or its scale byte. The mantissas come first, and each beat reads the
block's 32 source elements again (DESIGN CHOICE, log 69): the spec orders neither. -/
def encodeBeat (s : State) (h : Hart) (b : CopyJob) (n : Nat) : Except BeatStop BeatData :=
  let d := b.desc
  let ss := codeSize (dSfmt d)
  let src (bs : List Byte) (i : Nat) : Fl := unpackFl (codeFmt (dSfmt d)) (byteElem ss bs i)
  if isBsm (dDfmt d) then
    let four := dDfmt d == 8
    let mb := mantBytes (dDfmt d)
    let j := b.idx / (mb + 1)
    let o := b.idx % (mb + 1)
    match loadFor s h b.who (srcRow b b.row + BitVec.ofNat 64 (32 * j * ss)) (32 * ss) with
    | .error e => .error e
    | .ok (s, bs) =>
      let r := encodeBlock four b.mode (fun i => encDraw b (b.row * jobRlen b + 32 * j + i)) ((List.range 32).map (src bs))
      let out := if o = mb then [BitVec.ofNat 8 r.1] else (List.range n).map fun k => mantByte four r.2.1 (o + k)
      .ok ⟨s, out, [], r.2.2⟩
  else
    match loadFor s h b.who (srcRow b b.row + BitVec.ofNat 64 (b.idx * ss)) (n * ss) with
    | .error e => .error e
    | .ok (s, bs) =>
      let rs := (List.range n).map fun k =>
        convFl (codeFmt (dDfmt d)) b.mode (encDraw b (b.row * jobRlen b + b.idx + k)) (src bs k)
      .ok ⟨s, rs.map fun r => BitVec.ofNat 8 r.bits, [], rs.any (·.ovf)⟩
/-- The data of a beat of `n` units at the job's position (R204, R205). -/
def beatData (s : State) (h : Hart) (b : CopyJob) (n : Nat) : Except BeatStop BeatData :=
  let d := b.desc
  match b.form with
  | .cpy => (loadFor s h b.who (dSrc d + BitVec.ofNat 64 b.idx) n).map fun r => ⟨r.1, r.2, [], false⟩
  | .cpy2 => (loadFor s h b.who (srcRow b b.row + BitVec.ofNat 64 b.idx) n).map fun r => ⟨r.1, r.2, [], false⟩
  | .cpyt =>
    let es := codeSize (dSfmt d)
    if b.idx = 0 then
      (loadFor s h b.who (srcRow b b.row) (jobRlen b * es)).map fun r => ⟨r.1, r.2.take es, r.2, false⟩
    else .ok ⟨s, (b.buffer.drop (b.idx * es)).take es, b.buffer, false⟩
  | .cgth =>
    let index := if b.idx = 0 then loadFor s h b.who (dAux d + BitVec.ofNat 64 (4 * b.row)) 4 else .ok (s, b.buffer)
    (match index with
     | .error e => .error e
     | .ok (s, ix) =>
       (loadFor s h b.who (srcRow b (leNat ix) + BitVec.ofNat 64 b.idx) n).map fun r => ⟨r.1, r.2, ix, false⟩)
  | .cdec => decodeBeat s h b n
  | .cenc => encodeBeat s h b n

/-! ### A job's bookkeeping -/

def findJob (s : State) (g : ClusterId) (seq : Word32) : Option CopyJob := (clusterAt s g).jobs.find? (·.seq == seq)
def putJob (s : State) (g : ClusterId) (b : CopyJob) : State :=
  modCluster s g fun k => { k with jobs := k.jobs.map fun x => if x.seq == b.seq then b else x }
/-- A job has completed, its writes performed (R92): its batch no longer waits for it (R209), and its core's sleepers wake (R161). -/
def dropJob (s : State) (g : ClusterId) (b : CopyJob) : State :=
  modCore (modCluster (hartFlush s (.copy g)) g fun k => { k with jobs := k.jobs.filter (·.seq != b.seq) }) b.who.core wakeSleepers
/-- Posts a record of the copy unit (kind 0). -/
def postCopy (s : State) (g : ClusterId) (b : CopyJob) (cause : BitVec 4) (va : Word) : State :=
  postFault s (dieId (g.val / 32))
    { va := va, kind := 0#3, cause := cause, asid := b.who.asid, lc := b.who.lc, seq := b.seq,
      unit := BitVec.ofNat 64 (lclusOf s g), ref := 0 }
/-- The job suspends before the faulting beat (R208). -/
def suspendJob (s : State) (g : ClusterId) (b : CopyJob) (cause : BitVec 4) (va : Word) : State :=
  postCopy (putJob s g { b with suspended := true }) g b cause va
/-- The job holds a slot of its ring. -/
def holdsSlot (s : State) (b : CopyJob) : Bool :=
  b.form != .cpy && dRdst b.desc && (ringAt s b.who.core (b.desc.extractLsb' 0 3)).prod.any (·.1 == b.seq)
/-- A producing engine marks its slot filled, as a release: its writes have been performed (R92, R213). -/
def fillSlot (s : State) (g : ClusterId) (c : CoreId) (ring : BitVec 3) : State :=
  modRing (hartFlush s (.copy g)) c ring fun r => { giveSlot true r with prod := none }
/-- The rest of a ring slot that a job holds as it ends is zeroed, beat by beat as R201 forms them, and the slot is filled with the last
beat (R213); a frozen window holds this back (R337). -/
def closeSlot (s : State) (g : ClusterId) (b : CopyJob) : State :=
  let ring : BitVec 3 := b.desc.extractLsb' 0 3
  let r := ringAt s b.who.core ring
  if (coreAt s b.who.core).frozen then s else
  let k := (r.prod.getD (0#32, 0)).2
  let off := slotOff r r.head + k
  let n := min (r.slot - k) (64 - off % 64)
  let s := hartWrite s (.copy g) (.array b.who.core off) (List.replicate n 0#8) b.seq
  if k + n < r.slot then modRing s b.who.core ring fun r => { r with prod := some (b.seq, k + n) } else fillSlot s g b.who.core ring
/-- The row in progress counts in OVF if an element of it has overflowed (R69, R205, Table 9.5). -/
def countRow (b : CopyJob) : CopyJob := { b with ovf := if b.rowOvf then min 0xFFFF (b.ovf + 1) else b.ovf, rowOvf := false }
/-- The job's rows have ended with a status: a CPY is complete, a descriptor job has its slot to close and its mailbox to write. -/
def endJob (s : State) (g : ClusterId) (b : CopyJob) (st : Nat) : State :=
  let b := countRow b
  if b.form = .cpy then dropJob s g b else putJob s g { b with status := st, suspended := false }
/-- STATUS of a refused beat (R207). -/
def refusedStatus (t : TrapInfo) : Nat :=
  match t.cause with
  | .windowPermission => 2
  | .unallocatedWindow => 3
  | _ => 4
/-- What becomes of a job whose beat is stopped. -/
def stopJob (s : State) (g : ClusterId) (b : CopyJob) : BeatStop → State
  | .held => s
  | .poison va => suspendJob s g b 4#4 va
  | .fault t va =>
    let s := faultWalked s (.copy g) b.who t va
    if translationFault t then suspendJob s g b (recordCause t) va
    else if b.form = .cpy then endJob (postCopy s g b (recordCause t) va) g b 4
    else endJob s g b (refusedStatus t)
/-- The mailbox word (Table 9.5). -/
def mailWord (b : CopyJob) : Word :=
  ((BitVec.ofNat 16 b.ovf ++ BitVec.ofNat 32 b.row ++ 0#4 ++ BitVec.ofNat 4 b.status : BitVec 56)).setWidth 64
/-- The record's CAUSE where the unit cannot reach a descriptor or mailbox: that of the translation fault, else 3 (R207, Table 15.7). -/
def reachCause (t : TrapInfo) : BitVec 4 := if translationFault t then recordCause t else 3#4
/-- The job completes: its mailbox is written as a store-release at .pkg (R203, R207). One that it cannot reach leaves the job, and its
batch, unfinished until service (R277). -/
def writeMail (s : State) (g : ClusterId) (b : CopyJob) : State :=
  let va := b.descVa + 56#64
  let s := walkedBeat s (.copy g) b.who .store va
  match beatPlace s (.copy g) b.who .store va 8 with
  | .error .held => s
  | .error (.poison _) => s
  | .error (.fault t _) => suspendJob s g b (reachCause t) va
  | .ok p => dropJob (hartRelease s (.copy g) p (bytesOf 8 (mailWord b))) g b

/-! ### Start and beats -/

/-- The copy unit starts a job: it acquires the kick and reads the descriptor (R92, R203). A descriptor that it cannot reach leaves the
job unfinished until service (R207, R277). -/
def startJob (s : State) (g : ClusterId) (seq : Word32) : State :=
  match findJob s g seq with
  | none => s
  | some b =>
    if b.started || b.suspended || enginePaused s b.who then s else
    let s := writeBackAll s b.who.core (some b.stamp)
    if b.form = .cpy then
      if jobRows b = 0 then dropJob s g b else putJob s g { b with started := true }
    else
      match loadFor s (.copy g) b.who b.descVa 64 with
      | .error .held => s
      | .error (.poison va) => suspendJob s g b 4#4 va
      | .error (.fault t va) => suspendJob (faultWalked s (.copy g) b.who t va) g b (reachCause t) va
      | .ok (s, bs) =>
        let b := { b with started := true, desc := BitVec.ofNat 512 (leNat bs) }
        if badDesc s b.who.core b.form b.desc (jobRows b) (jobRlen b) then putJob s g { b with status := 5 }
        else if jobRows b = 0 || rowUnits b = 0 then putJob s g { b with row := jobRows b, status := 1 }
        else putJob s g b
/-- An overflow of CENC sets the submitter's CVTOVF (R69). -/
def noteOverflow (s : State) (b : CopyJob) : State :=
  if b.form = .cenc then modCtx s b.who.core b.who.ctx fun t => { t with cvtovf := true } else s
/-- The job's position after `n` units. -/
def stepJob (s : State) (g : ClusterId) (b : CopyJob) (n : Nat) (d : BeatData) : State :=
  let s := if d.ovf then noteOverflow s b else s
  let spill := b.rowOvf || d.ovf
  if b.idx + n < rowUnits b then putJob s g { b with idx := b.idx + n, rowOvf := spill, buffer := d.kept }
  else
    let b := { countRow { b with rowOvf := spill } with row := b.row + 1, idx := 0, buffer := [] }
    if b.row < jobRows b then putJob s g b else endJob s g b 1
/-- One beat of a job with a destination in memory. -/
def memoryBeat (s : State) (g : ClusterId) (b : CopyJob) : State :=
  let va := unitVa b
  let n := max 1 (min (unitsLeft b) ((64 - va.toNat % 64) / unitBytes b))
  match beatData s (.copy g) b n with
  | .error e => stopJob s g b e
  | .ok d =>
    match beatPlace d.state (.copy g) b.who .store va d.bytes.length with
    | .error e => stopJob s g b e
    | .ok p => stepJob (hartWrite (walkedBeat d.state (.copy g) b.who .store va) (.copy g) p d.bytes b.seq) g b n d
/-- One beat of a job into a ring slot that it holds (R213); the slot is filled after its last byte. -/
def ringBeat (s : State) (g : ClusterId) (b : CopyJob) : State :=
  let c := b.who.core
  let ring : BitVec 3 := b.desc.extractLsb' 0 3
  let r := ringAt s c ring
  match r.prod with
  | none => s
  | some (seq, k) =>
    if seq != b.seq || (coreAt s c).frozen then s else
    let off := slotOff r r.head + k
    let n := max 1 (min (unitsLeft b) (min (r.slot - k) (64 - off % 64) / unitBytes b))
    match beatData s (.copy g) b n with
    | .error e => stopJob s g b e
    | .ok d =>
      let s := hartWrite d.state (.copy g) (.array c off) d.bytes b.seq
      let k' := k + d.bytes.length
      let s := if k' < r.slot then modRing s c ring fun r => { r with prod := some (seq, k') } else fillSlot s g c ring
      stepJob s g b n d
/-- One beat of a job, a beat of the end of its slot, or the write of its mailbox: the write of the job's previous beat has been
performed before (R201). -/
def beatJob (s : State) (g : ClusterId) (seq : Word32) : State :=
  match findJob s g seq with
  | none => s
  | some b =>
    if !b.started || b.suspended || enginePaused s b.who then s else
    let s := hartOrder s g seq
    if b.status ≠ 0 then (if holdsSlot s b then closeSlot s g b else writeMail s g b)
    else if dRdst b.desc && b.form ≠ .cpy then ringBeat s g b
    else memoryBeat s g b
/-- ENGINE_JOB_START: The copy unit acquires the kick of a job (R92). -/
def execEngineJobStart (g : ClusterId) (seq : Word32) (s : State) : Out := .next (startJob s g seq)
/-- COPY_BEAT: The copy unit performs one beat of a job (R201). -/
def execCopyBeat (g : ClusterId) (seq : Word32) (s : State) : Out := .next (beatJob s g seq)

/-- A copy job of core `c` that needs a slot of a ring. -/
def producerOf (s : State) (c : CoreId) (ring : BitVec 3) : Option CopyJob :=
  (clusterAt s (clusterOf s c)).jobs.find? fun b =>
    b.who.core == c && b.started && !b.suspended && b.status == 0 && b.form != .cpy && dRdst b.desc && b.desc.extractLsb' 0 3 == ring
/-- The producing side takes the slot at HEAD, an acquire at .cl of the slot's last release by the core (R213). -/
def produceSlot (s : State) (c : CoreId) (ring : BitVec 3) : State :=
  let r := ringAt s c ring
  if r.bound && r.prod.isNone && !heldAt (coreAt s c) ring.toFin true && r.free != 0 && !(coreAt s c).frozen then
    match producerOf s c ring with
    | none => s
    | some b => modRing (writeBackAll s c (some r.rel)) c ring fun r => { r with prod := some (b.seq, 0) }
  else s
/-- The engine side of a ring takes a slot: the matrix engine's head command the slot at TAIL, a copy job the slot at HEAD. -/
def engineTake (s : State) (c : CoreId) (ring : BitVec 3) : State :=
  produceSlot (takeSlot s (clusterOf s c) c ring) c ring
/-- ENGINE_RING_TAKE: The engine side of a ring takes a slot (R213). -/
def execEngineRingTake (c : CoreId) (ring : BitVec 3) (s : State) : Out := .next (engineTake s c ring)

/-! ### Submission (R201–R203) -/

/-- The queue of a cluster's copy unit is full. -/
def copyFull (s : State) (c : CoreId) : Bool := decide (64 ≤ (clusterAt s (clusterOf s c)).jobs.length)
/-- A job enters the unit's queue and the context's open batch: a store-release at .cl to the kick. -/
def submitJob (s : State) (c : CoreId) (j : CtxId) (form : CopyForm) (mode : RMode) (capture : Option (Word32 × Word32))
    (va : Word) (desc : BitVec 512) : State :=
  let g := clusterOf s c
  let t := ctxAt s c j
  let r := releaseStamp s c j .cl
  let seq := (clusterAt r.1 g).copySeq + 1
  let b : CopyJob :=
    { seq := seq, form := form, who := whoOf s c j, stamp := r.2, started := false, suspended := false, mode := mode
      key := t.srkey, ctr := t.srctr, capture := capture, descVa := va, desc := desc, row := 0, idx := 0, ovf := 0
      rowOvf := false, buffer := [], status := 0 }
  let s := modCluster r.1 g fun k => { k with jobs := k.jobs ++ [b], copySeq := seq }
  undiscard (modCtx s c j fun t => { t with openJobs := t.openJobs ++ [seq] }) c j
/-- The job id of the last job the unit accepted. -/
def lastJobId (s : State) (c : CoreId) : Word := jobId s (clusterOf s c) (clusterAt s (clusterOf s c)).copySeq
/-- CPY: Byte copy job (R202). -/
def execCpy (stl : Stl) (d a b c : Reg) (s : State) : Out := instr s stl 3 [nx a, nx b, nx c] fun p j =>
    let t := ctxAt s p j
    if copyFull s p || releaseHeld s p j then .wait s false else
    let s' := submitJob s p j .cpy .rne none 0#64 (cpyDesc (readX s t a) (readX s t b) (readX s t c))
    .done (writeX s' p j d 1 (lastJobId s' p))

/-- CENC.sr reads ROWS and RLEN as a plain load at issue, and SRCTR advances by their product (R67, R203). -/
def captureSr (s : State) (c : CoreId) (j : CtxId) (va : Word) : Except Act (State × Word32 × Word32) :=
  match access s c j .load (va + 16#64) 8 8 with
  | .error (.fault t) => .error (.faultIn (walked s (whoOf s c j) .load (va + 16#64)) t)
  | .error a => .error a
  | .ok p =>
    if readHeld s c j then .error (.wait s false) else
    let r := loadPlain (walked s (whoOf s c j) .load (va + 16#64)) c j p 8
    if r.2.2 then .error (.fault (poisonFault (va + 16#64)))
    else .ok (r.1, BitVec.ofNat 32 (leNat (r.2.1.take 4)), BitVec.ofNat 32 (leNat (r.2.1.drop 4)))
/-- Submits a descriptor job, or says how the instruction ends instead. -/
def submitDesc (s : State) (c : CoreId) (j : CtxId) (form : CopyForm) (mode : RMode) (va : Word) : Except Act State :=
  if va.toNat % 64 != 0 then .error (.fault ⟨.misaligned, 0#8, false, false, va⟩)
  else if copyFull s c || releaseHeld s c j then .error (.wait s false)
  else if form = .cenc && mode = .sr then
    match captureSr s c j va with
    | .error a => .error a
    | .ok (s, rows, rlen) =>
      let s := submitJob s c j form mode (some (rows, rlen)) va 0#512
      .ok (modCtx s c j fun t => { t with srctr := t.srctr + rows * rlen })
  else .ok (submitJob s c j form mode none va 0#512)
/-- A descriptor instruction of major 0x49. -/
def descriptorJob (s : State) (stl : Stl) (form : CopyForm) (mode : RMode) (d a : Reg) : Out :=
  instr s stl 3 [nx a] fun c j =>
    match submitDesc s c j form mode (readX s (ctxAt s c j) a) with
    | .error act => act
    | .ok s' => .done (writeX s' c j d 1 (lastJobId s' c))
/-- CPY2: Descriptor copy job (R203–R205). -/
def execCpy2 (stl : Stl) (d a : Reg) (s : State) : Out := descriptorJob s stl .cpy2 .rne d a
/-- CPYT: Descriptor copy job (R203–R205). -/
def execCpyt (stl : Stl) (d a : Reg) (s : State) : Out := descriptorJob s stl .cpyt .rne d a
/-- CGTH: Descriptor copy job (R203–R205). -/
def execCgth (stl : Stl) (d a : Reg) (s : State) : Out := descriptorJob s stl .cgth .rne d a
/-- CDEC: Descriptor copy job (R203–R205). -/
def execCdec (stl : Stl) (d a : Reg) (s : State) : Out := descriptorJob s stl .cdec .rne d a
/-- CENC: Encoding copy job (R203, R205). -/
def execCenc (stl : Stl) (rm : RMode) (d a : Reg) (s : State) : Out := descriptorJob s stl .cenc rm d a

/-! ### Batches (R209) -/

/-- A job of the context has not completed. -/
def jobOpen (s : State) (c : CoreId) (seq : Word32) : Bool :=
  (clusterAt s (clusterOf s c)).jobs.any fun b => b.seq == seq && b.who.core == c
/-- The sealed batches that are unfinished: a batch is finished with all its jobs and every earlier batch. -/
def unfinished (s : State) (c : CoreId) (bs : List (List Word32)) : List (List Word32) :=
  bs.dropWhile fun b => !b.any (jobOpen s c)
/-- CSEAL: Closes the open batch (R209). -/
def execCseal (stl : Stl) (s : State) : Out := instr s stl 3 [] fun c j =>
    let t := ctxAt s c j
    let left := unfinished s c (t.batches ++ [t.openJobs])
    if 255 < left.length || releaseHeld s c j then .wait s false
    else
      let s := undiscard (releaseStamp s c j .cl).1 c j
      .done (modCtx s c j fun t => { t with batches := left, openJobs := [] })
/-- CWAIT: Waits for batches (R209). -/
def execCwait (stl : Stl) (n : BitVec 12) (s : State) : Out := if 2048#12 ≤ n then illegalWord s stl (packI stl 0#5 0#5 (n) 0x4B#7) else
  instr s stl 3 [] fun c j =>
    let left := unfinished s c (ctxAt s c j).batches
    if n.toNat < left.length then .wait s true
    else if readHeld s c j then .wait s false
    else .done (acquireMail (modCtx s c j fun t => { t with batches := left }) c j)

/-! ### Static schedules (R210) -/

/-- SCNT of the launch of a core's team (Table 17.2). -/
def scheduleCount (s : State) (lid : Word32) : Nat :=
  ((s.hub.launches.find? (·.lid == lid)).map fun l => (l.rec_.extractLsb' 896 12).toNat).getD 0
/-- The entries of the launch's schedule that are due at this core's stage, in entry order (log 22). -/
def dueEntries (s : State) (c : CoreId) : List (Nat × Nat × Word) :=
  match (coreAt s c).team with
  | none => []
  | some b => (List.range (scheduleCount s b.lid)).filterMap fun i =>
      Config.scheduleEntry b.lid.toNat b.tci (coreAt s c).stage.toNat i
/-- The form of a code (R203). -/
def formOf (n : Nat) : CopyForm := match n with | 0 => .cpy2 | 1 => .cpyt | 2 => .cgth | 3 => .cdec | _ => .cenc
/-- The rounding mode of a code (Table 3.2). -/
def modeOf (n : Nat) : RMode := match n with | 1 => .rtz | 2 => .rdn | 3 => .rup | 4 => .sr | _ => .rne
/-- Submits entries one after another; one that cannot be submitted yet leaves the rest to the instruction's next issue. -/
def submitAll (c : CoreId) (j : CtxId) : List (Nat × Nat × Word) → State → Except Act State
  | [], s => .ok s
  | (f, m, va) :: es, s =>
    match submitDesc s c j (formOf f) (if f = 4 then modeOf m else .rne) va with
    | .error (.fault t) => .error (.faultIn s t)
    | .error (.wait _ _) => .error (.wait s false)
    | .error a => .error a
    | .ok s => submitAll c j es (modCore s c fun k => { k with stageDone := k.stageDone + 1 })
/-- CSTAGE: Submits a stage of the static schedule (R210). -/
def execCstage (stl : Stl) (s : State) : Out := instr s stl 3 [] fun c j =>
    if releaseHeld s c j then .wait s false else
    match submitAll c j ((dueEntries s c).drop (coreAt s c).stageDone) s with
    | .error a => a
    | .ok s' =>
      .done (undiscard (modCore s' c fun k => { k with stage := k.stage + 1, stageDone := 0 }) c j)

/-- The service's answer to a record of a copy job (R277): 1 resumes it at its beat, 2 ends it with ACCESS. -/
def serveCopy (s : State) (g : ClusterId) (seq : Word32) (resume : Bool) : State :=
  match findJob s g seq with
  | none => s
  | some b =>
    if !b.suspended then s
    else if resume then putJob s g { b with suspended := false }
    else if b.status ≠ 0 then dropJob s g b
    else endJob s g { b with started := true } 4
/-- The service's answer to a record of CAUSE 3: the job, whose descriptor or mailbox could not be reached, ends with its mailbox
unwritten, and its batch with it (R207, R277). -/
def endUnreached (s : State) (g : ClusterId) (seq : Word32) : State :=
  match findJob s g seq with
  | none => s
  | some b => if b.suspended then dropJob s g b else s
/-- The same for the matrix engine's head command. -/
def serveMatrix (s : State) (g : ClusterId) (seq : Word32) (resume : Bool) : State :=
  match (engineAt s g).queue.head? with
  | none => s
  | some q =>
    if q.seq != seq || !q.suspended then s
    else if resume then modEngine s g (putHead { q with suspended := false }) else popHead s g

end Sys2Proof.Machine
end

