-- ==== Sys2Proof/Machine/Merge.lean ====
section
/-! DEFINITION. Bounded merge windows (R162–R173): the unit's state and steps, and the merge instructions. -/

namespace Sys2Proof.Machine

/-! ### FP32 division and square root by RNE, the two steps of R167 beside products and sums -/

/-- RNE(√v). -/
def sqrtFl (v : Fl) : FRes :=
  match v with
  | .nan sig => nanRes fmtF32 sig
  | .inf n => if n then nanRes fmtF32 true else ⟨infCode fmtF32 false, 0#5, false⟩
  | .fin n m e =>
    if m = 0 then ⟨zeroCode fmtF32 n, 0#5, false⟩
    else if n then nanRes fmtF32 true
    else
      let sh : Nat := if e % 2 = 0 then 64 else 65
      let big := m * 2 ^ sh
      let r := Nat.sqrt big
      roundFl fmtF32 .rne 0 false (2 * r + (if r * r = big then 0 else 1)) ((e - sh) / 2 - 1)
/-- RNE(a / b) of two positive values, b not zero. -/
def ratioFl (a b : Fl) : FRes :=
  match a, b with
  | .fin _ m e, .fin _ k f =>
    let big := m * 2 ^ 64
    roundFl fmtF32 .rne 0 false (2 * (big / k) + (if big % k = 0 then 0 else 1)) (e - f - 65)
  | .fin _ _ _, .inf _ => ⟨zeroCode fmtF32 false, 0#5, false⟩
  | _, _ => nanRes fmtF32 false

/-! ### The window object (Table 7.5) -/

/-- Reserved bits of the object. -/
def winReserved (v : BitVec 512) : Bool :=
  v.extractLsb' 34 6 != 0#6 || v.extractLsb' 44 20 != 0#20 || v.extractLsb' 105 23 != 0#23 || v.extractLsb' 160 32 != 0#32 ||
    v.extractLsb' 361 151 != 0#151
/-- LIM is a NaN, zero or negative. -/
def badLimit (l : Word32) : Bool := flNan (f32 l) || !ltFl (.fin false 0 0) (f32 l)
def winN (v : BitVec 512) : Nat := (v.extractLsb' 96 9).toNat
def winG (v : BitVec 512) : Nat := (v.extractLsb' 128 32).toNat
/-- BADWIN (R165). -/
def badWindow (v : BitVec 512) : Bool :=
  winN v == 0 || decide (256 < winN v) || winG v == 0 || decide (0x1000000 < winN v * winG v * 4) ||
    badLimit (v.extractLsb' 64 32) || v.extractLsb' 192 6 != 0#6 || winReserved v
/-- The unit's window at an address. -/
def winAt (s : State) (d : DieId) (pa : Nat) : Option MWin := (dieAt s d).wins.find? (·.pa == pa)
def putWin (s : State) (d : DieId) (w : MWin) : State :=
  modDie s d fun k => { k with wins := k.wins.map fun x => if x.pa == w.pa then w else x }
/-- A unit's write at a home (R93). -/
def unitWrite (s : State) (pa : Nat) (bs : List Byte) : State := homeWrite (recallLine s (pa / 256)) pa bs
/-- Bits 63:32 of the object. -/
def winStatus (w : MWin) : Word32 :=
  ((BitVec.ofBool w.scaled ++ BitVec.ofBool w.abandon ++ BitVec.ofBool w.sat ++ BitVec.ofBool w.nan ++ 0#6 ++ w.state :
    BitVec 12)).setWidth 32
/-- The unit writes the RO fields at the window's home (R162). -/
def showWin (s : State) (w : MWin) : State :=
  let s := unitWrite s (w.pa + 4) (bytesOf 4 (winStatus w))
  unitWrite s (w.pa + 32) (bytesOf 4 w.late ++ bytesOf 4 w.rej ++ bytesOf 4 w.commits ++ leBytes 4 w.clasped.length)
/-- Keeps a window and shows it. -/
def setWin (s : State) (d : DieId) (w : MWin) : State := showWin (putWin s d w) w

/-! ### Steps at the unit -/

def dC (v : Word) : Nat := (v.extractLsb' 0 8).toNat
def dCnt (v : Word) : Nat := (v.extractLsb' 8 5).toNat
def dOff (v : Word) : Nat := (v.extractLsb' 16 22).toNat
def dTag (v : Word) : BitVec 24 := v.extractLsb' 40 24
/-- A reserved bit of a merge descriptor is set (Table 7.6). -/
def descReserved (v : Word) : Bool := v.extractLsb' 13 3 != 0#3 || v.extractLsb' 38 2 != 0#2
/-- The tag matches the window's generation (R163). -/
def tagMatches (w : MWin) (v : Word) : Bool := dTag v == w.gen.setWidth 24
/-- Adds elements into a bezel, one rounding each. -/
def addElems (bz : SMap Word32) (k : Nat) : List Word32 → SMap Word32
  | [] => bz
  | v :: vs => addElems (sPut 0#32 bz k (addF32 (sGet 0#32 bz k) v).1) (k + 1) vs
/-- An MZERO of context `j` of core `c` is being performed on the window: its context still waits in it. -/
def zeroes (s : State) (w : MWin) (c : CoreId) (j : CtxId) : Bool :=
  match (ctxAt s c j).wait with
  | .zero pa _ => pa == w.pa && w.zeroer == some (c, j)
  | _ => false
/-- Some MZERO is being performed on the window (R170, R172). -/
def zeroing (s : State) (w : MWin) : Bool := w.zeroer.any fun x => zeroes s w x.1 x.2
/-- A put at the unit (R166). -/
def putAtUnit (s : State) (d : DieId) (p : MPut) : State :=
  match winAt s d p.pa with
  | none => s
  | some w =>
    if !tagMatches w p.desc then setWin s d { w with late := w.late + 1 }
    else if w.n ≤ dC p.desc || dCnt p.desc = 0 || 16 < dCnt p.desc || w.g < dOff p.desc + dCnt p.desc || descReserved p.desc ||
      w.clasped.contains (dC p.desc) then setWin s d { w with rej := w.rej + 1 }
    else putWin s d { w with bezel := addElems w.bezel (dC p.desc * w.g + dOff p.desc) p.vals }
/-- The i-th travelling put reaches its unit, unless an earlier put of its context to its window still travels. -/
def putArrives (s : State) (d : DieId) (i : Nat) : State :=
  match (dieAt s d).puts[i]? with
  | none => s
  | some p =>
    if ((dieAt s d).puts.take i).any fun q => q.who.core == p.who.core && q.who.ctx == p.who.ctx && q.pa == p.pa then s
    else putAtUnit (modDie s d fun k => { k with puts := k.puts.eraseIdx i }) d p
/-- MERGE_PUT_AT_UNIT: The i-th travelling put of the die reaches the unit (R166). -/
def execMergePutAtUnit (d : DieId) (i : Nat) (s : State) : Out := .next (putArrives s d i)

/-- Phase one on contributor C's group (R167): the scaled group and the window's marks. -/
def phaseOne (w : MWin) (c : Nat) : MWin :=
  let el (i : Nat) : Word32 := sGet 0#32 w.bezel (c * w.g + i)
  let q := (List.range w.g).foldl (fun q i => (fmaF32 (el i) (el i) q).1) 0#32
  let nrm := sqrtFl (f32 q)
  let scale := ltFl (f32 w.lim) (unpackFl fmtF32 nrm.bits)
  let sc : Word32 := if scale then BitVec.ofNat 32 (ratioFl (f32 w.lim) (unpackFl fmtF32 nrm.bits)).bits else 0x3F800000#32
  { w with
    bezel := (List.range w.g).foldl (fun b i => sPut 0#32 b (c * w.g + i) (mulF32 (el i) sc).1) w.bezel
    scaled := w.scaled || scale
    nan := w.nan || flNan (f32 q)
    sat := w.sat || (f32 q == .inf false && f32 w.lim != .inf false)
    clasped := setAdd w.clasped c
    state := if w.clasped.length + 1 = w.n then 2#2 else w.state
    elem := 0 }
/-- A clasp at the unit and its status (R167). -/
def claspAtUnit (s : State) (d : DieId) (pa : Nat) (desc : Word) : State × Nat :=
  match winAt s d pa with
  | none => (s, 3)
  | some w =>
    if !tagMatches w desc then (setWin s d { w with late := w.late + 1 }, 1)
    else if w.n ≤ dC desc || w.clasped.contains (dC desc) || descReserved desc then (setWin s d { w with rej := w.rej + 1 }, 2)
    else (setWin s d (phaseOne w (dC desc)), 0)
/-- The unit is at work on an MZERO of the window at pa: a clasp comes after it. -/
def beingZeroed (s : State) (d : DieId) (pa : Nat) : Bool := (winAt s d pa).any (zeroing s)
/-- MERGE_CLASP_AT_UNIT: A clasp on the window at pa is judged (R167). -/
def execMergeClaspAtUnit (d : DieId) (pa : Nat) (desc : Word) (s : State) : Out :=
  .next (if beingZeroed s d pa then s else (claspAtUnit s d pa desc).1)

/-- Posts a record of a merge unit (kind 2). -/
def postMerge (s : State) (d : DieId) (w : MWin) (cause : BitVec 4) (va : Word) : State :=
  postFault s d { va := va, kind := 2#3, cause := cause, asid := w.who.asid, lc := w.who.lc, seq := Config.seqOfKind2 s.free,
                  unit := BitVec.ofNat 64 d.val, ref := w.pa }
/-- The commit ends without committing: the generation is abandoned (R168, R277). -/
def endCommit (s : State) (d : DieId) (w : MWin) : State :=
  setWin s d { w with state := 1#2, abandon := true, ended := true, suspended := false }
/-- The commit waits for service at its element. -/
def suspendCommit (s : State) (d : DieId) (w : MWin) (cause : BitVec 4) : State :=
  postMerge (putWin s d { w with suspended := true }) d w cause (w.total + BitVec.ofNat 64 (4 * w.elem))
/-- What becomes of a commit whose beat is stopped (R168, R284, R337). -/
def stopCommit (s : State) (d : DieId) (w : MWin) : BeatStop → State
  | .held => s
  | .poison _ => suspendCommit s d w 4#4
  | .fault t va =>
    if translationFault t then suspendCommit s d w (recordCause t) else postMerge (endCommit s d w) d w (recordCause t) va
/-- Some staged element that an element of phase two adds lies in a poisoned sector (R284). -/
def staleBezel (w : MWin) (i : Nat) : Bool := (List.range w.n).any fun c => w.bezelPoison.contains ((c * w.g + i) / 16)
/-- The chain of R79 for an element of the total. -/
def chainTotal (w : MWin) (i : Nat) (t : Word32) : Word32 :=
  (List.range w.n).foldl (fun t c => (addF32 t (sGet 0#32 w.bezel (c * w.g + i))).1) t
/-- The element of phase two at which the window stands (R168): read at its home, the chain of R79, written back. One element a
step, so that other accesses can fall between two elements (R93). -/
def commitElem (s : State) (d : DieId) (w : MWin) : State :=
  let va := w.total + BitVec.ofNat 64 (4 * w.elem)
  let h : Hart := .merge d
  if staleBezel w w.elem then suspendCommit s d w 4#4 else
  match loadFor s h w.who va 4 with
  | .error e => stopCommit s d w e
  | .ok (s, bs) =>
    let s := walkedBeat s h w.who .store va
    match beatPlace s h w.who .store va 4 with
    | .error e => stopCommit s d w e
    | .ok p =>
      putWin (hartWrite s h p (bytesOf 4 (chainTotal w w.elem (BitVec.ofNat 32 (leNat bs))))) d { w with elem := w.elem + 1 }
/-- The end of phase two: COMMITS, and the store-release of STATE once every write of the commit has been performed (R92, R168). -/
def endPhaseTwo (s : State) (d : DieId) (w : MWin) : State :=
  let w := { w with commits := w.commits + 1, state := 3#2, elem := 0 }
  hartRelease (setWin (hartFlush s (.merge d)) d w) (.merge d) (.mem (w.pa + 4) false) (bytesOf 4 (winStatus w))
/-- A step of phase two of a window all of whose contributors have clasped: an element, or its end. -/
def commit (s : State) (d : DieId) (pa : Nat) : State :=
  match winAt s d pa with
  | none => s
  | some w =>
    if w.state != 2#2 || w.suspended || enginePaused s w.who then s
    else if w.elem < w.g then commitElem s d w else endPhaseTwo s d w
/-- MERGE_COMMIT: Phase two of the window at pa makes a step (R168). -/
def execMergeCommit (d : DieId) (pa : Nat) (s : State) : Out := .next (commit s d pa)
/-- The service's answer to a record of a commit (R277). -/
def serveMerge (s : State) (d : DieId) (pa : Nat) (resume : Bool) : State :=
  match winAt s d pa with
  | none => s
  | some w => if !w.suspended then s else if resume then putWin s d { w with suspended := false } else endCommit s d w

/-- Whether +0 can be written to an element of the total: no, for now, at a frozen window (R337). -/
inductive ZeroBeat
  | written (s : State)
  | held
/-- The unit writes +0 to an element of the total; one that it cannot reach stays as it is (R170; log 23). -/
def zeroElem (s : State) (d : DieId) (w : MWin) (i : Nat) : ZeroBeat :=
  let h : Hart := .merge d
  let va := w.total + BitVec.ofNat 64 (4 * i)
  let s := walkedBeat s h w.who .store va
  match beatPlace s h w.who .store va 4 with
  | .ok p => .written (hartWrite s h p (List.replicate 4 0#8))
  | .error .held => .held
  | .error _ => .written s
/-- A commit is in progress. -/
def committing (s : State) (d : DieId) (pa : Nat) : Bool := (winAt s d pa).any (·.state == 2#2)
/-- The end of an MZERO at the unit (R170): the total's zeros have been performed, and the window is in its next generation. -/
def endZero (s : State) (d : DieId) (w : MWin) : State × Word :=
  let w := { w with bezel := [], bezelPoison := [], nan := false, sat := false, scaled := false, clasped := [], gen := w.gen + 1
                    ended := false, abandon := w.state != 3#2, state := 1#2, elem := 0, suspended := false, zeroer := none
                    zeroPin := none }
  (setWin (unitWrite (hartFlush s (.merge d)) w.pa (bytesOf 4 w.gen)) d w, w.gen.setWidth 64)
/-- Zeroes the elements of the total from `i` on: `n` are left. None where one is held. -/
def zeroTotal (d : DieId) (w : MWin) : Nat → State → Nat → Option State
  | 0, s, _ => some s
  | n + 1, s, i => match zeroElem s d w i with
    | .written s => zeroTotal d w n s (i + 1)
    | .held => none
/-- An MZERO that the unit performs in one step: nothing happens while a commit or another MZERO is in progress, or an element is held
(R170, R337). -/
def zeroAtUnit (s : State) (d : DieId) (pa : Nat) : State :=
  match winAt s d pa with
  | none => s
  | some w =>
    if w.state == 2#2 || zeroing s w then s else
    match zeroTotal d w w.g s 0 with
    | none => s
    | some s' => (endZero s' d w).1
/-- MZERO_AT_UNIT: The unit zeroes the window at pa (R170). -/
def execMzeroAtUnit (d : DieId) (pa : Nat) (s : State) : Out := .next (zeroAtUnit s d pa)
/-- A launch has finished: the windows its teams opened close (R165). -/
def closeWindows (s : State) (lid : Word32) : State :=
  (List.finRange 4).foldl (fun s d =>
    let mine := (dieAt s d).wins.filter (·.who.lid == lid)
    let s := mine.foldl (fun s w => showWin s { w with state := 0#2, abandon := w.abandon || w.state != 3#2 }) s
    modDie s d fun k => { k with wins := k.wins.filter (·.who.lid != lid) }) s

/-! ### The instructions -/

/-- A merge instruction with its window: the physical address, or how the instruction ends instead (R162, R164). -/
def windowing (s : State) (c : CoreId) (j : CtxId) (ea : Word) (k : State → Nat → Act) : Act :=
  accessing s c j .merge ea 64 64 fun s p =>
    match p with
    | .mem pa _ => k s pa
    | .array _ _ => .fault (accessFault .merge ea)
    | .weight _ _ => .fault (accessFault .merge ea)
/-- A release at .pkg to a merge unit, which acquires it (R92). -/
def releaseToUnit (s : State) (c : CoreId) (j : CtxId) : State :=
  let r := releaseStamp s c j .pkg
  writeBackAll r.1 c (some r.2)
/-- A merge instruction on a window with a release: `act` gives the new state and d. A clasp waits for an MZERO of its window that is
being performed. -/
def mergeInstr (s : State) (stl : Stl) (rs : List Nat) (d a : Reg) (act : State → CoreId → CtxId → Nat → State × Word) : Out :=
  instr s stl 5 (nx a :: rs) fun c j =>
    windowing s c j (readX s (ctxAt s c j) a) fun s pa =>
      if releaseHeld s c j || beingZeroed s (paDie s pa) pa then .wait s false else
      let r := act (releaseToUnit s c j) c j pa
      .done (writeX (undiscard r.1 c j) c j d 1 r.2)
/-- Staging bytes that a unit's open windows hold. -/
def staged (s : State) (d : DieId) : Nat := ((dieAt s d).wins.map fun w => w.n * w.g * 4).sum
/-- MOPEN at the unit, and its status (R165). The unit will act on the total as the context that opened the window (DESIGN CHOICE,
log 98). -/
def openAtUnit (s : State) (c : CoreId) (j : CtxId) (pa : Nat) : State × Nat :=
  let d := paDie s pa
  if (winAt s d pa).isSome then (s, 3) else
  let s1 := touchSlice (recallLine (engineAcquire s (.die d) (pa / 256)) (pa / 256)) pa
  let v : BitVec 512 := BitVec.ofNat 512 (homeNat s1 pa 64)
  if badWindow v then (s1, 2)
  else if 0x1000000 < staged s d + winN v * winG v * 4 then (s1, 1)
  else
    let w : MWin :=
      { pa := pa, who := whoOf s c j, n := winN v, g := winG v, lim := v.extractLsb' 64 32, total := v.extractLsb' 192 64
        gen := v.extractLsb' 0 32, state := 1#2, nan := false, sat := false, abandon := false, scaled := false, late := 0#32
        rej := 0#32, commits := 0#32, clasped := [], bezel := [], bezelPoison := [], elem := 0, suspended := false, ended := false, zeroer := none
        zeroPin := none, born := s.free }
    (showWin (modDie s1 d fun k => { k with wins := k.wins ++ [w] }) w, 0)
/-- MOPEN: Opens a merge window (R165). -/
def execMopen (stl : Stl) (d a : Reg) (s : State) : Out := mergeInstr s stl [] d a fun s c j pa =>
    let r := openAtUnit s c j pa
    (r.1, BitVec.ofNat 64 r.2)
/-- MCLASP: Clasps a contributor (R167). -/
def execMclasp (stl : Stl) (d a b : Reg) (s : State) : Out := mergeInstr s stl [nx b] d a fun s' c j pa =>
    let r := claspAtUnit s' (paDie s pa) pa (readX s (ctxAt s c j) b)
    (r.1, BitVec.ofNat 64 r.2)
/-- An MZERO stands at element `i` of the total: its context waits in it, and the unit pins the translation of the window (R298). -/
def zeroingAt (s : State) (c : CoreId) (j : CtxId) (d : DieId) (w : MWin) (pin : Option TlbEntry) (i : Nat) : State :=
  modCtx (putWin s d { w with zeroer := some (c, j), zeroPin := pin }) c j fun t => { t with wait := .zero w.pa i }
/-- One issue of an MZERO that is at the unit: element `i` of the total is zeroed; the last ends it (R170). In between the context
waits within the instruction, where no stop, trap or match finds it. -/
def zeroStep (s : State) (c : CoreId) (j : CtxId) (dst : Reg) (d : DieId) (w : MWin) (pin : Option TlbEntry) (i : Nat) : Act :=
  match zeroElem s d w i with
  | .held => .wait (zeroingAt s c j d w pin i) false
  | .written s =>
    if i + 1 < w.g then .wait (zeroingAt s c j d w pin (i + 1)) false
    else
      let r := endZero s d w
      .done (writeX r.1 c j dst 1 r.2)
/-- The window and the element at which the MZERO of a context stands at the unit, if one does. -/
def zeroPlace (s : State) (c : CoreId) (j : CtxId) : Option (MWin × Nat) :=
  match (ctxAt s c j).wait with
  | .zero pa i => ((winAt s (paDie s pa) pa).filter fun w => zeroes s w c j).map fun w => (w, i)
  | _ => none
/-- MZERO: Starts the next generation (R170). It translates its window, releases and ends discardability once, when it first issues. -/
def execMzero (stl : Stl) (d a : Reg) (s : State) : Out := instr s stl 5 [nx a] fun c j =>
    match zeroPlace s c j with
    | some (w, i) => zeroStep s c j d (paDie s w.pa) w w.zeroPin i
    | none =>
    let pin := pinOf s (whoOf s c j) .merge (readX s (ctxAt s c j) a)
    windowing s c j (readX s (ctxAt s c j) a) fun s pa =>
      if releaseHeld s c j then .wait s false else
      match winAt s (paDie s pa) pa with
      | none => .done (writeX (undiscard (releaseToUnit s c j) c j) c j d 1 (BitVec.allOnes 64))
      | some w =>
        if w.state == 2#2 || zeroing s w then .wait s false
        else zeroStep (undiscard (releaseToUnit s c j) c j) c j d (paDie s pa) w pin 0
/-- The generation of an open window that has not ended yet (R169), with the opening of the window: one that closes at the end of its
launch and is opened again may have the same GEN. -/
def generationOpen (s : State) (pa : Nat) : Option (Word32 × Nat) :=
  match winAt s (paDie s pa) pa with
  | none => none
  | some w => if w.state == 3#2 || w.ended then none else some (w.gen, w.born)
/-- MWAIT_MERGE: Waits for the commit (R169). -/
def execMwaitMerge (stl : Stl) (d a : Reg) (s : State) : Out := instr s stl 5 [nx a] fun c j =>
    windowing s c j (readX s (ctxAt s c j) a) fun s pa =>
      let finish : Act :=
        if readHeld s c j then .wait s false else
        let r := loadAcquire s c j .pkg (.mem pa false) 8
        .done (writeX r.1 c j d 1 (BitVec.ofNat 64 (leNat r.2.1)))
      match generationOpen s pa, (ctxAt s c j).wait with
      | none, _ => finish
      | some g, .merge p gen born =>
        if p = pa then (if (gen, born) = g then .wait s true else finish)
        else .wait (modCtx s c j fun t => { t with wait := .merge pa g.1 g.2 }) true
      | some g, _ => .wait (modCtx s c j fun t => { t with wait := .merge pa g.1 g.2 }) true
/-- The counters of MSTAT (R171). -/
def statWord (w : MWin) : Word :=
  w.state ++ 0#5 ++ BitVec.ofNat 9 w.clasped.length ++ w.rej.setWidth 16 ++ w.late
/-- MSTAT: Merge counters (R171). -/
def execMstat (stl : Stl) (d a : Reg) (s : State) : Out := instr s stl 5 [nx a] fun c j =>
    windowing s c j (readX s (ctxAt s c j) a) fun s pa =>
      .done (writeX s c j d 1 (((winAt s (paDie s pa) pa).map statWord).getD 0#64))
/-- The places of a put's elements from element `i` on, in a source that passed the checks as one load. A source that runs on into
another page is translated again there, and EVAL is x[b] throughout (R149; log 70). -/
def elemPlaces (s : State) (w : Who) (ea : Word) : Nat → Nat → Except Act (List Place)
  | 0, _ => .ok []
  | n + 1, i =>
    match place s w .load (ea + BitVec.ofNat 64 (4 * i)) 4 4 with
    | .held => .error (.wait s false)
    | .fault t => .error (.faultIn s { t with eval := ea })
    | .ok p =>
      match elemPlaces s w ea n (i + 1) with
      | .error a => .error a
      | .ok ps => .ok (p :: ps)
/-- Plain loads of four bytes at places (R85): the state after them, the values, and whether a byte was poisoned. -/
def readElems (c : CoreId) (j : CtxId) : List Place → State → State × List Word32 × Bool
  | [], s => (s, [], false)
  | p :: ps, s =>
    let r := loadPlain s c j p 4
    let t := readElems c j ps r.1
    (t.1, BitVec.ofNat 32 (leNat r.2.1) :: t.2.1, r.2.2 || t.2.2)
/-- The source of a put: the 4 × n bytes at x[b], checked and read as one plain load (R164, R166). -/
def putSource (s : State) (c : CoreId) (j : CtxId) (ea : Word) (n : Nat) : Except Act (State × List Word32) :=
  if n = 0 then .ok (s, []) else
  match access s c j .load ea (4 * n) 4 with
  | .error (.fault t) => .error (.faultIn (walked s (whoOf s c j) .load ea) t)
  | .error a => .error a
  | .ok _ =>
    match elemPlaces (walked s (whoOf s c j) .load ea) (whoOf s c j) ea n 0 with
    | .error a => .error a
    | .ok ps =>
      let r := readElems c j ps (walked s (whoOf s c j) .load ea)
      if r.2.2 then .error (.faultIn r.1 (poisonFault ea)) else .ok (r.1, r.2.1)
/-- A fence that orders a put after it: one that orders reads, for the put's source, or writes, for its additions (R90; log 94). -/
def fencesPut : SbItem → Bool
  | .fence _ succ _ _ => succ != 0#2
  | .store _ _ _ _ _ _ _ => false
/-- MPUT: Puts elements into a bezel (R166). The put follows every fence of its context that orders accesses after it (R90). -/
def execMput (stl : Stl) (a b c : Reg) (s : State) : Out := instr s stl 5 [nx a, nx b, nx c] fun p j =>
    let ea := readX s (ctxAt s p j) b
    let desc := readX s (ctxAt s p j) c
    let pin := pinOf s (whoOf s p j) .merge (readX s (ctxAt s p j) a)
    windowing s p j (readX s (ctxAt s p j) a) fun s pa =>
      if settleHeld s p j fencesPut then .wait s false else
      match putSource s p j ea (dCnt desc) with
      | .error x => x
      | .ok (s', vs) =>
        let m : MPut := ⟨whoOf s p j, pa, pin, desc, vs⟩
        .done (undiscard (modDie (settle s' p j fencesPut) (paDie s pa) fun k => { k with puts := k.puts ++ [m] }) p j)

end Sys2Proof.Machine
end

