-- ==== Sys2Proof/Machine/Bus.lean ====
section
/-! DEFINITION. The Kweman reduction bus (R216–R242): units, lighting and guards, verdicts, the job engine of a port, and the
bus instructions. What the detectors report in a window is an input (`WindowReading`). -/

namespace Sys2Proof.Machine

/-! ### Units (R223, R227) -/

/-- A unit: a maximum wave, or a sum bead, of `n` elements from `first`. -/
structure BusUnit where
  wave  : Bool
  first : Nat
  n     : Nat
  deriving DecidableEq, Repr, Inhabited

def krbsFour (f : KrbsForm) : Bool := f == .bsm4 || f == .bsm4bnd
def krbsBound (f : KrbsForm) : Bool := f == .bsm8bnd || f == .bsm4bnd
/-- Bytes of an element of a width. -/
def kBytes (w : KWidth) : Nat := match w with | .k8 => 1 | .k16 => 2 | .k32 => 4
/-- Bytes of a result. -/
def resultBytes (op : BusOp) : Nat := match op with | .kred w => 2 * kBytes w | .kmax w => kBytes w | .krbs _ => 4
/-- Alignment of the source: the element size, or 32 bytes for KRBS's descriptor. -/
def sourceAlign (op : BusOp) : Nat := match op with | .kred w => kBytes w | .kmax w => kBytes w | .krbs _ => 32
/-- Blocks of 32 elements. -/
def blocksOf (n : Nat) : Nat := (n + 31) / 32
/-- Maximum waves over `n` elements. -/
def wavesOf (n : Nat) : Nat := (n + 65535) / 65536
/-- Sum beads over `n` elements. -/
def beadsOf (n : Nat) : Nat := (n + 63) / 64
def unitCount (b : BusJob) : Nat :=
  match b.op with
  | .kred _ => beadsOf b.n
  | .kmax _ => wavesOf b.n
  | .krbs _ => wavesOf (blocksOf b.n) + beadsOf b.n
def waveUnit (total i : Nat) : BusUnit := ⟨true, 65536 * i, min 65536 (total - 65536 * i)⟩
def beadUnit (total i : Nat) : BusUnit := ⟨false, 64 * i, min 64 (total - 64 * i)⟩
/-- Unit `i` of a job. -/
def unitOf (b : BusJob) (i : Nat) : BusUnit :=
  match b.op with
  | .kred _ => beadUnit b.n i
  | .kmax _ => waveUnit b.n i
  | .krbs _ => let w := wavesOf (blocksOf b.n)
               if i < w then waveUnit (blocksOf b.n) i else beadUnit b.n (i - w)
/-- Planes of a unit. -/
def planes (op : BusOp) (wave : Bool) : Nat :=
  match op with
  | .kred w => 8 * kBytes w
  | .kmax w => 8 * kBytes w
  | .krbs f => if wave then 8 else if krbsFour f then 4 else 8
def fmtCode (op : BusOp) (wave : Bool) : Nat :=
  let wd (w : KWidth) : Nat := match w with | .k8 => 0 | .k16 => 1 | .k32 => 2
  match op with
  | .kred w => wd w
  | .kmax w => wd w
  | .krbs f => if wave then 0 else if krbsFour f then 4 else 3
def opCode (op : BusOp) (wave : Bool) : Nat :=
  match op with
  | .kred _ => 0
  | .kmax _ => 1
  | .krbs _ => if wave then 2 else 3
/-- The 16-bit header (Table 10.4). -/
def unitHeader (op : BusOp) (u : BusUnit) : Nat :=
  opCode op u.wave * 0x2000 + fmtCode op u.wave * 0x400 +
    (if u.wave then (u.n - 1) % 1024 else (u.n - 1) % 64 * 16 + u.first / 64 % 16)

/-! ### A sum bead (R224–R226) -/

/-- A `b`-bit pattern as a signed number. -/
def patInt (b x : Nat) : Int := (BitVec.ofNat b x).toInt
/-- The checksum C_w of a writer's patterns. -/
def checksum (b : Nat) (xs : List Nat) : Nat := (xs.foldl (fun (t : Int) x => t + patInt b x) 0 % 65536).toNat
/-- Offsets a writer lights in a bead of `b` planes (Table 10.5). -/
def beadLit (b hdr : Nat) (xs : List Nat) : List Nat :=
  let n := xs.length
  let c := checksum b xs
  ((List.range 16).filter fun j => hdr.testBit (15 - j)) ++
    ((List.range (b * n)).filter fun k => (xs.getD (k % n) 0).testBit (b - 1 - k / n)).map (16 + ·) ++
    ((List.range 16).filter fun j => c.testBit (15 - j)).map (16 + b * n + ·) ++ [32 + b * n]
/-- S_i from the counts of element i (R225). -/
def beadSum (b n : Nat) (cnt : Array Nat) (i : Nat) : Int :=
  (List.range b).foldl (fun acc k =>
    let c : Int := cnt.getD (16 + k * n + i) 0
    if k = 0 then -c else 2 * acc + c) 0
/-- Header counts that are 0 or W and spell the expected header. -/
def headerOk (w hdr : Nat) (cnt : Array Nat) : Bool :=
  (List.range 16).all fun j => cnt.getD j 0 == if hdr.testBit (15 - j) then w else 0
/-- The guard of a bead (R226). -/
def beadGuard (w b n hdr : Nat) (cnt : Array Nat) : Bool :=
  let sums := (List.range n).foldl (fun t i => t + beadSum b n cnt i) 0
  let ck := (List.range 16).foldl (fun t j => t + 2 ^ (15 - j) * cnt.getD (16 + b * n + j) 0) 0
  headerOk w hdr cnt && (List.range (34 + b * n)).all (fun k => decide (cnt.getD k 0 ≤ w)) &&
    sums % 65536 == (ck % 65536 : Nat) && cnt.getD (32 + b * n) 0 == w && cnt.getD (33 + b * n) 0 == 0

/-! ### A maximum wave (R227, R228). Counts come as header, planes × elements, claims, roll-call, dark. -/

/-- What one member does with element i: lit planes (highest first), whether it contends at the claim, and M_i. -/
def waveElem (b n v i : Nat) (cnt : Array Nat) : List Bool × Bool × Nat :=
  (List.range b).foldl (fun acc k =>
    let bit := v.testBit (b - 1 - k)
    let c := cnt.getD (16 + k * n + i) 0
    (acc.1 ++ [acc.2.1 && bit], acc.2.1 && !(decide (0 < c) && !bit), 2 * acc.2.2 + if 0 < c then 1 else 0)) ([], true, 0)
/-- Offsets a member lights in a wave; plane runs are `run` positions long. -/
def waveLit (b run hdr : Nat) (xs : List Nat) (cnt : Array Nat) : List Nat :=
  let n := xs.length
  let es := (xs.zip (List.range n)).map fun x => (x.2, waveElem b n x.1 x.2 cnt)
  ((List.range 16).filter fun j => hdr.testBit (15 - j)) ++
    (List.range b).flatMap (fun k => (es.filter fun e => e.2.1.getD k false).map fun e => 16 + k * run + e.1) ++
    (es.filter fun e => e.2.2.1).map (fun e => 16 + b * run + e.1) ++ [16 + b * run + n]
/-- The guard of a wave (R228); `pad` is the largest count in the dark positions of the runs. -/
def waveGuard (w b hdr : Nat) (xs : List Nat) (cnt : Array Nat) (pad : Nat) : Bool :=
  let n := xs.length
  let claim := 16 + b * n
  headerOk w hdr cnt && decide (pad ≤ w) && (List.range (claim + n)).all (fun k => decide (cnt.getD k 0 ≤ w)) &&
    (List.range n).all (fun i => decide (1 ≤ cnt.getD (claim + i) 0)) &&
    (xs.zip (List.range n)).all (fun x =>
      let e := waveElem b n x.1 x.2 cnt
      decide (x.1 ≤ e.2.2) && (!e.2.1 || x.1 == e.2.2)) &&
    cnt.getD (claim + n) 0 == w && cnt.getD (claim + n + 1) 0 == 0

/-! ### Jobs of a port -/

def putBus (s : State) (p : PortId) (b : BusJob) : State :=
  modPort s p fun q => { q with jobs := q.jobs.map fun x => if x.seq == b.seq then b else x }
def dropBus (s : State) (p : PortId) (b : BusJob) : State :=
  modPort s p fun q => { q with jobs := q.jobs.filter (·.seq != b.seq) }
/-- A job's record is kept among the 256 most recently ended, once its writes have been performed (R92, R238). -/
def recordEnd (s : State) (p : PortId) (b : BusJob) : State :=
  modCore (modPort (hartFlush s (.port p)) p fun q => { q with ended := (b :: q.ended).take 256 }) b.who.core wakeSleepers
/-- The job ends as it stands, once no result of it is held. -/
def settleEnd (s : State) (p : PortId) (b : BusJob) : State :=
  if b.status = 0 || b.ghost || !b.pendingOut.isEmpty then putBus s p b else recordEnd (dropBus s p b) p b
/-- Ends a job with a status. -/
def endBus (s : State) (p : PortId) (b : BusJob) (st : Nat) : State := settleEnd s p { b with status := st }
/-- Ends a job with ABORT (R237): a numbered operation that no verdict has ended, and whose units are not all committed, is still
followed on its circle, without light. The circle keeps the numbers of the operations aborted here (R222). -/
def abortBus (s : State) (p : PortId) (b : BusJob) (reason : Nat) : State :=
  let ended := b.status ≠ 0
  let b := { b with status := 4, reason := reason, suspended := false, pendingOut := [] }
  let s := match b.num with
    | some k => modCircle s p (kCircle b.cfg) fun c => { c with aborted := setAdd c.aborted k }
    | none => s
  if b.num.isNone || ended || unitCount b ≤ b.done.length then recordEnd (dropBus s p b) p b
  else recordEnd (putBus s p { b with ghost := true }) p b
/-- The operation is unfinished as the circle sees it. -/
def opOpen (b : BusJob) : Bool := b.num.isSome && (b.ghost || (b.status == 0 && decide (b.done.length < unitCount b)))
/-- The lowest-numbered unfinished operation of a circle. -/
def lowestOp (s : State) (p : PortId) (ci : CircleId) : Option BusJob :=
  ((portAt s p).jobs.filter fun b => kCircle b.cfg == ci && opOpen b).foldl (fun best b => match best with
    | none => some b
    | some x => if b.num.getD 0 < x.num.getD 0 then some b else some x) none
/-- The job of operation `k` of a circle. -/
def jobOfOp (s : State) (p : PortId) (ci : CircleId) (k : Nat) : Option BusJob :=
  (portAt s p).jobs.find? fun b => kCircle b.cfg == ci && b.num == some k && opOpen b

/-- Whether operation `k` of a circle has been aborted at this port (R222, R237). -/
def opAborted (s : State) (p : PortId) (ci : CircleId) (k : Nat) : Bool := (circleAt s p ci).aborted.contains k
/-- A job is operation `k` of a circle. -/
def isOp (ci : CircleId) (k : Nat) (b : BusJob) : Bool := kCircle b.cfg == ci && b.num == some k
/-- The job of operation `k` of a circle, whether it has ended or not. -/
def opRecord (s : State) (p : PortId) (ci : CircleId) (k : Nat) : Option BusJob :=
  match (portAt s p).jobs.find? (isOp ci k) with
  | some b => some b
  | none => (portAt s p).ended.find? (isOp ci k)

/-- Posts a record of a port engine (kind 3). -/
def postBus (s : State) (p : PortId) (b : BusJob) (cause : BitVec 4) (va : Word) : State :=
  postFault s (coreDie b.who.core)
    { va := va, kind := 3#3, cause := cause, asid := b.who.asid, lc := b.who.lc, seq := b.seq, unit := BitVec.ofNat 64 p.val,
      ref := 0 }
/-- The team of a job is bound somewhere. -/
def teamBound (s : State) (w : Who) : Bool :=
  s.cores.toList.any fun k => match k.team with | some b => b.lid == w.lid && b.team == w.team | none => false
/-- A beat to a scratchpad window of a team that is not bound is held (R279). -/
def busHeld (s : State) (w : Who) (va : Word) : Bool := (region va == 1 || region va == 2) && !teamBound s w
def busLoad (s : State) (p : PortId) (w : Who) (va : Word) (n : Nat) : Except BeatStop (State × List Byte) :=
  if busHeld s w va then .error .held else loadFor s (.port p) w va n
/-- What becomes of a job whose source beat is stopped: held, suspended for service, or, with nothing left to light before
the unit, aborted (R237). -/
def stopSource (s : State) (p : PortId) (b : BusJob) (unit : Nat) : BeatStop → State
  | .held => s
  | .poison va => postBus (putBus s p { b with suspended := true }) p b 4#4 va
  | .fault t va =>
    let s := faultWalked s (.port p) b.who t va
    if translationFault t then postBus (putBus s p { b with suspended := true }) p b (recordCause t) va
    else if b.next = unit then abortBus s p b 3 else s

/-! ### Sourcing a unit (R225, R227, R233, R234) -/

/-- Mantissa `i` of an operand array of which `bs` holds element 0 on. -/
def krbsMant (four : Bool) (bs : Array Byte) (i : Nat) : Int :=
  if four then
    let x := bs.getD (i / 2) 0#8
    (if i % 2 = 0 then x.extractLsb' 0 4 else x.extractLsb' 4 4).toInt
  else (bs.getD i 0#8).toInt
/-- The sender's alignment: RNE(m × 2^(E − E*)), 0 in a NaN block (R233). -/
def alignMant (m : Int) (e es : Nat) : Int :=
  if es = 255 then 0 else signedNat (decide (m < 0)) (roundTo .rne 0 (decide (m < 0)) m.natAbs 0 (es - e)).1
/-- A signed value as a `b`-bit pattern. -/
def intPat (b : Nat) (v : Int) : Nat := (BitVec.ofInt b v).toNat
/-- .BND (R234): the operand decoded, bounded and encoded again: scale bytes, mantissas, and whether s < 1. -/
def boundOperand (four : Bool) (lim : Word32) (n : Nat) (ms es : Array Byte) : List Nat × List Int × Bool :=
  let x (i : Nat) : Word32 :=
    BitVec.ofNat 32 (decodeBsm four fmtF32 (es.getD (i / 32) 0#8).toNat (krbsMant four ms i)).bits
  let q := (List.range n).foldl (fun q i => (fmaF32 (x i) (x i) q).1) 0#32
  let nrm := unpackFl fmtF32 (sqrtFl (f32 q)).bits
  let sc : Word32 := if ltFl (f32 lim) nrm then BitVec.ofNat 32 (ratioFl (f32 lim) nrm).bits else 0x3F800000#32
  let y (i : Nat) : Fl := if i < n then f32 (mulF32 (x i) sc).1 else .fin false 0 0
  let blocks := (List.range (blocksOf n)).map fun j =>
    encodeBlock four .rne (fun _ => 0) ((List.range 32).map fun i => y (32 * j + i))
  (blocks.map (·.1), blocks.flatMap (·.2.1), ltFl (f32 sc) (f32 0x3F800000#32))
/-- Bytes of a mantissa array of `n` elements. -/
def mantArray (four : Bool) (n : Nat) : Nat := if four then (n + 1) / 2 else n
/-- Bounds a .BND operand in the port's staging, once. -/
def prepare (s : State) (p : PortId) (b : BusJob) : Except BeatStop (State × BusJob) :=
  match b.op, b.desc, b.mants with
  | .krbs f, some (mant, scale, lim), none =>
    if !krbsBound f then .ok (s, b) else
    match busLoad s p b.who mant (mantArray (krbsFour f) b.n) with
    | .error e => .error e
    | .ok (s, ms) =>
      match busLoad s p b.who scale (blocksOf b.n) with
      | .error e => .error e
      | .ok (s, es) =>
        let r := boundOperand (krbsFour f) lim b.n ms.toArray es.toArray
        .ok (s, { b with scales := r.1, mants := some r.2.1, scaled := r.2.2 })
  | _, _, _ => .ok (s, b)
/-- The E* of every block of a bead has been committed. -/
def expsReady (b : BusJob) (u : BusUnit) : Bool :=
  match b.op with
  | .krbs _ => u.wave || (List.range ((u.first + u.n - 1) / 32 - u.first / 32 + 1)).all fun k =>
      b.exps.any fun e => e.1 == u.first / 32 + k
  | _ => true
/-- The operand patterns of a unit, read as engine beats. -/
def source (s : State) (p : PortId) (b : BusJob) (i : Nat) : Except BeatStop (State × BusJob × List Nat) :=
  let u := unitOf b i
  let plain (va : Word) (sz : Nat) : Except BeatStop (State × BusJob × List Nat) :=
    (busLoad s p b.who (va + BitVec.ofNat 64 (u.first * sz)) (u.n * sz)).map fun r =>
      (r.1, b, (List.range u.n).map fun k => byteElem sz r.2 k)
  match b.op with
  | .kred w => plain b.src (kBytes w)
  | .kmax w => plain b.src (kBytes w)
  | .krbs f =>
    let four := krbsFour f
    match b.desc with
    | none => .error .held
    | some (mant, scale, _) =>
      if u.wave then
        if krbsBound f then .ok (s, b, (b.scales.drop u.first).take u.n)
        else (plain scale 1).map fun r => (r.1, { b with scales := b.scales ++ r.2.2 }, r.2.2)
      else
        let pat (m : Nat → Int) : List Nat := (List.range u.n).map fun k =>
          let j := (u.first + k) / 32
          intPat (planes b.op false) (alignMant (m k) (b.scales.getD j 0) (sGet 255 b.exps j))
        match b.mants with
        | some ms => .ok (s, b, pat fun k => ms.getD (u.first + k) 0)
        | none =>
          (busLoad s p b.who (mant + BitVec.ofNat 64 (mantArray four u.first)) (mantArray four u.n)).map fun r =>
            (r.1, b, pat (krbsMant four r.2.toArray))
/-- The first unit of a job that is not staged. -/
def nextToStage (b : BusJob) : Nat := b.staged.length
/-- Stages one more unit of the lowest-numbered unfinished operation of a circle. -/
def stageNext (s : State) (p : PortId) (ci : CircleId) : State :=
  match lowestOp s p ci with
  | none => s
  | some b =>
    let i := nextToStage b
    if b.ghost || b.suspended || unitCount b ≤ i || enginePaused s b.who then s else
    match prepare s p b with
    | .error e => stopSource s p b i e
    | .ok (s, b) =>
      if !expsReady b (unitOf b i) then putBus s p b else
      match source s p b i with
      | .error e => stopSource s p b i e
      | .ok (s, b, xs) => putBus s p { b with staged := sIns b.staged i xs }

/-! ### Results -/

/-- Results in pieces that lie within 64-byte groups. -/
def splitOut : Nat → Word → List Byte → List (Word × List Byte)
  | 0, _, _ => []
  | fuel + 1, va, bs =>
    if bs.isEmpty then [] else
    let k := min bs.length (64 - va.toNat % 64)
    (va, bs.take k) :: splitOut fuel (va + BitVec.ofNat 64 k) (bs.drop k)
/-- The FP32 word of a block-scaled sum (R233), and whether it is ±∞. -/
def krbsResult (four : Bool) (es : Nat) (v : Int) : Nat × Bool :=
  if es = 255 then (nanCode fmtF32, false)
  else
    let r := roundFl fmtF32 .rne 0 (decide (v < 0)) v.natAbs ((es : Int) - bsmBias four)
    (r.bits, r.ovf)
/-- A committed unit (Table 10.8): its results wait to be written, or its exponents are kept. -/
def commitUnit (b : BusJob) (i : Nat) (res : List Int) : BusJob :=
  let u := unitOf b i
  let rb := resultBytes b.op
  let out (bs : List Byte) : List (Word × List Byte) :=
    splitOut (bs.length / 64 + 2) (b.dst + BitVec.ofNat 64 (u.first * rb)) bs
  let b := { b with done := setAdd b.done i }
  match b.op with
  | .kred w => { b with pendingOut := b.pendingOut ++ out (res.flatMap fun v => leBytes rb (intPat (16 * kBytes w) v)) }
  | .kmax _ => { b with pendingOut := b.pendingOut ++ out (res.flatMap fun v => leBytes rb v.toNat) }
  | .krbs f =>
    if u.wave then
      { b with exps := (res.zip (List.range res.length)).foldl (fun m x => sIns m (u.first + x.2) x.1.toNat) b.exps }
    else
      let rs := (res.zip (List.range res.length)).map fun x =>
        krbsResult (krbsFour f) (sGet 255 b.exps ((u.first + x.2) / 32)) x.1
      { b with pendingOut := b.pendingOut ++ out (rs.flatMap fun r => leBytes rb r.1), ovf := b.ovf + (rs.filter (·.2)).length }
/-- The port writes the results a job holds, as whole-byte beats (R93), as far as they can be. Each is accepted by the port's store
buffer, from which each is performed on its own. -/
def flushOut (p : PortId) : List (Word × List Byte) → State → BusJob → State
  | [], s, b =>
    let b := { b with pendingOut := [] }
    if b.status = 0 && b.num.isSome && unitCount b ≤ b.done.length then endBus s p b 1 else settleEnd s p b
  | (va, bs) :: rest, s, b =>
    let b := { b with pendingOut := (va, bs) :: rest }
    if busHeld s b.who va then putBus s p b else
    match beatPlace s (.port p) b.who .store va bs.length with
    | .error .held => putBus s p b
    | .error (.poison _) => putBus s p b
    | .error (.fault t _) =>
      let s := faultWalked s (.port p) b.who t va
      if translationFault t then postBus (putBus s p { b with suspended := true }) p b (recordCause t) va
      else abortBus s p b 3
    | .ok pl => flushOut p rest (hartWrite (walkedBeat s (.port p) b.who .store va) (.port p) pl bs) { b with elems := b.elems + bs.length / resultBytes b.op }
/-- Every job of a port writes what it can. -/
def flushPort (s : State) (p : PortId) : State :=
  (portAt s p).jobs.foldl (fun s b =>
    if b.started && !b.ghost && !b.suspended && !enginePaused s b.who && !b.pendingOut.isEmpty then flushOut p b.pendingOut s b else s) s

/-! ### Windows (R221, R222, R229–R232) -/

/-- The unit that a window whose HOLD count reads 0 is to carry (R222): the oldest awaiting resend, else the next unsent one. -/
def nameUnit (s : State) (p : PortId) (ci : CircleId) : Option (Nat × Nat) :=
  match (circleAt s p ci).resend with
  | u :: _ => some u
  | [] =>
    match lowestOp s p ci with
    | none => none
    | some b => if b.named < unitCount b then some (b.num.getD 0, b.named) else none
/-- The port is ready to light the unit that the window would carry (R222); while every unit that is left awaits its verdict it
has none (Table 13.8). -/
def readyFor (s : State) (p : PortId) (ci : CircleId) : Bool :=
  match lowestOp s p ci with
  | none => false
  | some b =>
    b.ghost ||
    (!b.suspended && (nameUnit s p ci).any (fun u => b.staged.any (·.1 == u.2) && expsReady b (unitOf b u.2)) &&
      !(let held := ((portAt s p).jobs.flatMap fun x => x.pendingOut.flatMap (·.2)).length
        decide (0 < held) && Config.stagingFull s.free held))
/-- The named unit is given its window. -/
def takeName (s : State) (p : PortId) (ci : CircleId) : State :=
  match (circleAt s p ci).resend with
  | _ :: rest => modCircle s p ci fun c => { c with resend := rest }
  | [] =>
    match lowestOp s p ci with
    | none => s
    | some b => if b.named < unitCount b then putBus s p { b with named := b.named + 1 } else s
def putWinRec (s : State) (p : PortId) (ci : CircleId) (r : WinRec) : State :=
  modCircle s p ci fun c => { c with wins := r :: c.wins.filter (·.w != r.w) }
def winRec (s : State) (p : PortId) (ci : CircleId) (w : Nat) : Option WinRec := (circleAt s p ci).wins.find? (·.w == w)

/-- The port ends on a circle with SEGMENT (R231): it lights nothing more there, its numbered operations end, KCFG.LOST is
set, and jobs submitted but not numbered find it set. -/
def loseCircle (s : State) (p : PortId) (ci : CircleId) : State :=
  let mine := (portAt s p).jobs.filter fun b => kCircle b.cfg == ci
  let s := mine.foldl (fun s b =>
    if b.ghost then dropBus s p b
    else if opOpen b then endBus s p b 3
    else if !b.started then putBus s p { b with cfg := b.cfg ||| 8#64 }
    else s) s
  let s := modCircle s p ci fun c => { c with lost := true, resend := [] }
  { s with cores := s.cores.map fun k => if kNames k.kcfg p ci then { k with kcfg := k.kcfg ||| 8#64 } else k }

/-- A verdict symbol (R229): two positions, high first; a count above 1 is unreadable. -/
def symbol (hi lo : Nat) : Option (BitVec 2) :=
  if hi ≤ 1 && lo ≤ 1 then some (BitVec.ofNat 2 (2 * hi + lo)) else none
/-- The verdict that at least three of the four symbols agree on. -/
def acceptedVerdict (cnt : List Nat) : Option (BitVec 2) :=
  let syms := (List.range 4).map fun k => symbol (cnt.getD (2 * k) 0) (cnt.getD (2 * k + 1) 0)
  ([0#2, 1#2, 2#2, 3#2] : List (BitVec 2)).find? fun v => decide (3 ≤ (syms.filter (· == some v)).length)
/-- A member's response to the verdict of a window that it treated as carrying unit `i` of operation `k` (Table 10.8). -/
def respond (s : State) (p : PortId) (ci : CircleId) (k i : Nat) (r : WinRec) (v : Option (BitVec 2)) : State :=
  match jobOfOp s p ci k with
  | none => s
  | some b =>
    match v with
    | none => loseCircle s p ci
    | some v =>
      if v = 1#2 then
        if b.ghost then
          let b := { b with done := setAdd b.done i }
          if unitCount b ≤ b.done.length then dropBus s p b else putBus s p b
        else if !r.passed then loseCircle s p ci
        else
          let b := commitUnit b i r.result
          if b.suspended || enginePaused s b.who then putBus s p b else flushOut p b.pendingOut s b
      else if v = 3#2 then
        let s := modCircle s p ci fun c => { c with resend := c.resend.filter (·.1 != k) }
        if b.ghost then dropBus s p b else endBus s p b 2
      else modCircle s p ci fun c => { c with resend := c.resend ++ [(k, i)] }
/-- Counts one more replay of unit `i` of operation `k`, in the record of its job. -/
def countReplay (s : State) (p : PortId) (ci : CircleId) (k i : Nat) : State :=
  let up (b : BusJob) : BusJob :=
    if isOp ci k b then { b with replays := sPut 0 b.replays i (sGet 0 b.replays i + 1) } else b
  modPort s p fun q => { q with jobs := q.jobs.map up, ended := q.ended.map up }
/-- The anchor's verdict of a window (R230), and the state with its replay count: by the same code for a window of an operation that has
ended meanwhile; FAIL where the anchor has aborted it (R237). -/
def decideVerdict (s : State) (p : PortId) (ci : CircleId) (r : Option WinRec) : State × BitVec 2 :=
  match r with
  | none => (s, 0#2)
  | some r =>
    match r.unit with
    | none => (s, 0#2)
    | some (k, i) =>
      if opAborted s p ci k then (s, 3#2)
      else if r.passed && !r.nak then (s, 1#2)
      else if (opRecord s p ci k).any fun b => decide (sGet 0 b.replays i < b.retry) then (countReplay s p ci k i, 2#2)
      else (s, 3#2)

/-- A unit passes in window w: what the port lights, and the record of its guard and results. A unit of an operation that has ended here
is lit by no member that followed its verdict, so its guard fails (log 115). GUARDF counts each failed sending of a unit: the spec's
"units whose guard failed" leaves open whether a unit counts once (DESIGN CHOICE, log 106). -/
def passUnit (s : State) (p : PortId) (ci : CircleId) (w : Nat) (rd : WindowReading) : State × List Nat :=
  match (winRec s p ci w).bind (·.unit) with
  | none => (s, [])
  | some (k, i) =>
    match jobOfOp s p ci k with
    | none => (putWinRec s p ci ⟨w, true, some (k, i), false, [], false⟩, [])
    | some b =>
      let u := unitOf b i
      let xs := sGet [] b.staged i
      let cnt := rd.unit.toArray
      let pl := planes b.op u.wave
      let hdr := unitHeader b.op u
      let W := kW b.cfg
      let again := decide (i < b.next)
      let gone := sGet 0#32 (portAt s p).members ci.toNat != 0#32
      let has := b.staged.any (·.1 == i)
      let lit := if b.ghost || !has then [] else
        if u.wave then waveLit pl (max u.n (256 * kTurn b.cfg)) hdr xs cnt else beadLit pl hdr xs
      let passed := has && !gone && (if u.wave then waveGuard W pl hdr xs cnt rd.pad else beadGuard W pl u.n hdr cnt)
      let res : List Int := if u.wave then (xs.zip (List.range xs.length)).map fun x => ((waveElem pl u.n x.1 x.2 cnt).2.2 : Int)
        else (List.range u.n).map (beadSum pl u.n cnt)
      let b := { b with next := if again then b.next else i + 1, resent := if again then b.resent + 1 else b.resent
                        holds := if b.next = 0 then 0 else b.holds + b.gap, gap := 0
                        guardf := if passed || b.ghost then b.guardf else b.guardf + 1 }
      (putWinRec (putBus s p b) p ci ⟨w, true, some (k, i), passed, res, false⟩, lit)
/-- An empty window counts among the HOLDS of an operation under way (R239). -/
def passEmpty (s : State) (p : PortId) (ci : CircleId) : State :=
  match lowestOp s p ci with
  | none => s
  | some b => if b.next = 0 then s else putBus s p { b with gap := b.gap + 1 }

/-- The port's part in a circle: some core's KCFG names it, or a job does. -/
def memberOf (s : State) (p : PortId) (ci : CircleId) : Option Word :=
  match (portAt s p).jobs.find? fun b => kCircle b.cfg == ci && b.num.isSome with
  | some b => some b.cfg
  | none => (s.cores.toList.find? fun k => kNames k.kcfg p ci).map (·.kcfg)
/-- Frame f belongs to the circle that entry f mod 16 of the wheel names (R220). -/
def frameOf (v : Word) (f : Nat) : CircleId := v.extractLsb' (4 * (f % 16)) 4
/-- Positions of a frame: 4,096 slots of 256 channels (R220). -/
def framePositions : Nat := 4096 * 256
/-- The slot of the circle's run and the channel of position q (R220). -/
def slotOfPosition (q : Nat) : Nat := q / 256
def channelOfPosition (q : Nat) : Nat := q % 256
/-- Positions of a unit (R224, R227): header, planes, checksum or claims, roll-call and dark. -/
def unitLength (op : BusOp) (turn : Nat) (u : BusUnit) : Nat :=
  let pl := planes op u.wave
  if u.wave then 16 + pl * max u.n (256 * turn) + u.n + 2 else 34 + pl * u.n
/-- Positions of a window that carries a unit of `len` positions (Table 10.3). -/
def windowLength (len : Nat) : Nat := max (1 + len) 512 + 11
/-- Positions of the unit that the circle's next window carries. -/
def carriedLength (s : State) (p : PortId) (ci : CircleId) : Nat :=
  match winRec s p ci (circleAt s p ci).win with
  | none => 0
  | some r => match r.unit with
    | none => 0
    | some (k, i) => ((opRecord s p ci k).map fun b => unitLength b.op (kTurn b.cfg) (unitOf b i)).getD 0
/-- The circle's next window ends in a frame that has begun for it, and the present frame is the circle's (R220, R221). -/
def windowDue (s : State) (p : PortId) (ci : CircleId) : Bool :=
  let c := circleAt s p ci
  decide (0 < c.frames) && frameOf (portAt s p).wheel ((portAt s p).frame - 1) == ci &&
    decide (c.pos + windowLength (carriedLength s p ci) ≤ framePositions * c.frames)
/-- The NAK group: the port's guard failed on the unit of that window, and it has not aborted the operation (R222, R229). -/
def lightsNak (s : State) (p : PortId) (ci : CircleId) (r : Option WinRec) : Bool :=
  match r with
  | none => false
  | some r => match r.unit with
    | none => false
    | some (k, _) => !r.passed && !opAborted s p ci k
/-- One window of a circle passes (Table 10.3), with the LAG of the member's configuration (R217). -/
def passWindow (s : State) (p : PortId) (ci : CircleId) (rd : WindowReading) : State :=
  let P := portAt s p
  match memberOf s p ci with
  | none => s
  | some cfg =>
    let lag := kLag cfg
    if !P.attached || lag = 0 || !windowDue s p ci || s.hub.stopped then s else
    let w := (circleAt s p ci).win
    let len := windowLength (carriedLength s p ci)
    let lost := (circleAt s p ci).lost
    let s := stageNext (flushPort s p) p ci
    -- the HOLD position, for window w + LAG
    let hold := !lost && !readyFor s p ci
    let will := decide (rd.hold = 0) && !lost
    let name := if will then nameUnit s p ci else none
    let s := putWinRec (if will then takeName s p ci else s) p ci ⟨w + lag, will, name, false, [], false⟩
    -- the unit of window w
    let carries := (winRec s p ci w).any (·.carry)
    let pu := if carries && !lost then passUnit s p ci w rd else (passEmpty s p ci, [])
    -- the NAK group of window w − LAG
    let nakRec := if w < lag then none else winRec pu.1 p ci (w - lag)
    let nak := !lost && lightsNak pu.1 p ci nakRec
    let seen := decide (2 ≤ (rd.nak.filter (1 ≤ ·)).length)
    let s := match nakRec with
      | some r => putWinRec pu.1 p ci { r with nak := seen }
      | none => pu.1
    -- the verdict group of window w − 2 × LAG
    let vRec := if w < 2 * lag then none else winRec s p ci (w - 2 * lag)
    let dv := if kAnchor cfg && !lost && decide (2 * lag ≤ w) then
        let r := decideVerdict s p ci vRec
        (r.1, some r.2)
      else (s, none)
    let s := match vRec with
      | some r => (match r.unit with
          | some (k, i) => respond dv.1 p ci k i r (acceptedVerdict rd.verdict)
          | none => dv.1)
      | none => dv.1
    modCircle s p ci fun c =>
      { c with win := w + 1, pos := c.pos + len, wins := c.wins.filter fun r => decide (w < r.w + 2 * lag), lit := ⟨hold, pu.2, nak, dv.2⟩ }
/-- KWEMAN_WINDOW: A window of a circle passes (R221). -/
def execKwemanWindow (p : PortId) (circle : CircleId) (rd : WindowReading) (s : State) : Out :=
  .next (passWindow s p circle rd)
/-- WRITER_LEAVES_SEGMENT: A writer of the circle leaves (R242). -/
def execWriterLeavesSegment (p : PortId) (circle : CircleId) (idx : BitVec 5) (s : State) : Out :=
  .next (modPort s p fun q =>
    { q with members := sPut 0#32 q.members circle.toNat (putBit (sGet 0#32 q.members circle.toNat) idx.toNat true) })

/-! ### The start of a job (R236, R237) -/

/-- Reason 2 of Table 10.11 that does not need the descriptor. -/
def tooLong (b : BusJob) : Bool :=
  decide (2 ^ 24 < b.n) || (match b.op with | .krbs f => krbsBound f && decide (2 ^ 21 < b.n) | _ => false)
/-- Reads KRBS's descriptor (Table 10.10), or ends the job. -/
def readBusDesc (s : State) (p : PortId) (b : BusJob) : State :=
  match b.op with
  | .krbs f =>
    match busLoad s p b.who b.src 32 with
    | .error e => stopSource s p b b.next e
    | .ok (s, bs) =>
      let v : BitVec 256 := BitVec.ofNat 256 (leNat bs)
      let lim : Word32 := v.extractLsb' 128 32
      if v.extractLsb' 160 96 != 0#96 || (krbsBound f && badLimit lim) then abortBus s p b 2
      else putBus s p { b with desc := some (v.extractLsb' 0 64, v.extractLsb' 64 64, lim) }
  | _ => putBus s p { b with desc := some (0#64, 0#64, 0#32) }
/-- A job still to be started, or whose descriptor is still to be read. -/
def needsStart (b : BusJob) : Bool := !b.started || (b.desc.isNone && !b.suspended && !b.ghost && b.status == 0)
/-- A job whose start takes an operation number: its configuration is valid and it has elements (R236). -/
def takesNumber (s : State) (p : PortId) (b : BusJob) : Bool := kValid b.cfg (portAt s p).limit && b.n != 0
/-- A job that cannot go on with its start for now: its team's engine work is paused, its descriptor's beat is held, or it takes a number
and an operation of an older configuration is outstanding on its circle (R242). -/
def startWaits (s : State) (p : PortId) (b : BusJob) : Bool :=
  enginePaused s b.who ||
    (if b.started then (match busLoad s p b.who b.src 32 with | .error .held => true | _ => false)
     else takesNumber s p b && circleBusy s p (kCircle b.cfg) && (circleAt s p (kCircle b.cfg)).cfg.any (· != kFields b.cfg))
/-- The first job of a list whose start goes on; an older kick of the same circle that is still to be acquired and numbered comes first,
and other circles, and jobs that take no number, do not wait for it (R219, R236, R242). -/
def nextStart (s : State) (p : PortId) : List CircleId → List BusJob → Option BusJob
  | _, [] => none
  | wait, b :: bs =>
    if !needsStart b then nextStart s p wait bs
    else if startWaits s p b || (!b.started && takesNumber s p b && wait.contains (kCircle b.cfg)) then
      nextStart s p (if b.started || !takesNumber s p b then wait else kCircle b.cfg :: wait) bs
    else some b
/-- The port acquires its oldest kick and numbers the operation, or ends the job. -/
def startBus (s : State) (p : PortId) : State :=
  match nextStart s p [] (portAt s p).jobs with
  | none => s
  | some b =>
    if b.started then readBusDesc s p b else
    let s := writeBackAll s b.who.core (some b.stamp)
    let b := { b with started := true }
    let ci := kCircle b.cfg
    if !kValid b.cfg (portAt s p).limit then abortBus s p b 1
    else if b.n = 0 then endBus s p b 1
    else
      let s := takeConfig b.cfg s p ci
      let k := (circleAt s p ci).nextOp
      let s := modCircle s p ci fun c => { c with nextOp := k + 1 }
      let b := { b with num := some k }
      if tooLong b then abortBus s p b 2 else readBusDesc (putBus s p b) p b
/-- BUS_JOB_START: The port acquires its oldest kick (R236). -/
def execBusJobStart (p : PortId) (s : State) : Out := .next (startBus s p)
/-- The service's answer to a record of a bus job (R277). -/
def serveBus (s : State) (p : PortId) (seq : Word32) (resume : Bool) : State :=
  match (portAt s p).jobs.find? fun b => b.seq == seq && !b.ghost with
  | none => s
  | some b => if !b.suspended then s else if resume then putBus s p { b with suspended := false } else abortBus s p b 4

/-! ### The instructions (R235–R239) -/

/-- Jobs outstanding at a port. -/
def outstandingAt (s : State) (p : PortId) : Nat := ((portAt s p).jobs.filter (!·.ghost)).length
/-- A ticket (R238). -/
def ticketOf (p : PortId) (seq : Word32) : Word := ((BitVec.ofNat 1 p.val ++ seq : BitVec 33)).setWidth 64
/-- A bus operation's submission: a store-release at .pkg to the port's kick (R240). -/
def busOp (s : State) (stl : Stl) (op : BusOp) (d a b c : Reg) : Out :=
  instr s stl 4 [nx a, nx b, nx c] fun k j =>
    let t := ctxAt s k j
    let src := readX s t a
    let dst := readX s t b
    let cfg := (coreAt s k).kcfg
    let p := kPort cfg
    if src.toNat % sourceAlign op != 0 then .fault ⟨.misaligned, 0#8, false, false, src⟩
    else if dst.toNat % resultBytes op != 0 then .fault ⟨.misaligned, 0#8, false, false, dst⟩
    else if 16 ≤ outstandingAt s p || releaseHeld s k j then .wait s false
    else
      let r := releaseStamp s k j .pkg
      let seq := (portAt r.1 p).seq
      let job : BusJob :=
        { seq := seq, who := whoOf s k j, op := op, n := (lo32 (readX s t c)).toNat, src := src, dst := dst, stamp := r.2
          cfg := cfg, retry := (coreAt s k).kretry.toNat, started := false, num := none, desc := none, done := [], named := 0, next := 0
          staged := [], scales := [], mants := none, exps := [], replays := [], resent := 0, holds := 0, gap := 0, guardf := 0
          ovf := 0, scaled := false, elems := 0, status := 0, reason := 0, ghost := false, suspended := false, pendingOut := [] }
      let s' := undiscard (modPort r.1 p fun q => { q with jobs := q.jobs ++ [job], seq := seq + 1, wrapped := q.wrapped || seq = BitVec.allOnes 32 }) k j
      .done (writeX s' k j d 1 (ticketOf p seq))
/-- KRED: Bus sum (R236). -/
def execKred (stl : Stl) (wd : KWidth) (d a b c : Reg) (s : State) : Out := busOp s stl (.kred wd) d a b c
/-- KMAX: Bus maximum (R236). -/
def execKmax (stl : Stl) (wd : KWidth) (d a b c : Reg) (s : State) : Out := busOp s stl (.kmax wd) d a b c
/-- KRBS: Block-scaled bus sum (R233, R236). -/
def execKrbs (stl : Stl) (form : KrbsForm) (d a b c : Reg) (s : State) : Out := busOp s stl (.krbs form) d a b c
/-- The port a ticket names. -/
def ticketPort (v : Word) : PortId := Fin.ofNat 2 (v.extractLsb' 32 1).toNat
/-- The ended job of a ticket, among the records that are kept. -/
def endedJob (s : State) (v : Word) : Option BusJob := (portAt s (ticketPort v)).ended.find? (·.seq == lo32 v)
/-- A ticket's job is outstanding. -/
def runningJob (s : State) (v : Word) : Option BusJob :=
  (portAt s (ticketPort v)).jobs.find? fun b => b.seq == lo32 v && !b.ghost
/-- A ticket's number has not been issued yet. Once the numbers have passed 2^32, one that lies less than 2^31 ahead of the next number
to be given is taken for one still to come (DESIGN CHOICE, log 116). -/
def notIssued (s : State) (v : Word) : Bool :=
  let q := portAt s (ticketPort v)
  if q.wrapped then decide ((lo32 v - q.seq).toNat < 2 ^ 31) else decide (q.seq.toNat ≤ (lo32 v).toNat)
/-- KWAIT's word (R238). -/
def busWord (b : BusJob) : Word :=
  ((BitVec.ofNat 32 b.elems ++ BitVec.ofNat 4 b.reason ++ BitVec.ofNat 4 b.status : BitVec 40)).setWidth 64
/-- KWAIT: Waits for a bus job (R238). -/
def execKwait (stl : Stl) (d a : Reg) (s : State) : Out := instr s stl 4 [nx a] fun c j =>
    let v := readX s (ctxAt s c j) a
    if v.extractLsb' 33 31 != 0#31 then .done (writeX s c j d 1 0#64)
    else if (runningJob s v).isSome then .wait s true
    else match endedJob s v with
      | some b => if readHeld s c j then .wait s false else .done (writeX (acquireMail s c j) c j d 1 (busWord b))
      | none => if notIssued s v then .wait s true else .done (writeX s c j d 1 0#64)
/-- KSTAT's word (R239). -/
def statBus (b : BusJob) (running : Bool) : Word :=
  ((BitVec.ofBool b.scaled ++ BitVec.ofNat 4 (if running then 0 else b.status) ++ BitVec.ofNat 8 (min 255 b.ovf) ++
    BitVec.ofNat 16 (min 65535 b.guardf) ++ BitVec.ofNat 16 (min 65535 b.holds) ++ BitVec.ofNat 16 (min 65535 b.resent) :
    BitVec 61)).setWidth 64
/-- KSTAT: Counters of a bus job (R239). It writes 0 for a retired job, and for an x[a] that names no job: one not yet issued, or with
bits 63:33 non-zero, of which the rule does not speak (DESIGN CHOICE, log 108). -/
def execKstat (stl : Stl) (d a : Reg) (s : State) : Out := instr s stl 4 [nx a] fun c j =>
    let v := readX s (ctxAt s c j) a
    let w : Word := if v.extractLsb' 33 31 != 0#31 then 0#64 else
      match runningJob s v, endedJob s v with
      | some b, _ => statBus b true
      | none, some b => statBus b false
      | none, none => 0#64
    .done (writeX s c j d 1 w)

end Sys2Proof.Machine
end

