-- ==== Sys2Proof/Machine/Boundary.lean ====
section
/-! DEFINITION. Steps at a context's boundary (R33, R115, R264, R266, R357), sysreg writes as steps of their own, the steps of
the memory machine (R86, R87, R295), barriers, the debug module (R358) and soft errors (R283–R286). -/

namespace Sys2Proof.Machine

/-! ### Boundaries -/

/-- A context is on and its core is not halted. -/
def mayAct (s : State) (c : CoreId) (j : CtxId) : Bool := (ctxAt s c j).run == .on && !(coreAt s c).dbg.halt
/-- An annulled word advances the queue with no effect and no trace record (R115, R359). -/
def annul (s : State) (c : CoreId) (j : CtxId) (stl : Stl) : State :=
  if (ctxAt s c j).run == .on && (ctxAt s c j).nul.getLsbD 0 then advance s c j stl none false id else s
/-- ANNULLED_STEP: An annulled word of the issuing context advances its queue (R115). -/
def execAnnulledStep (stl : Stl) (s : State) : Out := .next (annul s s.cur.1 s.cur.2 stl)

/-- Breakpoint i of a core names the instruction at an address (Table 21.5). -/
def bpNames (k : Core) (pc : Word) (i : Fin 4) : Bool :=
  let b := k.dbg.bp.get i
  b.getLsbD 0 && pc == (b &&& ~~~3#64)
/-- An instruction at BPk has reached PC and is not annulled: Breakpoint, or a halt (R357). A Trap that is due comes before it (R263). -/
def breakAt (s : State) (c : CoreId) (j : CtxId) (i : Fin 4) : State :=
  let t := ctxAt s c j
  if t.run == .on && !midway t && t.trapDue.isNone && !t.nul.getLsbD 0 && !t.bpPass && bpNames (coreAt s c) t.pc.addr i then
    match debugMatch (coreAt s c) (1 + i.val) t.pc.addr with
    | .fault f => raiseTrap s c j f
    | _ => haltCore s c j
  else s
/-- BREAKPOINT_MATCH: An instruction at BPk reaches PC (R357). -/
def execBreakpointMatch (c : CoreId) (j : CtxId) (k : Fin 4) (s : State) : Out :=
  .next (if mayAct s c j then breakAt s c j k else s)
/-- A context may meet a trap of a cause: it is on and at a boundary; an Interrupt is delivered to ctx0 alone, in S mode only with
IE = 1 (R266), and a Power Stop is held in S mode (R267, R326). -/
def mayTrap (t : Ctx) (j : CtxId) (cause : Cause) : Bool :=
  t.run == .on && !midway t && !(stPriv t && cause == .powerStop) &&
    !(cause == .interrupt && (j.val != 0 || (stPriv t && !stIe t)))
/-- TRAP_ENTRY: The context enters its handler, where its mode lets it take the trap (R264, R267); a trap that it cannot meet leaves the
state as it is (log 3). -/
def execTrapEntry (c : CoreId) (j : CtxId) (t : TrapInfo) (s : State) : Out :=
  .next (if mayTrap (ctxAt s c j) j t.cause then raiseTrap s c j t else s)

/-- ctx0 takes an Interrupt at this boundary (R266): after a Trap that is due (R263), not within an MZERO or a WFI, and not while its core
is halted, where it waits until HALT clears (R358). -/
def interruptible (s : State) (c : CoreId) : Bool :=
  let t := ctxAt s c 0
  t.run == .on && !midway t && t.trapDue.isNone && (!stPriv t || stIe t) && interruptPending s (coreAt s c) && !(coreAt s c).dbg.halt
/-- ctx0 takes an Interrupt: SUB is the lowest pending enabled source (R263); a wake event for the core (R161). -/
def takeInterrupt (s : State) (c : CoreId) : State :=
  if !interruptible s c then s else
  let k := coreAt s c
  let timer := k.ienab.getLsbD 0 && decide (k.tcmp.toNat ≤ s.ns)
  raiseTrap (modCore (withdraw s c) c wakeSleepers) c 0 ⟨.interrupt, if timer then 0#8 else 1#8, false, false, ipendOf s k⟩
/-- INTERRUPT: ctx0 recognises a pending enabled interrupt (R266). -/
def execInterrupt (c : CoreId) (s : State) : Out := .next (takeInterrupt s c)

/-- A notice for a halted core waits in its debug module (R358). -/
def queueNotice (e : DebugEvent) (k : Core) : Core := { k with dbg := { k.dbg with queued := k.dbg.queued ++ [e] } }
/-- A doorbell reaches a core: dropped while no team is bound (R352). -/
def ringDoor (k : Core) : Core :=
  if k.team.isNone then k else if k.dbg.halt then queueNotice .door k else { k with door := true }
/-- DOORBELL_WRITE: A write to the doorbell of a physical core (R352). -/
def execDoorbellWrite (c : CoreId) (s : State) : Out := .next (modCore s c ringDoor)

/-! ### Sysreg writes (R23, R44, R56, R147, R262, R268) -/

/-- What a SYSW of number `n` writes, as a step of the issuing context. -/
def writeSys (n : Nat) (v : Word) (s : State) : Out :=
  let c := s.cur.1
  let j := s.cur.2
  .next (if (ctxAt s c j).run == .on && sysLegal (inS s) n && !bmaskBusy (coreAt s c) n then
      modCtx (undiscard (sysWrite s c j n v) c j) c j (sysWriteLoop n v)
    else s)
/-- IPEND_WRITE: The issuing context writes IPEND (R268). -/
def execIpendWrite (v : Word) (s : State) : Out := writeSys 0x804 v s
/-- STATUS_WRITE: The issuing context writes STATUS (R262). -/
def execStatusWrite (v : Word) (s : State) : Out := writeSys 0x000 v s
/-- LOOP_STATE_WRITE: The issuing context writes LC or LBLK (R147). -/
def execLoopStateWrite (lblk : Bool) (v : Word) (s : State) : Out := writeSys (if lblk then 0x011 else 0x010) v s
/-- ALLOW_WRITE: The issuing context writes ALLOW (R23). -/
def execAllowWrite (v : Word) (s : State) : Out := writeSys 0x021 v s
/-- BMASK_WRITE: The issuing context writes BMASKk (R23). -/
def execBmaskWrite (k : BitVec 3) (v : Word) (s : State) : Out := writeSys (0x028 + k.toNat) v s
/-- PEERMASK_WRITE: The issuing context writes PEERMASK (R44). -/
def execPeermaskWrite (v : Word) (s : State) : Out := writeSys 0x030 v s
/-- BWPHASE_WRITE: The issuing context writes BWPHASE (R56). -/
def execBwphaseWrite (v : Word) (s : State) : Out := writeSys 0x031 v s

/-! ### Stops (R33) -/

/-- A context stops for a pending request: at once, at the header it has just consumed, or where it waits. -/
def stopCtx (s : State) (c : CoreId) (j : CtxId) : State :=
  let t := ctxAt s c j
  if !stopDue s c j then s
  else if !stNd t then stopDiscardable s c j
  else if t.wait != .none then stopAs s c j .atWait
  else s
/-- CONTEXT_STOP: A context stops for a pending request (R33). -/
def execContextStop (c : CoreId) (j : CtxId) (s : State) : Out :=
  .next (if (coreAt s c).dbg.halt then s else stopCtx s c j)
/-- A stop request reaches a core. A migration asked for during a pre-emption is dropped, and a pre-emption drops a pending
migration (Table 18.6). -/
def applyStop (r : StopReq) (k : Core) : Core :=
  match r, k.stopReq with
  | .migrate _, .preempt => k
  | .preempt, .migrate _ => { k with stopReq := .preempt, frozen := false }
  | r, _ => { k with stopReq := r }
/-- The same, or a notice if the core is halted (R358). -/
def requestStop (r : StopReq) (k : Core) : Core := if k.dbg.halt then queueNotice (.stop r) k else applyStop r k
/-- A core's sensor reads, in steps of 0.5 °C: from 105 °C on the core's clock is held at 1.6 GHz (R336). -/
def senseHeat (reads : Nat) (k : Core) : Core := { k with temp := reads, hot := decide (210 ≤ reads) }
/-- The core of a reading takes it. -/
def senseCore (s : State) (h : CoreHeat) : State := modCore s h.core (senseHeat h.reads)
/-- THERMAL_CLOCK_LIMIT: A core's sensor reads; from 105 °C its clock is 1.6 GHz (R336). -/
def execThermalClockLimit (c : CoreHeat) (s : State) : Out := .next (senseCore s c)

/-! ### Barriers, waves, sleep -/
/-- BARRIER_GENERATION_COMPLETE: The generation of c on channel k completes (R26). -/
def execBarrierGenerationComplete (c : CoreId) (k : BitVec 3) (s : State) : Out := .next (completeGeneration s c k)
/-- QUIESCENCE_WAVE: A wave of the team of c (R29). -/
def execQuiescenceWave (c : CoreId) (s : State) : Out := .next (wave s c)
/-- SLEEP_TIMEOUT: A sleeping context resumes (R161). -/
def execSleepTimeout (c : CoreId) (j : CtxId) (s : State) : Out :=
  .next (modCtx s c j fun t => match t.wait with
    | .sleep dl _ => { t with wait := .sleep dl true }
    | _ => t)

/-! ### Steps of the memory machine -/

/-- Entry `i` of a store buffer may drain: no older entry must go first, and no frozen window holds it (R86, R90, R337). -/
def mayDrain (s : State) (c : CoreId) (sb : List SbItem) (i : Nat) (it : SbItem) : Bool :=
  let all := match it with
    | .store _ _ rel _ _ _ _ => rel
    | .fence pred _ _ _ => pred.getLsbD 1
  !itemHeld s c it && !((needed (fun _ => false) (sb.take i).reverse [it] all).any id)
/-- Entry `i` of a context's store buffer drains; the late loads that a release or a fence comes after are performed first, with them
all others of the context (R86, R90; log 4). -/
def drainOne (s : State) (c : CoreId) (j : CtxId) (i : Nat) : State :=
  let sb := (ctxAt s c j).sbuf
  match sb[i]? with
  | none => s
  | some it =>
    if mayDrain s c sb i it then
      drainItem (modCtx (if needsLoads it then performAll s c j else s) c j fun t => { t with sbuf := sb.eraseIdx i }) c it
    else s
/-- STORE_DRAIN: Entry i of a store buffer drains (R86). -/
def execStoreDrain (c : CoreId) (j : CtxId) (i : Nat) (s : State) : Out := .next (drainOne s c j i)
/-- Late load `i` of a context is performed, unless an older one shares a byte with it (R85). -/
def performOne (s : State) (c : CoreId) (j : CtxId) (i : Nat) : State :=
  let l := (ctxAt s c j).late
  match l[i]? with
  | none => s
  | some e =>
    if (l.take i).any fun x => overlap e.place e.n x.place x.n then s
    else performLoad (modCtx s c j fun t => { t with late := l.eraseIdx i }) c j e
/-- LINE_WRITEBACK: Dirty bytes of an L1 line go home (R87). -/
def execLineWriteback (c : CoreId) (line : Nat) (s : State) : Out := .next (writeBackLine s c line none)
/-- A clean line leaves an L1; its owner gives up the ownership with it. -/
def evictClean (s : State) (c : CoreId) (line : Nat) : State :=
  match l1Line (coreAt s c) line with
  | none => s
  | some l =>
    if l.bytes.any fun e => e.2.dirty.isSome then s else
    let s := modCore s c fun k => dropLine k line
    if (s.owner.find? (·.1 == line)).any (·.2 == c) then { s with owner := sDel s.owner line } else s
/-- LINE_INVALIDATE: A clean L1 line is invalidated or evicted (R87). -/
def execLineInvalidate (c : CoreId) (line : Nat) (s : State) : Out := .next (evictClean s c line)
/-- An identity of that address space and root. -/
def whoRoots (asid : BitVec 9) (root : BitVec 35) (w : Who) : Bool := w.asid == asid && w.root == root
/-- A root that the PTBR of some context, job, put, window or launch of that ASID holds: what the device may walk of its own accord
(R288, R295). -/
def rootKnown (s : State) (asid : BitVec 9) (root : BitVec 35) : Bool :=
  (s.cores.toList.any fun k => k.team.isSome && k.ctxs.toList.any fun t => t.asid == asid && t.root == root) ||
  (s.clusters.toList.any fun g => g.jobs.any (fun b => whoRoots asid root b.who) ||
    g.engine.queue.any fun q => whoRoots asid root q.who) ||
  (s.dies.toList.any fun d => d.puts.any (fun p => whoRoots asid root p.who) || d.wins.any fun w => whoRoots asid root w.who) ||
  (s.ports.toList.any fun p => p.jobs.any fun b => whoRoots asid root b.who) ||
  s.hub.launches.any fun l => l.rec_.extractLsb' 256 9 == asid && l.rec_.extractLsb' 265 35 == root
/-- PAGE_WALK: A walk whose result is cached (R294, R295). -/
def execPageWalk (d : DieId) (asid : BitVec 9) (root : BitVec 35) (va : Word) (s : State) : Out :=
  .next (if rootKnown s asid root then cacheWalk s d asid root va else s)

/-! ### The debug module -/
/-- DBGCTL_HALT: HALT is set (R358). -/
def execDbgctlHalt (c : CoreId) (s : State) : Out :=
  .next (modCore s c fun k => { k with dbg := { k.dbg with halt := true } })
/-- A notice is delivered (R358). -/
def deliver (k : Core) : DebugEvent → Core
  | .door => ringDoor k
  | .generation i a o ms => recordGeneration i a o ms k
  | .stop r => applyStop r k
/-- HALT clears: every context resumes, and what was queued is delivered in order. -/
def resumeCore (k : Core) : Core :=
  if k.dbg.halt then
    k.dbg.queued.foldl deliver { k with dbg := { k.dbg with halt := false, step := false, queued := [] } }
  else k
/-- DBGCTL_RESUME: HALT is cleared (R358). -/
def execDbgctlResume (c : CoreId) (s : State) : Out := .next (modCore s c resumeCore)
/-- STEP: one instruction of a context is to issue, past any match of its own. -/
def stepCtx (j : CtxId) (k : Core) : Core :=
  if k.dbg.halt then
    putCtx { k with dbg := { k.dbg with step := true, ctx := BitVec.ofNat 4 j.val } } j { coreCtx k j with bpPass := true }
  else { k with dbg := { k.dbg with ctx := BitVec.ofNat 4 j.val } }
/-- DBGCTL_STEP: STEP is set for a context (R358). -/
def execDbgctlStep (c : CoreId) (j : CtxId) (s : State) : Out := .next (modCore s c (stepCtx j))
/-- DBGCTL_ATTACH: ATTACH is set (R357). -/
def execDbgctlAttach (c : CoreId) (s : State) : Out :=
  .next (modCore s c fun k => { k with dbg := { k.dbg with attach := true } })

/-! ### Soft errors (R283–R286, R361) -/

def saturated (v : Word32) : Word32 := if v = BitVec.allOnes 32 then v else v + 1
/-- A corrected error of a structure is counted. -/
def countCorrected (s : State) (d : DieId) (i : Fin 7) : State :=
  modDie s d fun k => { k with errs := vPut k.errs i (saturated (k.errs.get i).1, (k.errs.get i).2) }
/-- An uncorrectable one is counted. -/
def countUncorrectable (s : State) (d : DieId) (i : Fin 7) : State :=
  modDie s d fun k => { k with errs := vPut k.errs i ((k.errs.get i).1, saturated (k.errs.get i).2) }
/-- CORRECTED_ERROR: A corrected error is counted (R283). -/
def execCorrectedError (d : DieId) (k : Fin 7) (s : State) : Out := .next (countCorrected s d k)
/-- A sector, row or fetched line is poisoned (R284, R285). An error at a home counts as one of LPDDR (log 27). -/
def poisonPlace (s : State) : ErrorPlace → State
  | .home pa =>
    let s := { s with poison := setAdd s.poison (pa / 64) }
    if isLpddr pa then countUncorrectable s (paDie s pa) 6 else s
  | .array c off =>
    countUncorrectable (modCore s c fun k => { k with arrayPoison := setAdd k.arrayPoison (off / 64) }) (coreDie c) 1
  | .l1 c pa =>
    if (l1Line (coreAt s c) (pa / 256)).isSome then
      countUncorrectable (modCore s c fun k => { k with l1Poison := setAdd k.l1Poison (pa / 64) }) (coreDie c) 1
    else s
  | .l2 pa =>
    if isLpddr pa then countUncorrectable { s with poison := setAdd s.poison (pa / 64) } (paDie s pa) 2 else s
  | .weight d off => countUncorrectable (modDie s d fun k => { k with weightPoison := setAdd k.weightPoison (off / 64) }) d 3
  | .engineWeights g sec =>
    countUncorrectable (modEngine s g fun e => { e with wPoison := setAdd e.wPoison sec }) (dieId (g.val / 32)) 4
  | .workingBank g sec =>
    countUncorrectable (modEngine s g fun e => { e with wbPoison := setAdd e.wbPoison sec }) (dieId (g.val / 32)) 4
  | .visibleBank g sec =>
    countUncorrectable (modEngine s g fun e => { e with vbPoison := setAdd e.vbPoison sec }) (dieId (g.val / 32)) 4
  | .bezel d pa sec =>
    if (dieAt s d).wins.any (·.pa == pa) then
      countUncorrectable (modDie s d fun k => { k with wins := k.wins.map fun w =>
        if w.pa == pa then { w with bezelPoison := setAdd w.bezelPoison sec } else w }) d 5
    else s
  | .fetched c pa => modCore s c fun k => { k with fetchPoison := setAdd k.fetchPoison (pa / 64) }
/-- UNCORRECTABLE_ERROR: A sector or line is poisoned (R284, R285). -/
def execUncorrectableError (pl : ErrorPlace) (s : State) : Out := .next (poisonPlace s pl)
/-- An error in a context's registers or queue is counted (R286). A discardable region in U mode is discarded and rerun, also by a context
that has stopped at its header; elsewhere the context stops as after a double trap. A context that is not live, has ended or stands
still for good (R332) has nothing to rerun. -/
def registerError (s : State) (c : CoreId) (j : CtxId) : State :=
  let t := ctxAt s c j
  let s := countUncorrectable s (coreDie c) 0
  match t.run with
  | .off => s
  | .dead => s
  | .discarded => s
  | .atHeader => if s.hub.stopped then s else modCtx (discard s c j) c j fun u => { u with run := .discarded, trapDue := t.trapDue }
  | .atWait => failCtx s c j (t.ecause.setWidth 32)
  | .on =>
    if s.hub.stopped then s
    else if !stPriv t && !stNd t then discard (if j.val = 0 then withdraw s c else s) c j
    else failCtx s c j (t.ecause.setWidth 32)
/-- REGISTER_UNCORRECTABLE: A register error (R286). -/
def execRegisterUncorrectable (c : CoreId) (j : CtxId) (s : State) : Out := .next (registerError s c j)

end Sys2Proof.Machine
end

