-- ==== Sys2Proof/Machine/Bind.lean ====
section
/-! DEFINITION. Binding and unbinding a team: the boundary move (R48), dispatch (R317, R318), entry state (Table 1.3), the save
image (R279–R282, Table 15.8), restoring, and thermal migration (R336, R337). -/

namespace Sys2Proof.Machine

/-! ### Fields packed into words and images -/

/-- A word from (bit, value) pairs. -/
def packNat : List (Nat × Nat) → Nat
  | [] => 0
  | (lo, v) :: fs => v * 2 ^ lo + packNat fs
/-- `n` zero bytes with little-endian fields (offset, width, value) laid over them. -/
def layOut (n : Nat) (fs : List (Nat × Nat × Nat)) : List Byte :=
  (fs.foldl (fun (a : Array Byte) f => (List.range f.2.1).foldl (fun a i =>
    a.setIfInBounds (f.1 + i) (BitVec.ofNat 8 (f.2.2 / 256 ^ i))) a) (Array.replicate n 0#8)).toList
/-- A little-endian field of an image. -/
def fieldAt (img : Array Byte) (off n : Nat) : Nat := leNat ((List.range n).map fun i => img.getD (off + i) 0#8)

/-! ### The bind record (Table 17.6) -/

def brLid (b : BitVec 1024) : Word32 := b.extractLsb' 0 32
def brTeam (b : BitVec 1024) : Nat := (b.extractLsb' 32 24).toNat
def brLc0 (b : BitVec 1024) : Nat := (b.extractLsb' 64 10).toNat
def brN (b : BitVec 1024) : Nat := (b.extractLsb' 74 10).toNat + 1
def brGrant (b : BitVec 1024) : Nat := (b.extractLsb' 84 6).toNat
def brL1k (b : BitVec 1024) : Nat := (b.extractLsb' 90 6).toNat
def brFloor (b : BitVec 1024) : BitVec 2 := b.extractLsb' 96 2
def brL2f (b : BitVec 1024) : Nat := (b.extractLsb' 98 6).toNat
def brRestore (b : BitVec 1024) : Bool := b.getLsbD 104
def brDet (b : BitVec 1024) : Bool := b.getLsbD 105
def brSchk (b : BitVec 1024) : Bool := b.getLsbD 106
def brEntry (b : BitVec 1024) : Word := b.extractLsb' 128 64
def brArgs (b : BitVec 1024) : Word := b.extractLsb' 192 64
def brAsid (b : BitVec 1024) : BitVec 9 := b.extractLsb' 256 9
def brRoot (b : BitVec 1024) : BitVec 35 := b.extractLsb' 265 35
def brTvec (b : BitVec 1024) : Word := b.extractLsb' 320 64
def brSave (b : BitVec 1024) : Word := b.extractLsb' 384 64
def brGrid (b : BitVec 1024) : Nat := (b.extractLsb' 448 24).toNat + 1

/-! ### The slot table (Table 17.7) -/

def slotBound (v : Word) : Bool := v.getLsbD 0
def slotLc (v : Word) : BitVec 10 := v.extractLsb' 1 10
def slotTci (v : Word) : Nat := (v.extractLsb' 11 10).toNat
def slotBidx (v : Word) : Nat := (v.extractLsb' 21 16).toNat
/-- The fields of a SLOT entry. -/
def slotMask (v : Word) : Word := v &&& 0x1FFFFFFFFF#64
def slotWord (lc tci bidx : Nat) : Word := BitVec.ofNat 64 (packNat [(0, 1), (1, lc), (11, tci), (21, bidx)])

/-! ### The boundary move (R48) -/

def leaveLines (s : State) (c : CoreId) (p : L1Line → Bool) : State :=
  (((coreAt s c).l1.filter p).map (·.line)).foldl (fun s l => leaveLine s c l) s
/-- A bank's state after a move: banks outside every role are DARK, every bank with a role is ON: step 3 wakes those that are not, also
L1 banks that stay in L1 and went deeper while the core was unbound or its cluster gated (R48, R59, after Table 19.7). -/
def movedBank (g l1 b : Nat) : BitVec 2 := if b < g || 40 - l1 ≤ b then 0#2 else 3#2
/-- The core's array goes over to a grant of `g` and an L1 of `l1` banks; the new grant reads zero (R46). -/
def boundaryMove (s : State) (c : CoreId) (g l1 : Nat) : State :=
  let s := leaveLines s c fun l => decide (l.bank < 40 - l1) || isWeightLine l.line
  modCore s c fun k =>
    { k with
      power := (List.range 40).foldl (fun m b => putTwo m b (movedBank g l1 b)) k.power
      lastUse := (List.range 40).foldl (fun m b => if b < g || 40 - l1 ≤ b then sIns m b s.ns else m) k.lastUse
      grant := g, l1k := l1, array := [], arrayPoison := [] }

/-! ### Domains of a placement (R318, Table 1.4) -/

/-- Bits i < n for which `p` holds. -/
def bitsFor (n : Nat) (p : Nat → Bool) : Nat := packNat (((List.range n).filter p).map fun i => (i, 1))
/-- Logical core `lc` lies in the placement of `n` cores from `lc0`. -/
def inPlacement (lc0 n lc : Nat) : Bool := decide (lc0 ≤ lc) && decide (lc < lc0 + n)
def domclOf (lc0 n lc : Nat) : BitVec 8 := BitVec.ofNat 8 (bitsFor 8 fun i => inPlacement lc0 n (lc / 8 * 8 + i))
def domdieOf (lc0 n lc : Nat) : Word32 :=
  BitVec.ofNat 32 (bitsFor 32 fun i => (List.range 8).any fun j => inPlacement lc0 n (lc / 256 * 256 + 8 * i + j))
def dompkgOf (lc0 n : Nat) : BitVec 4 :=
  BitVec.ofNat 4 (bitsFor 4 fun d => decide (lc0 < 256 * d + 256) && decide (256 * d < lc0 + n))
/-- SCOPE of BMASKk at kernel entry: the narrowest scope that holds the team. -/
def scopeOf (lc0 n : Nat) : Nat :=
  if n = 1 then 3 else if (lc0 + n - 1) / 8 = lc0 / 8 then 0 else if (lc0 + n - 1) / 256 = lc0 / 256 then 1 else 2
def bmaskOf (lc0 n lc : Nat) : Word :=
  BitVec.ofNat 64 (packNat [(0, scopeOf lc0 n), (8, (domclOf lc0 n lc).toNat), (16, (domdieOf lc0 n lc).toNat),
    (48, (dompkgOf lc0 n).toNat)])

/-! ### Engine state of a launch on a cluster (R191, R282) -/

def launchOf (s : State) (lid : Word32) : Option Launch := s.hub.launches.find? (·.lid == lid)
def modLaunch (s : State) (lid : Word32) (f : Launch → Launch) : State :=
  modHub s fun h => { h with launches := h.launches.map fun l => if l.lid == lid then f l else l }
/-- The engine's state goes to its launch's cluster record. -/
def parkEngine (s : State) (g : ClusterId) : State :=
  match (engineAt s g).owner with
  | none => s
  | some lid =>
    let e := engineAt s g
    modEngine (modLaunch s lid fun l => { l with engines := sIns l.engines g.val e }) g fun _ => .reset
/-- The engine's state becomes that of a launch: its record, or the initial values (Table 9.1). -/
def claimEngine (lid : Word32) (s : State) (g : ClusterId) : State :=
  if (engineAt s g).owner == some lid then s else
  let s := parkEngine s g
  let e := ((launchOf s lid).bind fun l => (l.engines.find? (·.1 == g.val)).map (·.2)).getD .reset
  modEngine (modLaunch s lid fun l => { l with engines := sDel l.engines g.val }) g fun _ => { e with owner := some lid }
/-- A core of a launch is bound on a cluster. -/
def launchOnCluster (s : State) (lid : Word32) (g : ClusterId) : Bool :=
  allCores.any fun c => (match (coreAt s c).team with | some b => b.lid == lid | none => false) && clusterOf s c == g
/-- After an unbind: the launch's last team has left the cluster. -/
def releaseEngine (s : State) (g : ClusterId) : State :=
  match (engineAt s g).owner with
  | none => s
  | some lid => if launchOnCluster s lid g then s else parkEngine s g

/-! ### The L2 floor (R333) -/

def floorOf (s : State) (d : DieId) : Nat :=
  (dieCores d).foldl (fun f c => match (coreAt s c).team with | some b => max f b.l2f | none => f) 8
def setFloors (s : State) : State :=
  (List.finRange 4).foldl (fun s d => modDie s d fun k => { k with l2Floor := floorOf s d }) s

/-! ### Unbinding -/

/-- A core gives up its team: the entry, the doorbell and what was queued for the team go (R318, R352). -/
def unbound (k : Core) : Core :=
  { k with
    team := none, slot := 0#64, door := false, stopReq := .none, frozen := false, leaseSaved := none, paused := false
    finished := false, dbg := { k.dbg with queued := [] }
    ctxs := k.ctxs.map fun t => { t with run := .off, wait := .none, sbuf := [], late := [] } }
/-- Buffers drained and dirty bytes written back (R87). -/
def flushCore (s : State) (c : CoreId) : State := writeBackAll (allCtxs.foldl (fun s j => drainAll s c j) s) c none
/-- An entry of a store buffer stores to the array of one of some cores. -/
def storesInto (cs : List CoreId) : SbItem → Bool
  | .store (.array o _) _ _ _ _ _ _ => cs.contains o
  | _ => false
/-- Every access that the windows of some cores have accepted completes: late loads, engine beats, and stores that other cores'
buffers still hold, but for one behind an entry held at a frozen window (R59, Table 18.4). -/
def finishInto (s : State) (cs : List CoreId) : State :=
  (allCores.flatMap fun c => (allCtxs.filter fun j => (ctxAt s c j).sbuf.any (storesInto cs) &&
      !settleHeld s c j (storesInto cs)).map fun j => (c, j)).foldl
    (fun s x => settle s x.1 x.2 (storesInto cs)) (settleAccesses s)
/-- A team's cores are unbound, after what their windows have accepted, their buffers and their dirty bytes have been performed. -/
def unbindCores (s : State) (cs : List CoreId) : State :=
  let s := finishInto s cs
  let gs := (cs.map (clusterOf s ·)).eraseDups
  let s := cs.foldl (fun s c => modEngine (flushCore s c) (clusterOf s c) fun e =>
    { dropLease c e with waiting := setDel e.waiting c.val }) s
  let s := cs.foldl (fun s c => modCore s c unbound) s
  setFloors (gs.foldl releaseEngine s)

/-! ### Kernel entry (Table 1.3) -/

/-- The core's registers at kernel entry; ctx0's queue is started afterwards. -/
def entryCore (b : BitVec 1024) (pa lc tci ns : Nat) (k : Core) : Core :=
  let n := brN b
  let lc0 := brLc0 b
  let t0 : Ctx :=
    { Ctx.reset with
      run := .on
      x := Vector.ofFn fun i => match i.val with
        | 2 => BitVec.ofNat 64 (brTeam b)
        | 3 => BitVec.ofNat 64 tci
        | 4 => brArgs b
        | 5 => BitVec.ofNat 64 n
        | 6 => BitVec.ofNat 64 (brGrid b)
        | _ => 0#64
      status := statusOf (brSchk b || brDet b) (brDet b) false false false false false false
      tvec := brTvec b &&& ~~~7#64, asid := brAsid b, root := brRoot b }
  { k with
    ctxs := vPut (Vector.replicate 11 { Ctx.reset with asid := brAsid b, root := brRoot b }) 0 t0
    v := Vector.replicate 32 0#512, m := Vector.replicate 8 0#64, streams := Vector.replicate 4 .none
    lcore := BitVec.ofNat 10 lc, lclus := BitVec.ofNat 7 (lc / 8)
    domcl := domclOf lc0 n lc, domdie := domdieOf lc0 n lc, dompkg := dompkgOf lc0 n
    phase := 0#32, allow := Vector.replicate 3 255#8, bmask := Vector.replicate 8 (bmaskOf lc0 n lc)
    qsent := 0#32, qrecv := 0#32, peermask := 1#64, bwph := brFloor b, bwfloor := brFloor b, kretry := 3#3
    arr := 0#8, ready := 0#8, vote := 0#8, resAnd := 0xFF#8, resOr := 0#8, start := 0#3
    arrStamp := Vector.replicate 8 0, genMembers := Vector.replicate 8 [], rings := Vector.replicate 8 .unbound
    team := some ⟨brLid b, brTeam b, tci, n, pa, ns, brAsid b, brRoot b, brSave b, brL2f b, brDet b⟩
    everBound := true, finished := false, stage := 0#16, stageDone := 0, stopReq := .none, frozen := false
    leaseSaved := none, paused := false, door := false, last := 0 }
/-- ctx0 starts at the first body word of the entry block, which counts as a region start (R15). ENTRY is a header's address, on 8
bytes (R110); a bind record can hold another value, whose low three bits are dropped (DESIGN CHOICE, log 113). -/
def startEntry (entryWord : Word) (s : State) (c : CoreId) : State :=
  let entry := entryWord &&& ~~~7#64
  let pc : QSlot := ⟨entry + 8#64, entry⟩
  let npc := (seqOf s c 0 0#64 0#64 pc).1
  let nnpc := (seqOf s c 0 0#64 0#64 npc).1
  let live := liveAt s c 0 entry
  modCtx s c 0 fun t =>
    { t with pc := pc, npc := npc, nnpc := nnpc, rstart := pc.addr
             region := ⟨npc, nnpc, 0#2, 0#64, 0#64, 0#32, live, Vector.replicate 4 .none⟩ }

/-! ### The save image (Table 15.8). The packing of the lease, ring and binding fields is the model's (log 28). -/

/-- Bytes of one core block. -/
def blockBytes (grant : Nat) : Nat := 8192 + 8192 * grant
/-- The core block of team core `tci` in a save image. -/
def blockVa (save : Word) (tci grant : Nat) : Word := save + BitVec.ofNat 64 (4096 + tci * blockBytes grant)
/-- The identity with which the copy units write and read a team's image: S privilege (R279). -/
def imageWho (k : Core) (c : CoreId) (b : Binding) : Who := ⟨c, 0, true, b.asid, b.root, b.lid, b.team, k.lcore⟩

def ringNat (r : Ring) : Nat :=
  if !r.bound then 0 else
  packNat [(0, r.base), (19, r.slot), (36, r.count), (49, r.side.toNat), (50, r.free), (63, r.filled), (76, r.head),
    (88, r.tail), (100, r.held.toNat), (101, r.strm.toNat)]
/-- A ring from its field. Table 15.8 has no field for the bytes of a slot that a job or the matrix engine has already moved, so a slot
that the matrix engine had read in part is read again from its first byte (DESIGN CHOICE, log 105). -/
def ringOfNat (v : BitVec 128) : Ring :=
  if v.extractLsb' 36 13 = 0#13 then .unbound else
  { bound := true, base := (v.extractLsb' 0 19).toNat, slot := (v.extractLsb' 19 17).toNat
    count := (v.extractLsb' 36 13).toNat, side := v.getLsbD 49, free := (v.extractLsb' 50 13).toNat
    filled := (v.extractLsb' 63 13).toNat, head := (v.extractLsb' 76 12).toNat, tail := (v.extractLsb' 88 12).toNat
    held := v.getLsbD 100, strm := v.getLsbD 101, rel := 0, prod := none, cons := none }
def streamFields (off : Nat) (b : Stream) : List (Nat × Nat × Nat) :=
  [(off, 1, match b.kind with | .unbound => 0 | .ring => 1 | .addr => 2),
   (off + 1, 1, match b.dir with | .unset => 0 | .source => 1 | .sink => 2 | .update => 3),
   (off + 2, 1, b.ring.toNat), (off + 3, 1, b.holds.toNat + 2 * b.out.toNat), (off + 4, 4, b.pos.toNat), (off + 8, 4, b.count.toNat),
   (off + 12, 4, b.off), (off + 16, 8, b.base.toNat), (off + 24, 8, b.stride.toNat)]
def streamOf (img : Array Byte) (off : Nat) : Stream :=
  { kind := match fieldAt img off 1 with | 0 => .unbound | 1 => .ring | _ => .addr
    dir := match fieldAt img (off + 1) 1 with | 0 => .unset | 1 => .source | 2 => .sink | _ => .update
    pos := BitVec.ofNat 32 (fieldAt img (off + 4) 4), count := BitVec.ofNat 32 (fieldAt img (off + 8) 4)
    base := BitVec.ofNat 64 (fieldAt img (off + 16) 8), stride := BitVec.ofNat 64 (fieldAt img (off + 24) 8)
    ring := BitVec.ofNat 3 (fieldAt img (off + 2) 1), off := fieldAt img (off + 12) 4
    holds := fieldAt img (off + 3) 1 % 2 != 0, out := fieldAt img (off + 3) 1 / 2 % 2 != 0, made := 0 }

/-- The stop kind of a context. -/
def stopKind (t : Ctx) : Nat :=
  match t.run with
  | .off => 0
  | .on => 0
  | .discarded => 1
  | .atHeader => 2
  | .atWait => 3
  | .dead => 0
/-- ALLOW, FLOOR and PH as the sysregs show them. -/
def bwphaseOf (k : Core) : Word := ((k.bwfloor ++ k.bwph : BitVec 4)).setWidth 64
/-- The discard credits as the image holds them; a count is stored mod 16 in its four bits (DESIGN CHOICE, log 99). -/
def creditsOf (t : Ctx) : Nat :=
  packNat ((List.finRange 8).map fun k => (4 * k.val, t.credit.get k % 16)) + t.phaseCredit % 16 * 2 ^ 32
/-- The words from offset 256 of a context's part of the block. -/
def ctxWords (t : Ctx) : List Nat :=
  [t.pc.addr.toNat, t.npc.addr.toNat, t.nnpc.addr.toNat, t.nul.toNat, t.lc.toNat, t.lblk.toNat, t.rstart.toNat, t.srctr.toNat,
   t.srkey.toNat, t.fflags.toNat, t.cvtovf.toNat, t.status.toNat, t.exitVal.toNat, t.tvec.toNat, t.sscratch.toNat,
   t.bankqSel.toNat, t.asid.toNat, t.root.toNat * 2 ^ 17, creditsOf t]
def ctxFields (off : Nat) (t : Ctx) : List (Nat × Nat × Nat) :=
  (off, 8, stopKind t) :: (List.range 31).map (fun i => (off + 8 * (i + 1), 8, (xreg t (BitVec.ofNat 5 (i + 1))).toNat)) ++
    (ctxWords t).zipIdx.map fun w => (off + 256 + 8 * w.2, 8, w.1)
/-- The first 8 KiB of a core block. -/
def coreImage (k : Core) : List Byte :=
  let eights : List Nat := [k.phase.toNat, (allowOf k).toNat] ++ k.bmask.toList.map (·.toNat) ++
    [k.peermask.toNat, (bwphaseOf k).toNat, k.qsent.toNat, k.qrecv.toNat]
  layOut 8192 <|
    eights.zipIdx.map (fun w => (8 * w.2, 8, w.1)) ++
    [(112, 1, k.arr.toNat), (113, 1, k.ready.toNat), (114, 1, k.vote.toNat), (115, 1, k.resAnd.toNat), (116, 1, k.resOr.toNat),
     (117, 1, k.start.toNat), (120, 1, k.leaseSaved.isSome.toNat), (121, 1, (k.leaseSaved.getD (0, 0)).1),
     (122, 1, (k.leaseSaved.getD (0, 0)).2), (124, 2, k.stage.toNat), (256, 8, k.kcfg.toNat), (264, 8, k.kretry.toNat)] ++
    (List.finRange 8).map (fun i => (128 + 16 * i.val, 16, ringNat (k.rings.get i))) ++
    allCtxs.flatMap (fun j => ctxFields (512 + 448 * j.val) (coreCtx k j)) ++
    (List.finRange 32).map (fun i => (5440 + 64 * i.val, 64, (k.v.get i).toNat)) ++
    (List.finRange 7).map (fun i => (7488 + 8 * i.val, 8, (k.m.get i.succ).toNat)) ++
    (List.finRange 4).flatMap fun i => streamFields (7544 + 32 * i.val) (k.streams.get i)

/-- Bytes stored by a cluster's copy unit at S privilege in pieces within 64-byte groups; a piece that cannot be stored is dropped
(log 28). Poison of the bytes travels with a whole sector (R284). -/
def engineStore (h : Hart) (w : Who) (bad : Bool) : Nat → State → Word → List Byte → State
  | 0, s, _, _ => s
  | fuel + 1, s, va, bs =>
    if bs.isEmpty then s else
    let k := min bs.length (64 - va.toNat % 64)
    let s := match beatPlace s h w .store va k with
      | .error _ => s
      | .ok p =>
        let s := engineWrite (walkedBeat s h w .store va) p (bs.take k)
        (match p, bad with
         | .mem pa _, true => { s with poison := setAdd s.poison (pa / 64) }
         | _, _ => s)
    engineStore h w bad fuel s (va + BitVec.ofNat 64 k) (bs.drop k)
/-- One core block written to its place in the image. -/
def saveCore (save : Word) (grant : Nat) (s : State) (c : CoreId) : State :=
  let k := coreAt s c
  match k.team with
  | none => s
  | some b =>
    let w := imageWho k c b
    let h : Hart := .copy (clusterOf s c)
    let va := blockVa save b.tci grant
    let s := modCore s c fun k => (List.range grant).foldl (touchBank · s.ns ·) k
    let s := engineStore h w false (pieces 8192) s va (coreImage k)
    (List.range (128 * grant)).foldl (fun s i =>
      engineStore h w (k.arrayPoison.contains i) 2 s (va + BitVec.ofNat 64 (8192 + 64 * i)) (bytesAt k.array (64 * i) 64)) s

/-! ### Restoring (R281) -/

/-- STATUS without its reserved bits (Table 15.2). -/
def statusMask (v : Word) : Word := v &&& 0xFF#64
/-- A context from its part of the image; reserved bits read zero (R8), and the headers of its queue are found afterwards. -/
def ctxFrom (img : Array Byte) (off : Nat) (streams : Vector Stream 4) (held : Kept) : Ctx :=
  let w (i : Nat) : Nat := fieldAt img (off + 256 + 8 * i) 8
  let word (i : Nat) : Word := BitVec.ofNat 64 (w i)
  let q (i : Nat) : QSlot := ⟨word i &&& ~~~3#64, 0#64⟩
  let credits := w 18
  { Ctx.reset with
    run := if fieldAt img off 8 = 0 then .off else .on
    x := Vector.ofFn fun i => if i.val = 0 then 0#64 else BitVec.ofNat 64 (fieldAt img (off + 8 * i.val) 8)
    pc := q 0, npc := q 1, nnpc := q 2, nul := BitVec.ofNat 2 (w 3), lc := word 4, lblk := lblkMask (word 5), rstart := word 6 &&& ~~~3#64
    region := ⟨q 1, q 2, BitVec.ofNat 2 (w 3), word 4, lblkMask (word 5), BitVec.ofNat 32 (w 7), 0#32, streams⟩
    srctr := BitVec.ofNat 32 (w 7), srkey := BitVec.ofNat 32 (w 8), fflags := BitVec.ofNat 5 (w 9), cvtovf := w 10 % 2 != 0
    status := statusMask (word 11), exitVal := word 12, tvec := word 13 &&& ~~~7#64, sscratch := word 14, bankqSel := BitVec.ofNat 3 (w 15)
    asid := BitVec.ofNat 9 (w 16), root := BitVec.ofNat 35 (w 17 / 2 ^ 17)
    credit := Vector.ofFn fun k => credits / 16 ^ k.val % 16, phaseCredit := credits / 2 ^ 32 % 16, ringsHeld := held.rings
    powerStop := held.powerStop, powerDone := held.powerDone }
/-- What is kept of a context of a saved team. -/
def keptFor (kept : List Kept) (tci j : Nat) : Kept :=
  (kept.find? fun e => e.tci == tci && e.ctx == j).getD ⟨tci, j, [], false, false⟩
/-- The core from its block; its array, caches and L1 are not of it. -/
def coreFrom (img : Array Byte) (tci : Nat) (kept : List Kept) (k : Core) : Core :=
  let word (off : Nat) : Word := BitVec.ofNat 64 (fieldAt img off 8)
  let byte (off : Nat) : Byte := BitVec.ofNat 8 (fieldAt img off 1)
  let streams : Vector Stream 4 := Vector.ofFn fun i => streamOf img (7544 + 32 * i.val)
  let bw := word 88
  { k with
    phase := BitVec.ofNat 32 (fieldAt img 0 8)
    allow := allowWritten (word 8)
    bmask := Vector.ofFn fun i => bmaskMask (word (16 + 8 * i.val))
    peermask := peermaskMask (word 80), bwph := bw.extractLsb' 0 2, bwfloor := bw.extractLsb' 2 2
    qsent := BitVec.ofNat 32 (fieldAt img 96 8), qrecv := BitVec.ofNat 32 (fieldAt img 104 8)
    arr := byte 112, ready := byte 113, vote := byte 114, resAnd := byte 115, resOr := byte 116
    start := BitVec.ofNat 3 (fieldAt img 117 1)
    leaseSaved := if byte 120 = 0#8 then none else some (fieldAt img 121 1, fieldAt img 122 1)
    stage := BitVec.ofNat 16 (fieldAt img 124 2), kcfg := kcfgMask (word 256), kretry := BitVec.ofNat 3 (fieldAt img 264 8)
    rings := Vector.ofFn fun i => ringOfNat (BitVec.ofNat 128 (fieldAt img (128 + 16 * i.val) 16))
    ctxs := Vector.ofFn fun j => ctxFrom img (512 + 448 * j.val) streams (keptFor kept tci j.val)
    v := Vector.ofFn fun i => BitVec.ofNat 512 (fieldAt img (5440 + 64 * i.val) 64)
    m := Vector.ofFn fun i => if i.val = 0 then 0#64 else word (7488 + 8 * (i.val - 1))
    streams := streams
    finished := fieldAt img 512 8 = 0 }
/-- A context's headers found again, and the LIVE word of its region (log 8). -/
def rehead (kind : Nat) (c : CoreId) (s : State) (j : CtxId) : State :=
  let t := ctxAt s c j
  if t.run != .on then s else
  let found (q : QSlot) : QSlot := ⟨q.addr, findHeader s c j q.addr⟩
  let pc : QSlot := if kind = 3 then found t.pc else ⟨t.pc.addr, t.pc.addr - 8#64⟩
  let npc := found t.npc
  let nnpc := found t.nnpc
  let live := liveAt s c j (t.rstart - 8#64)
  modCtx s c j fun t =>
    { t with pc := pc, npc := npc, nnpc := nnpc, region := { t.region with npc := npc, nnpc := nnpc, live := live } }
/-- Bytes read by a cluster's copy unit at S privilege by 64-byte pieces, each with whether it is poisoned; one that cannot be read
reads zero. -/
def imageRead (h : Hart) (w : Who) (va : Word) : Nat → State → Nat → State × List Byte × List Nat
  | 0, s, _ => (s, [], [])
  | n + 1, s, i =>
    let p := va + BitVec.ofNat 64 (64 * i)
    let (s, bs, bad) : State × List Byte × Bool := match loadFor s h w p 64 with
      | .ok r => (r.1, r.2, false)
      | .error (.poison _) => (s, List.replicate 64 0#8, true)
      | .error _ => (s, List.replicate 64 0#8, false)
    let t := imageRead h w va n s (i + 1)
    (t.1, bs ++ t.2.1, if bad then i :: t.2.2 else t.2.2)
/-- A restored KCFG: where its circle has ended with SEGMENT since, LOST has become 1 (R231). -/
def lostSince (s : State) (v : Word) : Word :=
  if v.getLsbD 0 && (circleAt s (kPort v) (kCircle v)).lost then v ||| 8#64 else v
/-- A core takes its block: the state, and the grant banks as they were saved (R46). -/
def restoreCore (save : Word) (kept : List Kept) (s : State) (c : CoreId) : State :=
  let k := coreAt s c
  match k.team with
  | none => s
  | some b =>
    let w := imageWho k c b
    let va := blockVa save b.tci k.grant
    let h : Hart := .copy (clusterOf s c)
    let st := imageRead h w va 128 s 0
    let img := st.2.1.toArray
    let gr := imageRead h w (va + 8192#64) (128 * k.grant) st.1 0
    let s := leaveLines gr.1 c fun _ => true
    let s := modCore s c fun k =>
      let n := coreFrom img b.tci kept k
      { n with array := putBytes [] 0 gr.2.1, arrayPoison := gr.2.2, kcfg := lostSince s n.kcfg }
    let s := allCtxs.foldl (fun s j => rehead (fieldAt img (512 + 448 * j.val) 8) c s j) s
    let s := reconfigure s (coreAt s c).kcfg
    if (coreAt s c).leaseSaved.isSome then modEngine s (clusterOf s c) fun e => { e with waiting := setAdd e.waiting c.val }
    else s

/-! ### Who acts for a core that has moved -/

/-- Jobs, puts and windows of a team core act from the physical core that presents it. -/
def movedWho (lid : Word32) (team : Nat) (lc : BitVec 10) (c : CoreId) (w : Who) : Who :=
  if w.lid == lid && w.team == team && w.lc == lc then { w with core := c } else w
def renameWho (s : State) (f : Who → Who) : State :=
  { s with
    clusters := s.clusters.map fun g =>
      { g with jobs := g.jobs.map (fun b => { b with who := f b.who }),
               engine := { g.engine with queue := g.engine.queue.map fun q => { q with who := f q.who } } }
    dies := s.dies.map fun d =>
      { d with puts := d.puts.map (fun p => { p with who := f p.who }), wins := d.wins.map fun w => { w with who := f w.who } }
    ports := s.ports.map fun p =>
      { p with jobs := p.jobs.map (fun b => { b with who := f b.who }), ended := p.ended.map fun b => { b with who := f b.who } } }
/-- The same for a core as it is bound. -/
def adopt (s : State) (c : CoreId) : State :=
  match (coreAt s c).team with
  | none => s
  | some b => renameWho s (movedWho b.lid b.team (coreAt s c).lcore c)

/-! ### Dispatch (R317) -/

/-- A gated cluster is woken when a team is bound to it (R59). -/
def ungate (s : State) (c : CoreId) : State := modCluster s (coreCluster c) fun g => { g with gated := false }
/-- The meter of a team, at its first bind (Table 18.2). -/
def openMeter (s : State) (lid : Word32) (team : Nat) : State :=
  modHub s fun h => if h.meters.any (fun m => m.lid == lid && m.team == team) then h
    else { h with meters := h.meters ++ [⟨lid, team, 0, 0, false, 0, 0, false⟩] }
/-- Binds cores to the team of a bind record, each as the logical core and team core of its SLOT entry, and starts them. Until then
whatever their windows had accepted completes; a core that is still bound gives its team up. A team that is paused for carats stays
paused until the next interval, wherever it is bound (R326). -/
def bindCores (s : State) (b : BitVec 1024) (pa : Nat) (kept : List Kept) (cs : List CoreId) : State :=
  let old := cs.filter fun c => (coreAt s c).team.isSome
  let slots := cs.map fun c => (c, (coreAt s c).slot)
  let s := if old.isEmpty then finishInto s cs else unbindCores s old
  let s := slots.foldl (fun s x => modCore s x.1 fun k => { k with slot := x.2 }) s
  let s := cs.foldl (fun s c =>
    let s := boundaryMove (ungate s c) c (brGrant b) (brL1k b)
    modCore s c fun k =>
      { entryCore b pa (slotLc k.slot).toNat (slotTci k.slot) s.ns k with paused := teamPaused s (brLid b) (brTeam b) }) s
  let s := ((cs.map (clusterOf s ·)).eraseDups).foldl (claimEngine (brLid b)) s
  let s := cs.foldl (fun s c => if brRestore b then restoreCore (brSave b) kept s c else startEntry (brEntry b) s c) s
  let s := cs.foldl adopt s
  setFloors (if cs.isEmpty then s else openMeter s (brLid b) (brTeam b))
/-- The bind record at a physical address. -/
def bindRecordAt (s : State) (pa : Nat) : BitVec 1024 := BitVec.ofNat 1024 (homeNat s pa 128)
/-- Every byte of [pa, pa + n) is backed. -/
def backedRange (s : State) (pa n : Nat) : Bool := backed s pa && backed s (pa + n - 1)
/-- The cores of a die that a bind record at `pa` binds (Table 21.8); none where `pa` lies below the bind area. -/
def dispatchCores (s : State) (d : DieId) (pa : Nat) : List CoreId :=
  (dieCores d).filter fun c => slotBound (coreAt s c).slot && (dieAt s d).bindbase.toNat + 128 * slotBidx (coreAt s c).slot == pa
/-- The dies of the partition of die `d` whose dispatch of a bind record is in progress. -/
def dispatchDies (s : State) (d : DieId) (pa : Nat) : List DieId :=
  (partDies s d).filter fun e => (dieAt s e).busy && (dieAt s e).dispatch.toNat == pa
def clearBusy (s : State) (ds : List DieId) : State := ds.foldl (fun s e => modDie s e fun k => { k with busy := false }) s
/-- A value written to DISPATCH is taken: the die is BUSY until the whole team is bound. A team's cores are bound together (R14, R317),
once every die on which it has cores has been given its bind record; a die none of whose cores it names has nothing to do (log 101). -/
def dispatch (s : State) (d : DieId) (pa : Nat) : State :=
  let s := touchSlice (recallLine s (pa / 256)) pa
  let s := modDie s d fun k => { k with dispatch := BitVec.ofNat 64 pa, busy := true }
  let b := bindRecordAt s pa
  let ds := dispatchDies s d pa
  let cs := ds.flatMap (dispatchCores s · pa)
  if (dispatchCores s d pa).isEmpty then clearBusy s [d]
  else if cs.length = brN b then bindCores (clearBusy s ds) b pa [] cs
  else s
/-- PA[51:7] of a value written to DISPATCH. -/
def bindPa (pa : Nat) : Nat := pa % 2 ^ 52 / 128 * 128
/-- The same for a value that no memory may back. -/
def dispatchAt (s : State) (d : DieId) (pa : Nat) : Out :=
  if backedRange s pa 128 then .next (dispatch s d pa) else .fault (.unbacked pa)
/-- DISPATCH_WRITE: DISPATCH is written with a bind record's PA (R317); while BUSY = 1 the write waits (Table 21.8). -/
def execDispatchWrite (d : DieId) (pa : Nat) (s : State) : Out :=
  if (dieAt s d).busy then .next (modDie s d fun k => { k with dispatchWaits := k.dispatchWaits ++ [bindPa pa] })
  else dispatchAt s d (bindPa pa)
/-- A die whose BUSY has cleared takes the oldest write that waits. -/
def takeDispatch (d : DieId) (s : State) : Out :=
  match (dieAt s d).busy, (dieAt s d).dispatchWaits with
  | false, pa :: rest => dispatchAt (modDie s d fun k => { k with dispatchWaits := rest }) d pa
  | _, _ => .next s

/-! ### Saving a team (R279, R280) -/

/-- A copy or matrix job of a team has not completed. -/
def engineJobsOf (s : State) (b : Binding) : Bool :=
  s.clusters.toList.any fun g => g.jobs.any (fun j => j.who.lid == b.lid && j.who.team == b.team) ||
    g.engine.queue.any fun q => q.who.lid == b.lid && q.who.team == b.team
/-- A core of a pre-empted team has stopped, and nothing of it is held at a frozen window. -/
def savable (s : State) (c : CoreId) : Bool :=
  let k := coreAt s c
  k.stopReq == .preempt && allStopped k && k.ctxs.toList.all (fun t => t.run != .dead) &&
    allCtxs.all fun j => !buffersHeld s c j
/-- Once every context has stopped and its engine jobs have completed, the team drains, its image is written, its cores are
unbound and it rejoins the pool (R313). -/
def saveTeam (s : State) (c : CoreId) : State :=
  match (coreAt s c).team with
  | none => s
  | some b =>
    let cs := teamCores s c
    if s.hub.stopped || cs.length != b.n || !(cs.all (savable s)) || engineJobsOf s b then s else
    let s := cs.foldl flushCore (finishInto s cs)
    let s := cs.foldl (saveCore b.save (coreAt s c).grant) s
    let kept := cs.flatMap fun c => allCtxs.map fun j =>
      let t := ctxAt s c j
      (⟨((coreAt s c).team.map (·.tci)).getD 0, j.val, t.ringsHeld, t.powerStop, t.powerDone⟩ : Kept)
    let lc0 := (coreAt s c).lcore.toNat - b.tci
    modHub (unbindCores s cs) fun h => { h with pool := h.pool ++ [⟨b.lid, b.team, s.ns, lc0, kept⟩] }
/-- TEAM_SAVE: The stopped team of c is saved and unbound (R279). -/
def execTeamSave (c : CoreId) (s : State) : Out := .next (saveTeam s c)

/-! ### Migration (R336, R337) -/

/-- The request is made only at 95 °C or more, for an unbound physical core of the same die that reads at most 85 °C; a stop that is
pending already goes first. -/
def askMigration (s : State) (c target : CoreId) : State :=
  if 190 ≤ (coreAt s c).temp && decide ((coreAt s target).temp ≤ 170) && (coreAt s c).team.isSome && (coreAt s target).team.isNone && coreDie c == coreDie target && (coreAt s c).stopReq == .none
  then modCore s c (requestStop (.migrate target)) else s
/-- MIGRATION_REQUEST: Migration of a hot core to a cooler one is requested (R336). -/
def execMigrationRequest (c target : CoreHeat) (s : State) : Out :=
  .next (askMigration (senseCore (senseCore s c) target) c.core target.core)
/-- A stopped context resumes issue. -/
def resumeCtx (t : Ctx) : Ctx :=
  match t.run with
  | .discarded => { t with run := .on }
  | .atHeader => { t with run := .on }
  | .atWait => { t with run := .on }
  | .off => t
  | .on => t
  | .dead => t
/-- What the new physical core keeps of its own: caches, timers, debug module and meters of time (Table 15.8 lists none). -/
def movedCore (old new : Core) (ns : Nat) : Core :=
  { old with
    l1 := [], l1Poison := [], icache := new.icache, fetchPoison := new.fetchPoison, stamp := max old.stamp new.stamp
    releases := new.releases, ienab := new.ienab, tcmp := new.tcmp, dbg := new.dbg, cycles := new.cycles
    traceCyc := new.traceCyc, temp := new.temp, hot := new.hot, stopReq := .none, frozen := false
    power := (List.range 40).foldl (fun m b => putTwo m b (if b < old.grant || 40 - old.l1k ≤ b then 0#2 else 3#2)) new.power
    lastUse := (List.range 40).foldl (fun m b => if b < old.grant || 40 - old.l1k ≤ b then sIns m b ns else m) new.lastUse
    ctxs := old.ctxs.map resumeCtx }
/-- Stores held at the frozen window of core `c` are delivered to the array of core `t` (R337, step 5). -/
def redirectItem (c t : CoreId) : SbItem → SbItem
  | .store (.array o off) bs rel sc counted e pin => .store (.array (if o = c then t else o) off) bs rel sc counted e pin
  | it => it
def redirectStores (s : State) (c t : CoreId) : State :=
  { s with cores := s.cores.map fun k =>
      if k.ctxs.toList.any fun x => x.sbuf.any (storesInto [c]) then
        { k with ctxs := k.ctxs.map fun x => { x with sbuf := x.sbuf.map (redirectItem c t) } }
      else k }
/-- Steps 1 to 6 of Table 18.4, in order; a failed supply stops them before any (R339). -/
def migrate (s : State) (c target : CoreId) : State :=
  let k := coreAt s c
  match k.team with
  | none => s
  | some b =>
    if s.hub.stopped || k.stopReq != .migrate target || !allStopped k || k.dbg.halt || (coreAt s target).team.isSome ||
      k.ctxs.toList.any (fun t => t.run == .dead) || allCtxs.any (buffersHeld s c) then s else
    let s := flushCore (settleAccesses s) c
    let slot := (coreAt s target).slot
    let s := leaveLines s target fun _ => true
    let s := { s with owner := s.owner.filter fun e => e.2 != c }
    let s := modCore (ungate s target) target fun n => movedCore (coreAt s c) n s.ns
    let g := clusterOf s target
    let s := modEngine s g fun e =>
      { e with holder := if e.holder == some c then some target else e.holder,
               waiting := if (coreAt s c).leaseSaved.isSome || e.waiting.contains c.val then setAdd (setDel e.waiting c.val) target.val
                          else e.waiting }
    let s := modCore s c fun k => { unbound k with slot := slot }
    renameWho (redirectStores s c target) (movedWho b.lid b.team k.lcore target)
/-- MIGRATE_CORE: The stopped team-core moves (R337). -/
def execMigrateCore (c target : CoreId) (s : State) : Out := .next (migrate s c target)

end Sys2Proof.Machine
end

