-- ==== Sys2Proof/Machine/Launch.lean ====
section
/-! DEFINITION. Launch queues and their front-ends (R305–R309), weight actions (R311), graphs (R315, R316), the scheduler
(R312, R313, R320, R321) and completion (R310, R318). -/

namespace Sys2Proof.Machine

/-! ### The launch record (Table 17.2) -/

def rf (r : BitVec 2048) (lo n : Nat) : Nat := (r.extractLsb' lo n).toNat
def rw (r : BitVec 2048) (lo : Nat) : Word := r.extractLsb' lo 64
def recDet (r : BitVec 2048) : Bool := r.getLsbD 1
def recPrio (r : BitVec 2048) : Nat := rf r 3 3
def recAction (r : BitVec 2048) : Nat := rf r 6 2
def recSig (r : BitVec 2048) : Nat := rf r 8 2
def recGraph (r : BitVec 2048) : Bool := r.getLsbD 11
def recShape (r : BitVec 2048) : Nat := rf r 12 2
def recNc (r : BitVec 2048) : Nat := rf r 14 6
def recSeed (r : BitVec 2048) : Word32 := r.extractLsb' 32 32
/-- G. -/
def recGrid (r : BitVec 2048) : Nat := rf r 64 24 + 1
def recSpad (r : BitVec 2048) : Nat := rf r 88 20
def recL1c (r : BitVec 2048) : Nat := rf r 108 6
def recL2f (r : BitVec 2048) : Nat := rf r 116 6
def recEntry (r : BitVec 2048) : Word := rw r 128
def recAsid (r : BitVec 2048) : BitVec 9 := r.extractLsb' 256 9
def recRoot (r : BitVec 2048) : BitVec 35 := r.extractLsb' 265 35
def recWfirst (r : BitVec 2048) : Nat := rf r 1028 6
def recWcount (r : BitVec 2048) : Nat := rf r 1034 7
def recCarcap (r : BitVec 2048) : Nat := rf r 1088 24
/-- The record launches a kernel: a graph record does not use ENTRY (R315). -/
def recKernel (r : BitVec 2048) : Bool := recEntry r != 0#64 && !recGraph r
/-- A reserved bit of the record is set. -/
def recReserved (r : BitVec 2048) : Bool :=
  rf r 22 10 != 0 || rf r 122 6 != 0 || rf r 300 20 != 0 || rf r 643 61 != 0 || rf r 908 52 != 0 || rf r 1041 47 != 0 ||
    rf r 1112 40 != 0 || rf r 1216 832 != 0
/-- NC is legal for SHAPE. -/
def ncLegal (r : BitVec 2048) : Bool :=
  match recShape r with
  | 0 => [1, 2, 4, 8].contains (recNc r)
  | 1 => decide (1 ≤ recNc r) && decide (recNc r ≤ 32)
  | 2 => recNc r == 0
  | _ => false
/-- Check 1 of R309, each field where it is used; ENTRY and TVEC are addresses of headers, on 8 bytes (R110; DEDUCED, log 113). -/
def recBad (r : BitVec 2048) : Bool :=
  !r.getLsbD 0 || recReserved r || recAction r == 3 || recSig r == 3 || decide (4 < rf r 640 3) ||
    (rw r 448).toNat % 32 != 0 || (rw r 512).toNat % 8 != 0 || (recSig r != 0 && (rw r 704).toNat % 8 != 0) ||
    (recKernel r && (!ncLegal r || recL1c r < 2 || 32 < recL1c r || recL2f r < 8 || 48 < recL2f r ||
      (rw r 832).toNat % 16 != 0 || (recEntry r).toNat % 8 != 0 || (rw r 320).toNat % 8 != 0)) ||
    (recAction r != 0 && ((rw r 960).toNat % 64 != 0 || recWcount r == 0 || 64 < recWfirst r + recWcount r))
/-- The code of a partition's logical shape in TSHAPE. -/
def shapeCode (ndies : Nat) : Nat := match ndies with | 1 => 1 | 2 => 2 | _ => 3
/-- The checks of R309 in order: 0, or the status of the first that fails. -/
def recStatus (ndies : Nat) (r : BitVec 2048) : Nat :=
  if recBad r then 4
  else if !recKernel r then 0
  else if rf r 20 2 != 0 && rf r 20 2 != shapeCode ndies then 3
  else if 311296 < recSpad r then 2
  else 0

/-! ### Queues (R305, R306, R308) -/

/-- A HEAD too far ahead, or a ring not aligned to its size where it would be read, stops the queue (R306). -/
def stopQueue (k : Queue) : Queue :=
  let ahead := (k.head - k.tail).toNat
  if k.en && (decide (2 ^ k.sz.toNat < ahead) ||
      (k.front == .idle && k.graph.isNone && ahead != 0 && k.base.toNat % (256 * 2 ^ k.sz.toNat) != 0))
  then { k with en := false } else k
/-- Polling starts again at once (R308); PLOCK's retries keep the same back-off (R316). -/
def restart (ns : Nat) (k : Queue) : Queue :=
  match k.front with
  | .wait lid _ _ => { k with front := .wait lid 0 ns }
  | .lock lid _ _ => { k with front := .lock lid 0 ns }
  | .idle => k
  | .action _ _ _ => k
  | .header _ => k
/-- QHEAD_WRITE: QHEAD is written (R305). -/
def execQheadWrite (p : PartId) (q : QueueId) (v : Word) (s : State) : Out :=
  .next (modQueue s p q fun k => stopQueue (restart s.ns { k with head := v.setWidth 32 }))
/-- SZ as stored: a write outside a range stores the reset value. -/
def sizeField (lo hi dflt v : Nat) : Nat := if lo ≤ v ∧ v ≤ hi then v else dflt
/-- QCTL as a write leaves it (Table 17.1). -/
def writeQctl (v : Word) (k : Queue) : Queue :=
  stopQueue { k with en := v.getLsbD 0, sz := BitVec.ofNat 4 (sizeField 4 12 4 (v.extractLsb' 1 4).toNat) }
/-- QCTL_WRITE: QCTL is written (R305). -/
def execQctlWrite (p : PartId) (q : QueueId) (v : Word) (s : State) : Out := .next (modQueue s p q (writeQctl v))

/-! ### A front-end's accesses -/

/-- The identity of a partition's front-ends and management core for a launch: the launch's address space in U mode (log 29). -/
def frontWho (s : State) (l : Launch) : Who :=
  ⟨coreId (256 * (baseDie s l.part).val), 0, false, recAsid l.rec_, recRoot l.rec_, l.lid, 2 ^ 24, 0#10⟩
/-- The acquire at .sys of the line that holds an address: a front-end stands in the package, in no cluster and on no die (R82). -/
def frontAcquire (s : State) (w : Who) (va : Word) : State :=
  match place s w .load va 1 1 with
  | .ok (.mem pa _) => engineAcquire s .package (pa / 256)
  | _ => s
/-- A front-end's read of `n` bytes, in pieces that lie within 64-byte groups; it has no store buffer. -/
def frontPieces (w : Who) : Nat → State → Word → Nat → Except BeatStop (State × List Byte)
  | 0, s, _, _ => .ok (s, [])
  | fuel + 1, s, va, n =>
    if n = 0 then .ok (s, []) else
    let k := min n (64 - va.toNat % 64)
    match place s w .load va k 1 with
    | .held => .error .held
    | .fault t => .error (.fault t va)
    | .ok p =>
      let r := engineRead (walked s w .load va) p k
      if r.2.2 then .error (.poison va) else
      match frontPieces w fuel r.1 (va + BitVec.ofNat 64 k) (n - k) with
      | .error e => .error e
      | .ok t => .ok (t.1, r.2.1 ++ t.2)
def frontRead (s : State) (w : Who) (va : Word) (n : Nat) : Except BeatStop (State × List Byte) := frontPieces w (pieces n) s va n
def frontLoad (s : State) (w : Who) (va : Word) (n : Nat) : Except BeatStop (State × List Byte) :=
  frontRead (frontAcquire (frontAcquire s w va) w (va + BitVec.ofNat 64 (n - 1))) w va n
/-- The status with which a launch completes. -/
def setStatus (s : State) (lid : Word32) (st : Nat) : State :=
  modLaunch s lid fun l => if l.status = 0 then { l with status := st } else l
/-- A launch is rejected: its END is the time of the rejection (R310, R343). -/
def rejectAt (ns st : Nat) (l : Launch) : Launch := if l.status = 0 then { l with status := st, endAt := some ns } else l
/-- The record at the front has been handed on or rejected: TAIL moves past it, or the next node is due. -/
def leaveFront (s : State) (p : PartId) (q : QueueId) : State :=
  modQueue s p q fun k => match k.graph with
    | none => stopQueue { k with front := .idle, tail := k.tail + 1 }
    | some g => if g.nn ≤ g.node then stopQueue { k with front := .idle, graph := none, tail := k.tail + 1 }
                else { k with front := .idle }
def setFront (s : State) (p : PartId) (q : QueueId) (f : FrontEnd) : State := modQueue s p q fun k => { k with front := f }
/-- A record has been read: its launch, and its status if a check fails. -/
def newLaunch (s : State) (p : PartId) (q : QueueId) (index : Word32) (r : BitVec 2048) (parent : Option Word32) (st : Nat) :
    State × Word32 :=
  let lid := s.hub.nextLid
  let l : Launch :=
    { lid := lid, part := p, queue := q, index := index, rec_ := r, parent := parent, ready := false, readyAt := 0, unbound := 0
      boundOut := [], left := 0, locked := false, teams := 0, exitOr := 0#64, energy := 0, status := st, ending := 0
      done := false, endAt := if st = 0 then none else some s.ns, begun := false, engines := [] }
  (modHub s fun h => { h with launches := h.launches ++ [l], nextLid := lid + 1 }, lid)
/-- The front-end takes up a record: rejected, or its first poll is due. -/
def takeUp (s : State) (p : PartId) (q : QueueId) (lid : Word32) (st : Nat) : State :=
  if st ≠ 0 then leaveFront s p q else setFront s p q (.wait lid 0 s.ns)
/-- A partition that boot has set up. -/
def partExists (s : State) (p : PartId) : Bool := decide (p.val < s.parts.length)
/-- The address of the record at TAIL. -/
def recordPa (k : Queue) : Nat := k.base.toNat + 256 * (k.tail.toNat % 2 ^ k.sz.toNat)
/-- The queue has a record to read. -/
def recordDue (s : State) (p : PartId) (q : QueueId) : Bool :=
  let k := stopQueue (queueAt s p q)
  partExists s p && k.en && k.front == .idle && k.graph.isNone && k.head != k.tail
/-- Reads the record at TAIL with an acquire at .sys and checks it. -/
def readRecord (s : State) (p : PartId) (q : QueueId) : State :=
  let k := queueAt s p q
  let pa := recordPa k
  let s := touchSlice (recallLine (engineAcquire s .package (pa / 256)) (pa / 256)) pa
  let r : BitVec 2048 := BitVec.ofNat 2048 (homeNat s pa 256)
  let st := recStatus (partAt s p).ndies r
  let n := newLaunch s p q k.tail r none st
  takeUp n.1 p q n.2 st
/-- QUEUE_RECORD_READ: The front-end reads the record at TAIL (R306, R309). -/
def execQueueRecordRead (p : PartId) (q : QueueId) (s : State) : Out :=
  if !recordDue s p q then .next (modQueue s p q stopQueue)
  else if backedRange s (recordPa (queueAt s p q)) 256 then .next (readRecord s p q)
  else .fault (.unbacked (recordPa (queueAt s p q)))

/-! ### Waiting, handing on -/

/-- WCMP (R308). -/
def waitHolds (code : Nat) (w v : Word) : Bool :=
  match code with
  | 0 => w == v
  | 1 => w != v
  | 2 => decide (v.toNat ≤ w.toNat)
  | 3 => decide (w.toNat < v.toNat)
  | _ => w &&& v != 0#64
/-- Nanoseconds between the j-th failed poll and the next. -/
def backOff (j : Nat) : Nat := min (256 * 2 ^ j) 1000000
/-- A record whose checks, wait and action are done: a graph's header is next, an action-only record is complete, any other
joins the scheduler (R312). -/
def handOn (s : State) (l : Launch) : State :=
  if recGraph l.rec_ then setFront s l.part l.queue (.header l.lid)
  else if !recKernel l.rec_ then leaveFront (setStatus s l.lid 1) l.part l.queue
  else leaveFront (modLaunch s l.lid fun l => { l with ready := true, readyAt := s.ns }) l.part l.queue
/-- The record at the front completes at once with a status. -/
def rejectFront (s : State) (l : Launch) (st : Nat) : State := leaveFront (modLaunch s l.lid (rejectAt s.ns st)) l.part l.queue
/-- The wait condition holds. -/
def passWait (s : State) (l : Launch) : State :=
  if recAction l.rec_ = 0 then handOn s l else setFront s l.part l.queue (.action l.lid 0 0)
/-- A front-end reads memory only while its queue is enabled (R306). -/
def reads (s : State) (p : PartId) (q : QueueId) : Bool := (queueAt s p q).en
/-- A poll of the record at the front (R308). -/
def pollFront (s : State) (p : PartId) (q : QueueId) : State :=
  match (queueAt s p q).front with
  | .wait lid j at_ =>
    if s.ns < at_ || !reads s p q then s else
    (match launchOf s lid with
     | none => s
     | some l =>
       if rw l.rec_ 512 = 0#64 then passWait s l else
       match frontLoad s (frontWho s l) (rw l.rec_ 512) 8 with
       | .error .held => setFront s p q (.wait lid (j + 1) (s.ns + backOff j))
       | .error _ => rejectFront s l 9
       | .ok (s, bs) =>
         if waitHolds (rf l.rec_ 640 3) (BitVec.ofNat 64 (leNat bs)) (rw l.rec_ 576) then passWait s l
         else setFront s p q (.wait lid (j + 1) (s.ns + backOff j)))
  | _ => s
/-- WAIT_POLL: The front-end polls a semaphore (R308). -/
def execWaitPoll (p : PartId) (q : QueueId) (s : State) : Out := .next (pollFront s p q)

/-! ### Weight actions (R311) -/

/-- A team is bound on a physical die. -/
def dieBusy (s : State) (d : DieId) : Bool := (dieCores d).any fun c => (coreAt s c).team.isSome
/-- A bank takes an image, which wakes it, and is marked. -/
def loadBank (s : State) (d : DieId) (b : Nat) (bs : List Byte) : State :=
  modDie s d fun k =>
    { k with weights := putBytes (sClear k.weights (b * 0x400000) 0x400000) (b * 0x400000) bs, marks := putBit k.marks b true
             weightPoison := k.weightPoison.filter (· / 0x10000 != b), wPower := putTwo k.wPower b 0#2
             lastUse := sIns k.lastUse (64 + b) s.ns }
def unloadBank (s : State) (d : DieId) (b : Nat) : State :=
  modDie s d fun k => { k with weights := sClear k.weights (b * 0x400000) 0x400000, marks := putBit k.marks b false }
/-- The next bank of the action at a front-end, once no team is bound on its die; no image is read while the queue is stopped (R306),
and nothing is done once the supply has failed (R339). -/
def actFront (s : State) (p : PartId) (q : QueueId) : State :=
  match (queueAt s p q).front with
  | .action lid d i =>
    if s.hub.stopped then s else
    (match launchOf s lid with
     | none => s
     | some l =>
       let r := l.rec_
       if (partAt s p).ndies ≤ d then handOn s l
       else if !r.getLsbD (1024 + d) then setFront s p q (.action lid (d + 1) 0)
       else
         let die := physDie s (baseDie s p) d
         let b := recWfirst r + i
         let next := if i + 1 < recWcount r then FrontEnd.action lid d (i + 1) else .action lid (d + 1) 0
         if dieBusy s die then s
         else if recAction r = 2 then setFront (unloadBank s die b) p q next
         else if !reads s p q then s
         else match frontRead s (frontWho s l) (rw r 960 + BitVec.ofNat 64 (0x400000 * i)) 0x400000 with
           | .error .held => s
           | .error _ => rejectFront s l 8
           | .ok (s, bs) => setFront (loadBank s die b bs) p q next)
  | _ => s
/-- WEIGHT_ACTION: The weight action of the record at the front (R311). -/
def execWeightAction (p : PartId) (q : QueueId) (s : State) : Out := .next (actFront s p q)

/-! ### Graphs (R315, R316) -/

def ghNodes (h : BitVec 512) : Nat := (h.extractLsb' 64 16).toNat
/-- A graph header whose fields cannot be used: NN outside its range, NODES not aligned (log 30). Its reserved fields are ignored
(R8). -/
def ghBad (h : BitVec 512) : Bool := ghNodes h == 0 || h.extractLsb' 128 8 != 0#8
/-- The nodes of a graph are next. -/
def openGraph (s : State) (p : PartId) (q : QueueId) (l : Launch) (h : BitVec 512) : State :=
  let s := modLaunch s l.lid fun l => { l with left := ghNodes h }
  modQueue s p q fun k => { k with front := .idle, graph := some ⟨l.lid, ghNodes h, h.extractLsb' 128 64, 0, none⟩ }
/-- A graph record's header is read; with LOCKEN = 1, PLOCK is next. -/
def readHeader (s : State) (p : PartId) (q : QueueId) (l : Launch) : State :=
  if !reads s p q then s else
  match frontLoad s (frontWho s l) (rw l.rec_ 1152) 64 with
  | .error .held => s
  | .error _ => rejectFront s l 4
  | .ok (s, bs) =>
    let h : BitVec 512 := BitVec.ofNat 512 (leNat bs)
    if ghBad h then rejectFront s l 4
    else if h.getLsbD 80 then setFront s p q (.lock l.lid 0 s.ns)
    else openGraph s p q l h
/-- PRIO and DET of a node are those of the graph record. -/
def nodeRecord (graph r : BitVec 2048) : BitVec 2048 := putBit (putField r 3 (graph.extractLsb' 3 3)) 1 (recDet graph)
/-- The previous node has had its first team bound, or has completed, its record and signal written. -/
def nodeDue (s : State) (g : Graph) : Bool :=
  match g.prev.bind (launchOf s) with
  | none => true
  | some l => l.begun || l.done
/-- The next node becomes a record of its own (log 30 for one that cannot be read). -/
def readNode (s : State) (p : PartId) (q : QueueId) (g : Graph) (l : Launch) : State :=
  let take (s : State) (r : BitVec 2048) (st : Nat) (lost : Bool) : State :=
    let n := newLaunch s p q l.index r (some l.lid) st
    let s := modLaunch n.1 n.2 fun x => { x with done := lost }
    let s := modLaunch s l.lid fun x => { x with left := x.left - 1 }
    let s := modQueue s p q fun k => { k with graph := some { g with node := g.node + 1, prev := some n.2 } }
    takeUp s p q n.2 st
  match frontLoad s (frontWho s l) (g.nodes + BitVec.ofNat 64 (256 * g.node)) 256 with
  | .error .held => s
  | .error _ => take s 0#2048 4 true
  | .ok (s, bs) =>
    let r := nodeRecord l.rec_ (BitVec.ofNat 2048 (leNat bs))
    take s r (if recGraph r then 4 else recStatus (partAt s p).ndies r) false
/-- The front-end of a graph record goes on: its header, or its next node. -/
def graphStep (s : State) (p : PartId) (q : QueueId) : State :=
  let k := queueAt s p q
  match k.front, k.graph with
  | .header lid, _ => (match launchOf s lid with
      | none => s
      | some l => readHeader s p q l)
  | .idle, some g => (match launchOf s g.lid with
      | none => s
      | some l => if g.node < g.nn && nodeDue s g && reads s p q then readNode s p q g l else s)
  | _, _ => s
/-- GRAPH_NODE_READ: The front-end reads the next graph node (R315). -/
def execGraphNodeRead (p : PartId) (q : QueueId) (s : State) : Out := .next (graphStep s p q)
/-- An AMOCAS at .sys, .far and .acq, of PLOCK from 0 to 1. -/
def tryLock (s : State) (p : PartId) (q : QueueId) : State :=
  match (queueAt s p q).front with
  | .lock lid j at_ =>
    if s.ns < at_ || !reads s p q then s else
    (match launchOf s lid with
     | none => s
     | some l =>
       let w := frontWho s l
       let va := rw l.rec_ 1152
       match place s w .atomic va 8 8 with
       | .held => setFront s p q (.lock lid (j + 1) (s.ns + backOff j))
       | .fault _ => rejectFront s l 4
       | .ok at8 =>
         let rd := engineRead (frontAcquire s w va) at8 8
         if leNat rd.2.1 != 0 then setFront rd.1 p q (.lock lid (j + 1) (s.ns + backOff j)) else
         let s := engineWrite rd.1 at8 (leBytes 8 1)
         match frontLoad s w va 64 with
         | .error _ => rejectFront (engineWrite s at8 (leBytes 8 0)) l 4
         | .ok (s, bs) =>
           let h : BitVec 512 := BitVec.ofNat 512 (leNat bs)
           if ghBad h then rejectFront (engineWrite s at8 (leBytes 8 0)) l 4
           else openGraph (modLaunch s lid fun l => { l with locked := true }) p q l h)
  | _ => s
/-- PLOCK_TAKE: The front-end takes PLOCK (R316). -/
def execPlockTake (p : PartId) (q : QueueId) (s : State) : Out := .next (tryLock s p q)

/-! ### Placements (R320, R321) -/

/-- Slots of a record's shape on a partition. -/
def slotCount (ndies : Nat) (r : BitVec 2048) : Nat :=
  match recShape r with
  | 0 => 256 * ndies / recNc r
  | 1 => ndies * (32 / recNc r)
  | _ => 1
/-- First logical core and size of a slot. -/
def slotCores (ndies : Nat) (r : BitVec 2048) (slot : Nat) : Nat × Nat :=
  match recShape r with
  | 0 => (slot * recNc r, recNc r)
  | 1 => let per := 32 / recNc r
         (slot / per * 256 + slot % per * (8 * recNc r), 8 * recNc r)
  | _ => (0, 256 * ndies)
/-- The slot of team t of a DET launch. -/
def detSlot (ndies : Nat) (r : BitVec 2048) (t : Nat) : Nat :=
  let n := min (recGrid r) (slotCount ndies r)
  let key (u : Nat) : Nat := (genG (recSeed r) (BitVec.ofNat 32 u)).toNat
  ((List.range n).filter fun u => key u < key (t % slotCount ndies r)).length
/-- A front-end's weight action holds a logical die of a partition (R311). -/
def dieHeld (s : State) (p : PartId) (d : Nat) : Bool :=
  (List.finRange 64).any fun q => match (queueAt s p q).front with
    | .action lid e _ => e == d && (match launchOf s lid with | some l => l.rec_.getLsbD (1024 + d) | none => false)
    | _ => false
/-- A placement is free: its cores belong to no bound team (R312). -/
def placementFree (s : State) (p : PartId) (lc0 n : Nat) : Bool :=
  (List.range n).all fun i => (presenter s (baseDie s p) (lc0 + i)).isNone
/-- Teams may be bound on the dies of a placement: they run, and no weight action holds them (R311). -/
def diesOpen (s : State) (p : PartId) (lc0 n : Nat) : Bool :=
  (List.range (n / 256 + 1)).all fun i =>
    let d := lc0 / 256 + i
    decide (lc0 + n ≤ 256 * d) || ((dieAt s (physDie s (baseDie s p) d)).powered && !dieHeld s p d)
/-- The physical core of a logical core's own number. -/
def ownCore (s : State) (p : PartId) (lc : Nat) : CoreId := coreId (256 * (physDie s (baseDie s p) (lc / 256)).val + lc % 256)
/-- The physical core that is to present a logical core (R336): its own, or, while that presents another number, the unbound
core found by following the numbers presented; distinct logical cores find distinct physical cores. -/
def hostCore (s : State) (p : PartId) : Nat → Nat → CoreId
  | 0, lc => ownCore s p lc
  | fuel + 1, lc =>
    let c := ownCore s p lc
    if (coreAt s c).team.isNone then c else hostCore s p fuel (coreAt s c).lcore.toNat

/-! ### The pool (R312) -/

/-- A team that waits for a placement. -/
structure Cand where
  key   : List Nat            -- order: class, readiness, queue, queue order, team
  lid   : Word32
  team  : Nat
  slot  : Option Nat          -- the only slot it may take (R321)
  saved : Option PoolTeam
  deriving DecidableEq, Repr
/-- Lexicographic order. -/
def keyLt : List Nat → List Nat → Bool
  | [], [] => false
  | [], _ :: _ => true
  | _ :: _, [] => false
  | a :: as, b :: bs => decide (a < b) || (a == b && keyLt as bs)
def candOf (l : Launch) (readyAt team : Nat) (slot : Option Nat) (saved : Option PoolTeam) : Cand :=
  ⟨[7 - recPrio l.rec_, readyAt, l.queue.val, l.lid.toNat, team], l.lid, team, slot, saved⟩
/-- Team t has been bound before. -/
def wasBound (l : Launch) (t : Nat) : Bool := decide (t < l.unbound) || l.boundOut.contains t
/-- The first team that shares a slot with team r and has never been bound. -/
def nextInSlot (l : Launch) (p : Nat) : Nat → Nat → Option Nat
  | 0, _ => none
  | fuel + 1, t => if recGrid l.rec_ ≤ t then none else if wasBound l t then nextInSlot l p fuel (t + p) else some t
/-- The teams of a ready launch that could be bound next. -/
def launchCands (ndies : Nat) (l : Launch) : List Cand :=
  if !l.ready || l.status != 0 || l.ending != 0 then []
  else if recDet l.rec_ then
    let p := slotCount ndies l.rec_
    (List.range (min (recGrid l.rec_) p)).filterMap fun r =>
      (nextInSlot l p (l.boundOut.length + 1) (r + (l.unbound - r + p - 1) / p * p)).map fun t =>
        candOf l l.readyAt t (some (detSlot ndies l.rec_ t)) none
  else if l.unbound < recGrid l.rec_ then [candOf l l.readyAt l.unbound none none]
  else []
/-- The slot of a record's shape whose first logical core is `lc0`. -/
def slotAt (ndies : Nat) (r : BitVec 2048) (lc0 : Nat) : Option Nat :=
  (List.range (slotCount ndies r)).find? fun k => (slotCores ndies r k).1 == lc0
/-- The pool of a partition, first team first. A saved team goes back to the logical cores it was saved from (R281). -/
def poolOf (s : State) (p : PartId) : List Cand :=
  let ndies := (partAt s p).ndies
  let mine := s.hub.launches.filter (·.part == p)
  let saved := s.hub.pool.filterMap fun e => (mine.find? (·.lid == e.lid)).bind fun l =>
    if l.ending != 0 then none
    else some (candOf l e.readyAt e.team (slotAt ndies l.rec_ e.lc0) (some e))
  let all := saved ++ mine.flatMap (launchCands ndies)
  let insert (c : Cand) (cs : List Cand) : List Cand := cs.takeWhile (fun x => keyLt x.key c.key) ++ [c] ++
    cs.dropWhile fun x => keyLt x.key c.key
  all.foldr insert []
/-- CARCAPs of the DET teams that are bound. -/
def reservedCarats (s : State) : Nat :=
  (s.hub.meters.map fun m => match launchOf s m.lid with
    | some l => if recDet l.rec_ && s.cores.toList.any (fun k => match k.team with
        | some b => b.lid == m.lid && b.team == m.team
        | none => false) then recCarcap l.rec_ else 0
    | none => 0).sum
/-- A DET team is bound only when its CARCAP can be dealt in full (R325). -/
def caratsFit (s : State) (l : Launch) : Bool :=
  !recDet l.rec_ || decide (recCarcap l.rec_ + reservedCarats s + s.hub.other ≤ s.hub.ceil.toNat)
/-- The slot is one that the team may take, and free for it. -/
def slotFree (s : State) (p : PartId) (c : Cand) (slot : Nat) : Bool :=
  match launchOf s c.lid with
  | none => false
  | some l =>
    let ndies := (partAt s p).ndies
    let pl := slotCores ndies l.rec_ slot
    decide (slot < slotCount ndies l.rec_) && (c.slot.isNone || c.slot == some slot) && placementFree s p pl.1 pl.2
/-- The team may be bound in the slot now: free, on dies that are open, with its carats to be had. -/
def slotFits (s : State) (p : PartId) (c : Cand) (slot : Nat) : Bool :=
  slotFree s p c slot && (match launchOf s c.lid with
    | none => false
    | some l =>
      let pl := slotCores (partAt s p).ndies l.rec_ slot
      caratsFit s l && diesOpen s p pl.1 pl.2)
/-- The slots that a team could take. -/
def slotsOf (s : State) (p : PartId) (c : Cand) : List Nat :=
  match c.slot, launchOf s c.lid with
  | some k, _ => [k]
  | none, none => []
  | none, some l => List.range (slotCount (partAt s p).ndies l.rec_)
/-- The first slot in which a team may be bound. -/
def freeSlot (s : State) (p : PartId) (c : Cand) : Option Nat := (slotsOf s p c).find? (slotFits s p c)
/-- A team has a free placement, whatever else still keeps it from being bound (R313). -/
def hasPlacement (s : State) (p : PartId) (c : Cand) : Bool := (slotsOf s p c).any (slotFree s p c)

/-! ### Binding a pooled team (R317, R319) -/

/-- G of R319. -/
def grantOf (r : BitVec 2048) : Nat := (recSpad r + 8191) / 8192
/-- The bind record of a team. -/
def bindRecord (l : Launch) (team lc0 n : Nat) (restoring : Bool) : BitVec 1024 :=
  let r := l.rec_
  let g := grantOf r
  BitVec.ofNat 1024 (packNat
    [(0, l.lid.toNat), (32, team), (64, lc0), (74, n - 1), (84, g), (90, min (recL1c r) (40 - g)), (96, rf r 114 2),
     (98, recL2f r), (104, restoring.toNat), (105, (recDet r).toNat), (106, (r.getLsbD 2 || recDet r).toNat),
     (128, (recEntry r).toNat), (192, (rw r 192).toNat), (256, rf r 256 9), (265, rf r 265 35), (320, (rw r 320).toNat),
     (384, ((rw r 384).toNat + team * (4096 + n * blockBytes g)) % 2 ^ 64), (448, recGrid r - 1)])
/-- The team is bound from now on. -/
def markBound (t : Nat) (l : Launch) : Launch :=
  let out := setAdd l.boundOut t
  let u := (List.range (out.length + 1)).foldl (fun u _ => if out.contains u then u + 1 else u) l.unbound
  { l with begun := true, unbound := u, boundOut := out.filter (u ≤ ·) }
/-- The bind record's place: record LC0 of the bind area of the placement's die (log 31). -/
def bindRecordPa (s : State) (p : PartId) (lc0 : Nat) : Nat :=
  (dieAt s (physDie s (baseDie s p) (lc0 / 256))).bindbase.toNat + 128 * lc0
/-- Writes the bind record and the slot-table entries, and dispatches the team on its dies. -/
def bindTeam (s : State) (p : PartId) (l : Launch) (c : Cand) (slot : Nat) : State :=
  let pl := slotCores (partAt s p).ndies l.rec_ slot
  let lc0 := pl.1
  let n := pl.2
  let pa := bindRecordPa s p lc0
  let b := bindRecord l c.team lc0 n c.saved.isSome
  let hosts := (List.range n).map fun i => (hostCore s p 1024 (lc0 + i), i)
  let s := homeWrite (recallLine s (pa / 256)) pa (bytesOf 128 b)
  let s := hosts.foldl (fun s h => modCore s h.1 fun k => { k with slot := slotWord (lc0 + h.2) h.2 lc0 }) s
  let s := ((hosts.map fun h => coreDie h.1).eraseDups).foldl (fun s d =>
    modDie s d fun k => { k with dispatch := BitVec.ofNat 64 pa }) s
  let s := modLaunch s l.lid (markBound c.team)
  let s := modHub s fun h => { h with pool := h.pool.filter fun e => !(e.lid == c.lid && e.team == c.team) }
  bindCores s b pa ((c.saved.map (·.kept)).getD []) (hosts.map (·.1))
/-- A launch of the partition whose teams have been bound has ended, and its completion record is still to be written: no team is
bound before it is (R340). -/
def recordOwed (s : State) (p : PartId) : Bool := s.hub.launches.any fun l => l.part == p && l.begun && l.status != 0 && !l.done
/-- The first team of the pool for which a placement is free. -/
def firstBindable (s : State) (p : PartId) : Option Cand :=
  if recordOwed s p then none else (poolOf s p).find? fun c => (freeSlot s p c).isSome
/-- A die of a team's placement is busy with another dispatch (Table 21.8). -/
def dispatchBusy (s : State) (p : PartId) (pl : Nat × Nat) : Bool :=
  (List.range pl.2).any fun i => (dieAt s (physDie s (baseDie s p) ((pl.1 + i) / 256))).busy
/-- The scheduler places that team in a slot that is free for it (R312, R320). -/
def scheduleInto (s : State) (p : PartId) (slot : Nat) : Out :=
  if !partExists s p then .next s else
  match firstBindable s p with
  | none => .next s
  | some c => (match launchOf s c.lid with
      | none => .next s
      | some l =>
        let pl := slotCores (partAt s p).ndies l.rec_ slot
        let pa := bindRecordPa s p pl.1
        if !slotFits s p c slot || dispatchBusy s p pl then .next s
        else if backedRange s pa 128 then .next (bindTeam s p l c slot)
        else .fault (.unbacked pa))
/-- SCHEDULE_BIND: The scheduler places the first bindable team (R312). -/
def execScheduleBind (p : PartId) (slot : Nat) (s : State) : Out := scheduleInto s p slot

/-! ### Pre-emption (R313) -/

/-- A team of the partition has been asked to stop and is not saved yet: the scheduler pre-empts one team at a time (R313). -/
def stopPending (s : State) (p : PartId) : Bool :=
  (partCores s (baseDie s p)).any fun c => (coreAt s c).team.isSome && ((coreAt s c).stopReq == .preempt ||
    (coreAt s c).dbg.queued.contains (.stop .preempt))
/-- The scheduler may pre-empt the team of a core for the first team of the pool. -/
def mayPreempt (s : State) (c : CoreId) : Bool :=
  let p := partIdOfDie s (coreDie c)
  let q := (partAt s p).quantum
  match (coreAt s c).team, poolOf s p with
  | some b, first :: rest => (match launchOf s b.lid with
      | none => false
      | some l =>
        let cls := 7 - recPrio l.rec_
        let held := decide (b.bindAt + q ≤ s.ns)
        let waited := (first :: rest).any fun x => x.key.head? == some cls && decide (x.key.getD 1 0 + q < s.ns)
        !hasPlacement s p first && !stopPending s p && held && (decide (first.key.getD 0 0 < cls) || (first.key.head? == some cls && waited)))
  | _, _ => false
/-- Every core of the team is asked to stop. -/
def preempt (s : State) (c : CoreId) : State := (teamCores s c).foldl (fun s x => modCore s x (requestStop .preempt)) s
/-- PREEMPTION_REQUEST: The scheduler pre-empts the team bound on c (R313). -/
def execPreemptionRequest (c : CoreId) (s : State) : Out := .next (if mayPreempt s c then preempt s c else s)

/-! ### The end of teams and launches (R310, R318) -/

/-- The energy of a team is added to its launch's, and its meter closes (R327): what the meters have reported, the bank charge of the
interval in progress (R335), and the draw since the last report, which is free. -/
def closeMeter (s : State) (lid : Word32) (team : Nat) : State :=
  let e := ((s.hub.meters.find? fun m => m.lid == lid && m.team == team).map fun m => m.total + m.bank / 10 ^ 9).getD 0 +
    Config.tailEnergy s.free
  modHub (modLaunch s lid fun l => { l with energy := l.energy + e }) fun h =>
    { h with meters := h.meters.filter fun m => !(m.lid == lid && m.team == team) }
/-- The finished team of a core is unbound and counted. -/
def finishTeam (s : State) (c : CoreId) : State :=
  match (coreAt s c).team with
  | none => s
  | some b =>
    let cs := teamCores s c
    if cs.length != b.n || !(cs.all fun x => (coreAt s x).finished) then s else
    let s := closeMeter (unbindCores s cs) b.lid b.team
    let s := modDie s (physDie s (coreDie c) 0) fun k => { k with mgmtDoor := true }
    modLaunch s b.lid fun l =>
      let l := { l with teams := l.teams + 1 }
      if l.teams = recGrid l.rec_ && l.status = 0 && l.ending = 0 then { l with status := 1 } else l
/-- TEAM_FINISH: The finished team of c is unbound (R318). -/
def execTeamFinish (c : CoreId) (s : State) : Out := .next (finishTeam s c)

/-- The bound cores of a launch. -/
def launchCores (s : State) (lid : Word32) : List CoreId :=
  allCores.filter fun c => match (coreAt s c).team with | some b => b.lid == lid | none => false
/-- Every context of a launch has stopped for Power Stop (R326). -/
def powerStopped (s : State) (lid : Word32) : Bool :=
  let cs := launchCores s lid
  cs.any (fun c => (coreAt s c).ctxs.toList.any (·.powerDone)) && cs.all fun c => allStopped (coreAt s c)
/-- Copy and matrix jobs of an ended launch go no further (log 32). -/
def dropJobs (s : State) (lid : Word32) : State :=
  { s with clusters := s.clusters.map fun g =>
      { g with jobs := g.jobs.filter (·.who.lid != lid),
               engine := { g.engine with queue := g.engine.queue.filter (·.who.lid != lid) } } }
/-- The bound teams of a launch all of whose cores have finished (R16). -/
def finishedTeams (s : State) (lid : Word32) : Nat :=
  let cs := launchCores s lid
  let bs := (cs.filterMap fun c => (coreAt s c).team.map (·.team)).eraseDups
  (bs.filter fun t => cs.all fun c => (coreAt s c).finished || (coreAt s c).team.all (·.team != t)).length
/-- The teams of an ended launch are unbound where they stand, and its pooled teams dropped; those that had finished count. -/
def clearTeams (s : State) (lid : Word32) : State :=
  let cs := launchCores s lid
  let bs := (cs.filterMap fun c => (coreAt s c).team.map (·.team)).eraseDups
  let n := finishedTeams s lid
  let s := modLaunch s lid fun l => { l with teams := l.teams + n }
  let s := unbindCores (dropJobs s lid) cs
  let s := bs.foldl (fun s t => closeMeter s lid t) s
  let old := (s.hub.meters.filter (·.lid == lid)).map (·.team)
  let s := old.foldl (fun s t => closeMeter s lid t) s
  modHub s fun h => { h with pool := h.pool.filter (·.lid != lid) }
/-- The nodes of a graph launch that have been read, in array order. -/
def nodesOf (s : State) (lid : Word32) : List Launch := s.hub.launches.filter (·.parent == some lid)
/-- The status of a graph all of whose nodes have completed (R315). -/
def graphStatus (ns : List Launch) : Nat := ((ns.find? (·.status != 1)).map (·.status)).getD 1
/-- A launch's status as it stands: an ended launch's teams are cleared first, a graph waits for its nodes. -/
def settleStatus (s : State) (l : Launch) : State :=
  if l.status ≠ 0 then s
  else if recGraph l.rec_ && l.parent.isNone then
    let busy := s.hub.queues.toList.any fun qs => qs.toList.any fun k =>
      (match k.graph with | some g => g.lid == l.lid | none => false) ||
      (match k.front with
       | .idle => false
       | .wait x _ _ => x == l.lid
       | .action x _ _ => x == l.lid
       | .header x => x == l.lid
       | .lock x _ _ => x == l.lid)
    if busy || l.left != 0 || !((nodesOf s l.lid).all (·.done)) then s
    else setStatus s l.lid (if l.ending ≠ 0 then l.ending else graphStatus (nodesOf s l.lid))
  else
    let s := if l.ending = 0 && powerStopped s l.lid then endLaunch s l.lid 6 else s
    let e := ((launchOf s l.lid).map (·.ending)).getD 0
    if e = 0 || (launchCores s l.lid).any (fun c => allCtxs.any (buffersHeld s c)) then s
    else setStatus (clearTeams s l.lid) l.lid e

/-- The completion record (Table 17.3). A graph has no teams of its own: its TEAMS, EXIT and ENERGY are 0, whatever its nodes counted
(the spec does not say; DESIGN CHOICE, log 111). -/
def completionRecord (s : State) (l : Launch) : List Byte :=
  leBytes 8 (packNat [(0, l.status), (8, l.teams % 2 ^ 24)]) ++ bytesOf 8 l.exitOr ++ leBytes 8 l.energy ++
    leBytes 8 (l.endAt.getD s.ns)
/-- Posts a record of kind 4 for a write that was refused. -/
def postCompletion (s : State) (l : Launch) (va : Word) (t : TrapInfo) : State :=
  postFault s (baseDie s l.part)
    { va := va, kind := 4#3, cause := recordCause t, asid := recAsid l.rec_, lc := 0#10, seq := l.index,
      unit := BitVec.ofNat 64 (l.part.val * 64 + l.queue.val), ref := 0 }
/-- A front-end's store-release at .sys, or the record of its refusal; none while a frozen window holds it. -/
def frontStore (s : State) (l : Launch) (kind : AccKind) (va : Word) (align : Nat) (f : List Byte → List Byte) (n : Nat) :
    Option (State × Bool) :=
  match place s (frontWho s l) kind va n align with
  | .held => none
  | .fault t => some (postCompletion s l va t, false)
  | .ok p =>
    let rd := engineRead s p n
    some (engineRelease rd.1 p (f rd.2.1), true)
/-- The completion signal, and the polls that it restarts (R308, R310). -/
def signalLaunch (s : State) (l : Launch) : Option State :=
  let go := recSig l.rec_ = 1 ∨ recSig l.rec_ = 2
  if ¬go || (l.rec_.getLsbD 10 && l.status != 1) then some s else
  let sval := rw l.rec_ 768
  let r := if recSig l.rec_ = 1 then frontStore s l .store (rw l.rec_ 704) 8 (fun _ => bytesOf 8 sval) 8
    else frontStore s l .atomic (rw l.rec_ 704) 8 (fun old => bytesOf 8 (BitVec.ofNat 64 (leNat old) + sval)) 8
  r.map fun r => if r.2 then (List.finRange 64).foldl (fun s q => modQueue s l.part q (restart s.ns)) r.1 else r.1
/-- A launch that has completed leaves the hub with its nodes; a node stays until its graph goes. -/
def forgetLaunch (s : State) (l : Launch) : State :=
  if l.parent.isSome then s else
  modHub s fun h => { h with launches := h.launches.filter fun x => x.lid != l.lid && x.parent != some l.lid }
/-- A graph's PLOCK is released after its completion (R316); a frozen window holds the store back (R337). -/
def releaseLock (s : State) (l : Launch) : State :=
  let off (s : State) : State := forgetLaunch (modLaunch s l.lid fun l => { l with locked := false }) l
  match place s (frontWho s l) .store (rw l.rec_ 1152) 8 8 with
  | .held => s
  | .fault _ => off s
  | .ok p => off (engineRelease s p (leBytes 8 0))
/-- A launch that has its status completes: the record, the signal, the windows its teams left open; then PLOCK. -/
def finishLaunch (s : State) (l : Launch) : State :=
  match frontStore s l .store (rw l.rec_ 448) 32 (fun _ => completionRecord s l) 32 with
  | none => s
  | some (s1, _) => (match signalLaunch s1 l with
      | none => s
      | some s2 =>
        let s4 := modLaunch (closeWindows s2 l.lid) l.lid fun l => { l with done := true }
        if l.locked then releaseLock s4 l else forgetLaunch s4 l)
/-- Settles a launch's status, and completes it. -/
def completeLaunch (s : State) (lid : Word32) : State :=
  match launchOf s lid with
  | none => s
  | some l =>
    let s := settleStatus s l
    (match launchOf s lid with
     | none => s
     | some l => if l.status = 0 then s else if !l.done then finishLaunch s l else if l.locked then releaseLock s l else s)
/-- LAUNCH_COMPLETION: The launch completes (R310). -/
def execLaunchCompletion (lid : Word32) (s : State) : Out := .next (completeLaunch s lid)

/-- The front-end that works on a record of a launch. -/
def frontOf (s : State) (l : Launch) : Option FrontEnd :=
  let f := (queueAt s l.part l.queue).front
  match f with
  | .idle => none
  | .wait x _ _ => if x = l.lid then some f else none
  | .action x _ _ => if x = l.lid then some f else none
  | .header x => if x = l.lid then some f else none
  | .lock x _ _ => if x = l.lid then some f else none
/-- Status of a record cancelled at the front: WEIGHT while its action waits for a die where a team is bound (Table 17.4). -/
def cancelStatus (s : State) (l : Launch) (f : FrontEnd) : Nat :=
  match f with
  | .action _ d _ => if l.rec_.getLsbD (1024 + d) && dieBusy s (physDie s (baseDie s l.part) d) then 8 else 7
  | _ => 7
/-- Cancels one launch: at the front-end, or with its teams (R310). -/
def cancelOne (s : State) (l : Launch) : State :=
  if l.status ≠ 0 || l.ending ≠ 0 then s else
  match frontOf s l with
  | some f => rejectFront s l (cancelStatus s l f)
  | none => endLaunch s l.lid 7
/-- Cancels a launch, and with a graph the nodes that have been read; the others are not read (log 33). -/
def cancelLaunch (s : State) (lid : Word32) : State :=
  match launchOf s lid with
  | none => s
  | some l =>
    let s := (nodesOf s lid).foldl cancelOne s
    let s := modQueue s l.part l.queue fun k => match k.graph with
      | some g => if g.lid = lid then { k with graph := none, front := .idle, tail := k.tail + 1 } else k
      | none => k
    cancelOne (modLaunch s lid fun x => { x with left := 0 }) { l with left := 0 }
/-- LAUNCH_CANCEL: The operating system cancels a launch (R310). -/
def execLaunchCancel (lid : Word32) (s : State) : Out := .next (cancelLaunch s lid)

end Sys2Proof.Machine
end

