-- ==== Sys2Proof/Machine/Faults.lean ====
section
/-! DEFINITION. The engine fault queue (R276, R277, Table 15.7) and its registers (Table 21.8). -/

namespace Sys2Proof.Machine

/-- Records that the ring holds and the die has not acted on. -/
def fqHeld (k : Die) : Nat := k.posted.length
/-- Address of the record of an index. -/
def fqPa (k : Die) (i : Nat) : Nat := k.fqbase.toNat + 32 * (i % 2 ^ k.fqsz.toNat)
/-- The 32 bytes of a record, RESP zero (Table 15.7). -/
def recordBytes (r : FaultRec) : List Byte :=
  leBytes 32 (packNat [(0, r.va.toNat), (64, r.kind.toNat), (68, r.cause.toNat), (72, r.asid.toNat), (81, r.lc.toNat),
    (96, r.seq.toNat), (128, r.unit.toNat)])
/-- The oldest waiting record of a die is written at HEAD, a store-release at .pkg, and the management core is rung. -/
def postRecord (s : State) (d : DieId) : Out :=
  let k := dieAt s d
  match k.faults with
  | [] => .next s
  | r :: rs =>
    if 2 ^ k.fqsz.toNat ≤ fqHeld k then .next s
    else
      let pa := fqPa k k.fqhead.toNat
      if !backedRange s pa 32 then .fault (.unbacked pa) else
      let s := engineRelease s (.mem pa false) (recordBytes r)
      .next (modDie s d fun k =>
        { k with faults := rs, posted := k.posted ++ [(k.fqhead.toNat, r, false)], fqhead := k.fqhead + 1, mgmtDoor := true })
/-- FAULT_RECORD_POST: The die posts its oldest waiting fault record (R276). -/
def execFaultRecordPost (d : DieId) (s : State) : Out := postRecord s d

/-- A record that only RESP = 2 answers (R277). -/
def endOnly (r : FaultRec) : Bool := decide (3 ≤ r.cause.toNat) || r.kind == 4#3
/-- The cluster that a record's UNIT names. -/
def unitCluster (s : State) (d : DieId) (r : FaultRec) : ClusterId :=
  clusterId ((physDie s d (r.unit.toNat / 32)).val * 32 + r.unit.toNat % 32)
/-- The service's answer reaches the job; a job, commit or write that has already ended, CAUSE 6 to 8 and kind 4, is only
acknowledged. -/
def serve (s : State) (d : DieId) (r : FaultRec) (resume : Bool) : State :=
  if r.cause = 3#4 ∧ r.kind = 0#3 then endUnreached s (unitCluster s d r) r.seq
  else if r.cause ≠ 1#4 ∧ r.cause ≠ 2#4 ∧ r.cause ≠ 4#4 then s else
  match r.kind.toNat with
  | 0 => serveCopy s (unitCluster s d r) r.seq resume
  | 1 => serveMatrix s (unitCluster s d r) r.seq resume
  | 2 => serveMerge s d r.ref resume
  | 3 => serveBus s (Fin.ofNat 2 r.unit.toNat) r.seq resume
  | _ => s
/-- Reads one record's RESP and acts on it; the answer says whether it has been acted on. -/
def readResp (s : State) (d : DieId) (e : Nat × FaultRec × Bool) : State × Bool :=
  if e.2.2 then (s, true) else
  let pa := fqPa (dieAt s d) e.1 + 24
  let s := touchSlice (recallLine (engineAcquire s .package (pa / 256)) (pa / 256)) pa
  let resp := homeNat s pa 1 % 4
  if resp = 2 || (resp = 1 && !endOnly e.2.1) then (serve s d e.2.1 (resp = 1), true) else (s, false)
/-- Acts on every posted record's RESP, in ring order, and says which have been acted on. -/
def readResps (d : DieId) : List (Nat × FaultRec × Bool) → State → State × List (Nat × FaultRec × Bool)
  | [], s => (s, [])
  | e :: es, s =>
    let r := readResp s d e
    let t := readResps d es r.1
    (t.1, (e.1, e.2.1, r.2) :: t.2)
/-- The service doorbell: the die acts on what has been written, and TAIL passes the records acted on, in order. -/
def ringService (s : State) (d : DieId) : State :=
  let r := readResps d (dieAt s d).posted s
  let left := r.2.dropWhile fun e => e.2.2
  modDie r.1 d fun k =>
    { k with posted := left, fqtail := k.fqtail + BitVec.ofNat 16 (r.2.length - left.length), fqdoor := false }
/-- FQDOOR_RING: The service doorbell rings (R277). -/
def execFqdoorRing (d : DieId) (s : State) : Out := .next (ringService s d)
/-- FQCTL as a write leaves it (Table 21.8). -/
def writeFqctl (v : Word) (k : Die) : Die :=
  { k with fqsz := BitVec.ofNat 5 (sizeField 4 16 8 (v.extractLsb' 0 5).toNat) }
/-- FQCTL_WRITE: FQCTL is written (R362). -/
def execFqctlWrite (d : DieId) (v : Word) (s : State) : Out := .next (modDie s d (writeFqctl v))

end Sys2Proof.Machine
end

