-- ==== Sys2Proof/Machine/Power.lean ====
section
/-! DEFINITION. The bank power map (R53–R58, R333–R335), time and bank accounting, carats (R323–R328), supply loss (R332),
checkpoints (R353), gating (R59) and a die's power (R336). -/

namespace Sys2Proof.Machine

/-! ### Phases and permitted states (R55, Table 2.8) -/

/-- The phase that governs a core's array. -/
def corePhase (k : Core) : BitVec 2 := if k.everBound then k.bwph else 0#2
/-- The bound cores of a die. -/
def boundCores (s : State) (d : DieId) : List CoreId := (dieCores d).filter fun c => (coreAt s c).team.isSome
/-- The largest PH among the bound cores of a die; QUIET without one. -/
def diePhase (s : State) (d : DieId) : BitVec 2 :=
  (boundCores s d).foldl (fun m c => if m < (coreAt s c).bwph then (coreAt s c).bwph else m) 0#2
/-- A row of Table 2.8, by phase. -/
def deepestBy (row : Nat × Nat × Nat × Nat) (ph : BitVec 2) : Nat :=
  match ph.toNat with
  | 0 => row.1
  | 1 => row.2.1
  | 2 => row.2.2.1
  | _ => row.2.2.2
/-- Table 2.8 for a bank of a core's array. -/
def arrayDeepest (k : Core) (b : Nat) : Nat :=
  if b < k.grant then deepestBy (2, 1, 1, 0) (corePhase k)
  else if 40 - k.l1k ≤ b then
    deepestBy (if k.l1.any fun l => l.bank == b && !l.bytes.isEmpty then (2, 1, 1, 0) else (3, 2, 1, 0)) (corePhase k)
  else 3
/-- The deepest state that Table 2.8 permits a bank; the banks of a gated cluster stay DARK (R59). -/
def deepest (s : State) : BankRef → Nat
  | .array c b => if (clusterAt s (coreCluster c)).gated then 3 else arrayDeepest (coreAt s c) b
  | .l2 d i => deepestBy (if i < (dieAt s d).l2Floor then (1, 1, 0, 0) else (3, 2, 1, 0)) (diePhase s d)
  | .weight d b => deepestBy (if (dieAt s d).marks.getLsbD b then (2, 1, 0, 0) else (3, 3, 3, 2)) (diePhase s d)
  | .rank d r => deepestBy (if (dieAt s d).rankuse.getLsbD r then (2, 1, 0, 0) else (3, 3, 2, 2)) (diePhase s d)
/-- The bank exists. -/
def bankExists : BankRef → Bool
  | .array _ b => decide (b < 40)
  | .l2 _ i => decide (i < 48)
  | .weight _ b => decide (b < 64)
  | .rank _ r => decide (r < 24)
/-- A bank's state (Table 2.6). -/
def bankState (s : State) : BankRef → BitVec 2
  | .array c b => two (coreAt s c).power b
  | .l2 d i => two (dieAt s d).l2Power i
  | .weight d b => two (dieAt s d).wPower b
  | .rank d r => two (dieAt s d).rankPower r
def putBank (s : State) (st : BitVec 2) : BankRef → State
  | .array c b => modCore s c fun k => { k with power := putTwo k.power b st }
  | .l2 d i => modDie s d fun k => { k with l2Power := putTwo k.l2Power i st }
  | .weight d b => modDie s d fun k => { k with wPower := putTwo k.wPower b st }
  | .rank d r => modDie s d fun k => { k with rankPower := putTwo k.rankPower r st }
/-- WSTIME of a bank's last access. -/
def bankUsed (s : State) : BankRef → Nat
  | .array c b => sGet 0 (coreAt s c).lastUse b
  | .l2 d i => sGet 0 (dieAt s d).lastUse i
  | .weight d b => sGet 0 (dieAt s d).lastUse (64 + b)
  | .rank d r => sGet 0 (dieAt s d).lastUse (128 + r)
/-- The clock of a bank in 100 MHz: a core held at 105 °C or more runs its array at 1.6 GHz, whatever step lock asks (R336, R339). -/
def bankClock (s : State) : BankRef → Nat
  | .array c _ => if (coreAt s c).hot then 16 else s.hub.clock
  | .l2 _ _ => s.hub.clock
  | .weight _ _ => s.hub.clock
  | .rank _ _ => s.hub.clock
/-- Idle time of a state in ns (R56); 64 core cycles at the tile clock for NAP. -/
def idleTime (clock : Nat) (st : BitVec 2) : Nat :=
  match st.toNat with
  | 0 => 0
  | 1 => (640 + clock - 1) / max 1 clock
  | 2 => 10000
  | _ => 100000

/-- A rank goes DARK: its contents are lost and read zero (R334). -/
def loseRank (s : State) (d : DieId) (r : Nat) : State :=
  let gone (pa : Nat) : Bool := isLpddr pa && paDie s pa == d && rankOf pa == r
  { s with mem := s.mem.filter fun e => !gone e.1, poison := s.poison.filter fun sec => !gone (64 * sec) }
/-- Before a slice goes DARK its last-releaser records are retired by the write-backs an acquire would force (R54). -/
def retireSlice (s : State) (d : DieId) (i : Nat) : State :=
  let here (line : Nat) : Bool := isLpddr (line * 256) && paDie s (line * 256) == d && (Config.homeSlice line).val == i
  let s := (s.lrr.filter fun e => here e.1).foldl (fun s e => writeBackAll s e.2.core (some e.2.stamp)) s
  { s with lrr := s.lrr.filter fun e => !here e.1 }
/-- What a bank loses in DARK. -/
def enterDark (s : State) : BankRef → State
  | .array _ _ => s
  | .l2 d i => retireSlice s d i
  | .weight _ _ => s
  | .rank d r => loseRank s d r
/-- The controller moves an idle bank into a deeper permitted state (R56). -/
def deepen (s : State) (b : BankRef) (st : BitVec 2) : State :=
  if bankExists b && bankState s b < st && decide (st.toNat ≤ deepest s b) &&
      decide (bankUsed s b + idleTime (bankClock s b) st ≤ s.ns) then
    putBank (if st = 3#2 then enterDark s b else s) st b
  else s
/-- BANK_IDLE_DEEPEN: An idle bank moves deeper (R56). -/
def execBankIdleDeepen (b : BankRef) (st : BitVec 2) (s : State) : Out := .next (deepen s b st)
/-- A bank may leave DARK: an array bank in neither role is always DARK (R55), and a gated cluster's banks until a team is bound (R59). -/
def mayWake (s : State) : BankRef → Bool
  | .array c b => (decide (b < (coreAt s c).grant) || decide (40 - (coreAt s c).l1k ≤ b)) && !(clusterAt s (coreCluster c)).gated
  | .l2 _ _ => true
  | .weight _ _ => true
  | .rank _ _ => true
/-- A bank finishes waking. -/
def wakeBank (s : State) (b : BankRef) (st : BitVec 2) : State :=
  if bankExists b && mayWake s b && st < bankState s b then putBank s st b else s
/-- A bank is deeper than Table 2.8 permits: its permitted depth has become shallower, and the controller wakes it in the background
(R55, R56). -/
def tooDeep (s : State) (b : BankRef) : Bool := bankExists b && decide (deepest s b < (bankState s b).toNat)
/-- BANK_WAKE: A bank finishes waking (R54). -/
def execBankWake (b : BankRef) (st : BitVec 2) (s : State) : Out := .next (wakeBank s b st)

/-! ### Time, and the charge of banks (R335, Table 18.3). Rates are in µW, so that µW × ns = fJ. -/

def rateBy (row : Nat × Nat × Nat × Nat) (st : BitVec 2) : Nat := deepestBy row st
def arrayRate : BitVec 2 → Nat := rateBy (12000, 5000, 1200, 50)
def sliceRate : BitVec 2 → Nat := rateBy (180000, 90000, 20000, 1000)
def weightRate : BitVec 2 → Nat := rateBy (60000, 30000, 8000, 500)
def rankRate : BitVec 2 → Nat := rateBy (900000, 500000, 150000, 10000)
/-- Charge and saving of `n` banks in a packed state map over `dt` ns. -/
def banksOver (rate : BitVec 2 → Nat) {w : Nat} (m : BitVec w) (n dt : Nat) : Nat × Nat :=
  (List.range n).foldl (fun t i => (t.1 + rate (two m i) * dt, t.2 + (rate 0#2 - rate (two m i)) * dt)) (0, 0)
/-- The bound core whose phase governs a die's resources: the lowest-numbered with the largest PH (log 36). -/
def governor (s : State) (d : DieId) : Option CoreId := (boundCores s d).find? fun c => (coreAt s c).bwph == diePhase s d
/-- A core belongs to the team of a meter. -/
def metered (k : Core) (m : Meter) : Bool := match k.team with | some b => b.lid == m.lid && b.team == m.team | none => false
/-- A team's meter after `dt` ns. -/
def charge (s : State) (dt : Nat) (m : Meter) : Meter :=
  let add (x y : Nat × Nat) : Nat × Nat := (x.1 + y.1, x.2 + y.2)
  let arrays := (allCores.filter fun c => metered (coreAt s c) m).foldl (fun t c =>
    add t (banksOver arrayRate (coreAt s c).power 40 dt)) (0, 0)
  let dies := ((List.finRange 4).filter fun d => (governor s d).any fun c => metered (coreAt s c) m).foldl (fun t d =>
    let k := dieAt s d
    add t (add (banksOver sliceRate k.l2Power 48 dt) (add (banksOver weightRate k.wPower 64 dt)
      (banksOver rankRate k.rankPower 24 dt)))) (0, 0)
  { m with bank := m.bank + arrays.1 + dies.1, saved := m.saved + arrays.2 + dies.2 }
/-- Time passes: WSTIME advances, and the banks are charged for it. -/
def passTime (s : State) (dt : Nat) : State :=
  { s with ns := s.ns + dt, hub := { s.hub with meters := s.hub.meters.map (charge s dt) } }
/-- Time passes up to an instant, if that is still to come. -/
def passUntil (s : State) (t : Nat) : State := if s.ns < t then passTime s (t - s.ns) else s
/-- TIMER_MATCH: WSTIME reaches TCMP (R268). -/
def execTimerMatch (c : CoreId) (s : State) : Out := .next (passUntil s (coreAt s c).tcmp.toNat)
/-- REFRESH_WINDOW: The next refresh window opens (R51). -/
def execRefreshWindow (s : State) : Out := .next (passUntil s ((s.ns / 500 + 1) * 500))

/-- The physical cores of a cluster. -/
def clusterCores (g : ClusterId) : List CoreId := (List.range 8).map fun i => coreId (8 * g.val + i)
/-- A core may lose its banks: it holds no team and no valid L1 line, and the phase that governs its array is QUIET, under which banks
may go DARK at all (R54, R55, R59; log 65). -/
def gateable (k : Core) : Bool := k.team.isNone && corePhase k == 0#2 && k.l1.all (·.bytes.isEmpty)
/-- A cluster without a team is gated (R59): what it has accepted completes, then its banks hold nothing and are DARK. -/
def gate (s : State) (g : ClusterId) : State :=
  let cs := clusterCores g
  if !(cs.all fun c => gateable (coreAt s c)) then s else
  let s := finishInto s cs
  if allCores.any fun c => (coreAt s c).ctxs.toList.any fun t => t.sbuf.any (storesInto cs) then s else
  let s := cs.foldl (fun s c => modCore s c fun k =>
    { k with power := BitVec.allOnes 80, array := [], arrayPoison := [], l1 := [], l1Poison := [] }) s
  modCluster s g fun k => { k with gated := true }
/-- CLUSTER_GATE: A cluster without a team is gated (R59). -/
def execClusterGate (g : ClusterId) (s : State) : Out := .next (gate s g)

/-! ### Carats (R323–R328) -/

/-- The ceiling of an interval (R324). -/
def ceilingOf (h : Hub) : Nat := min 1800 (h.lic.toNat + h.borr.toNat - h.lent.toNat)
/-- PCARAT as a write leaves it (Table 18.1). -/
def writePcarat (v : Word) (h : Hub) : Hub :=
  let minc := (v.extractLsb' 12 12).toNat
  let lic := (v.extractLsb' 0 12).toNat
  { h with lic := BitVec.ofNat 12 (if 1800 < lic then 1800 else max lic minc), minc := BitVec.ofNat 12 minc
           trade := v.getLsbD 60 }
/-- PCARAT_WRITE: PCARAT is written (R324). -/
def execPcaratWrite (v : Word) (s : State) : Out := .next (modHub s (writePcarat v))
/-- An OFFER of this interval; the package's own must leave MINC. -/
def offer (mine : Bool) (lender carats term : Nat) (h : Hub) : Hub :=
  if h.trade && decide (1 ≤ term) && decide (term ≤ 255) && (!mine || decide (h.minc.toNat + carats ≤ h.ceil.toNat)) then
    let num := (h.loans.filter fun l => l.lender == lender && l.from_ == h.interval).length
    { h with loans := h.loans ++ [⟨lender, 0, num, carats, term, if mine then 1#2 else 0#2, 0, false, h.interval⟩] }
  else h
/-- CARAT_OFFER: An OFFER symbol (R328). -/
def execCaratOffer (mine : Bool) (lender carats term : Nat) (s : State) : Out :=
  .next (modHub s (offer mine lender carats term))
/-- Rewrites the first loan that a condition names. -/
def firstLoan (p : Loan → Bool) (f : Loan → Loan) : List Loan → List Loan
  | [] => []
  | l :: ls => if p l then f l :: ls else l :: firstLoan p f ls
/-- The first ACCEPT of an offer, which names it by its number among its lender's offers of the interval, takes it; later ones find
it taken and are void. -/
def accept (mine : Bool) (offer : OfferName) (borrower : Nat) (h : Hub) : Hub :=
  if mine && !h.trade then h else
  let loans := firstLoan (fun l => l.lender == offer.lender && l.num == offer.num && l.phase == 0 && l.from_ == h.interval)
    (fun l => { l with phase := 1, borrower := borrower, mine := if mine then 2#2 else l.mine }) h.loans
  { h with loans := loans }
/-- CARAT_ACCEPT: An ACCEPT symbol (R328). -/
def execCaratAccept (mine : Bool) (offer : OfferName) (borrower : Nat) (s : State) : Out :=
  .next (modHub s (accept mine offer borrower))
/-- A CONFIRM, in the interval after the offer; the borrower counts on it only if it read it. -/
def confirm (readHere : Bool) (lender borrower : Nat) (h : Hub) : Hub :=
  let loans := firstLoan (fun l => l.lender == lender && l.borrower == borrower && l.phase == 1 && l.from_ + 1 == h.interval)
    (fun l => { l with phase := 2, read := readHere }) h.loans
  { h with loans := loans }
/-- CARAT_CONFIRM: A CONFIRM symbol (R328). -/
def execCaratConfirm (readHere : Bool) (lender borrower : Nat) (s : State) : Out :=
  .next (modHub s (confirm readHere lender borrower))
/-- Loans come into force in the second interval after their offer; one never confirmed lapses. -/
def startLoans (h : Hub) : Hub :=
  let due (l : Loan) : Bool := l.phase == 2 && l.from_ + 2 == h.interval
  let sum (p : Loan → Bool) : BitVec 12 := BitVec.ofNat 12 ((h.loans.filter p).map (·.carats)).sum
  { h with
    lent := h.lent + sum (fun l => due l && l.mine == 1#2)
    borr := h.borr + sum (fun l => due l && l.mine == 2#2 && l.read)
    loans := (h.loans.filter fun l => l.phase == 3 || due l || decide (h.interval ≤ l.from_ + 1)).map fun l =>
      if due l then { l with phase := 3 } else l }
/-- Loans whose term has ended return LENT and BORR to their previous values. -/
def endLoans (p : Loan → Bool) (h : Hub) : Hub :=
  let over_ (l : Loan) : Bool := p l && l.phase == 3 && decide (l.from_ + 2 + l.term ≤ h.interval)
  let sum (q : Loan → Bool) : BitVec 12 := BitVec.ofNat 12 ((h.loans.filter q).map (·.carats)).sum
  { h with
    lent := h.lent - sum (fun l => over_ l && l.mine == 1#2)
    borr := h.borr - sum (fun l => over_ l && l.mine == 2#2 && l.read)
    loans := h.loans.filter (!over_ ·) }
/-- LOAN_TERM_END: A loan ends (R328). -/
def execLoanTermEnd (lender borrower : Nat) (s : State) : Out :=
  .next (modHub s (endLoans fun l => l.lender == lender && l.borrower == borrower))

/-- A bound team as the arbiter deals to it: its meter, class, mode, bind time, cores, CARCAP and whole carats saved. -/
structure Dealt where
  meter  : Meter
  cls    : Nat
  det    : Bool
  bindAt : Nat
  cores  : Nat
  cap    : Nat
  saved  : Nat
/-- The bound teams in the order of R325: descending class, ascending bind time. -/
def dealOrder (s : State) : List Dealt :=
  let all := s.hub.meters.filterMap fun m =>
    (s.cores.toList.find? (metered · m)).bind fun k => k.team.map fun b =>
      let l := launchOf s m.lid
      (⟨m, (l.map fun l => recPrio l.rec_).getD 0, b.det, b.bindAt, b.n, (l.map fun l => recCarcap l.rec_).getD 0,
        m.saved / 10 ^ 12⟩ : Dealt)
  let before (x y : Dealt) : Bool := decide (y.cls < x.cls) || (x.cls == y.cls && decide (x.bindAt < y.bindAt))
  all.foldr (fun d ds => ds.takeWhile (before · d) ++ [d] ++ ds.dropWhile (before · d)) []
/-- What is reserved for the DET teams of a list. -/
def reservedFor (ds : List Dealt) : Nat := ((ds.filter (·.det)).map fun d => 1000 * d.cap).sum
/-- Step 2: CARCAP in full while the remainder lasts; what DET teams further on are owed stays reserved for them. -/
def dealCaps : List Dealt → Nat → List (Dealt × Nat) × Nat
  | [], r => ([], r)
  | d :: ds, r =>
    let a := if d.cap = 0 then 0 else min (1000 * d.cap) (if d.det then r else r - reservedFor ds)
    let t := dealCaps ds (r - a)
    ((d, a) :: t.1, t.2)
/-- Step 4: bank savings in whole carats, out of the step-3 shares. -/
def dealSavings : List (Dealt × Nat) → Nat → List (Dealt × Nat × Nat) × Nat
  | [], r => ([], r)
  | (d, a) :: ds, r =>
    let c := min (1000 * d.saved) (r / 1000 * 1000)
    let t := dealSavings ds (r - c)
    ((d, a, c) :: t.1, t.2)
/-- The allowances of an interval in µJ, by team (R325). -/
def deal (s : State) (other : Nat) : List (Dealt × Nat) :=
  let caps := dealCaps (dealOrder s) (1000 * s.hub.ceil.toNat - other)
  let open_ := ((caps.1.filter fun d => d.1.cap == 0).map fun d => d.1.cores).sum
  let sv := dealSavings caps.1 (if open_ = 0 then 0 else caps.2)
  sv.1.map fun d => (d.1, (if d.1.cap = 0 then sv.2 * d.1.cores / max 1 open_ else d.2.1) + d.2.2)
/-- A meter whose reading is charged to a team (R327): cores, engines and filler; banks are charged at the rates of Table 18.3. -/
def chargedUnit : MeterUnit → Bool
  | .core _ => true
  | .copy _ => true
  | .matrix _ => true
  | .merge _ => true
  | .port _ => true
  | .filler => true
  | .memory _ => false
/-- Energy that a reading charges to a team, in µJ. -/
def drawnBy (r : MeterReading) (lid : Word32) (team : Nat) : Nat :=
  ((r.meters.filter fun e => e.lid == lid.toNat && e.team == team && chargedUnit e.unit).map (·.energy)).sum
/-- The energy of the ended interval enters the meters. -/
def readMeters (r : MeterReading) (m : Meter) : Meter :=
  { m with total := m.total + drawnBy r m.lid m.team + m.bank / 10 ^ 9 }
/-- The instant at which the next interval begins has come (R323): slot 25,000,000 k of port A's segment, whose frames have 4,096
slots, or WSTIME 1,000,000 k where port A is attached to none. -/
def intervalDue (s : State) : Bool :=
  let k := s.hub.interval + 1
  if (portAt s 0).attached then decide (25000000 * k < 4096 * (portAt s 0).frame) else decide (1000000 * k ≤ s.ns)
/-- The teams that pause while the draw exceeds the ceiling, from those that could pause, in order, with what each draws. -/
def pausedTeams : List (Dealt × Nat) → Nat → Nat → List Dealt
  | [], _, _ => []
  | (d, e) :: ds, draw, ceil => if draw ≤ ceil then [] else d :: pausedTeams ds (draw - e) ceil
/-- Some teams pause until the next interval: their meters say so, and the cores they are bound on (R326). -/
def pauseTeams (s : State) (p : Meter → Bool) : State :=
  let out := s.hub.meters.filter p
  let s := modHub s fun h => { h with meters := h.meters.map fun m => if p m then { m with paused := true } else m }
  { s with cores := s.cores.map fun k => if out.any (metered k) then { k with paused := true } else k }
/-- Where the non-team draw alone breaks the ceiling, non-DET teams pause in ascending class until the metered draw holds (R326;
within a class the team bound last first: log 77). -/
def holdCeiling (s : State) (r : MeterReading) : State :=
  let ceil := 1000 * s.hub.ceil.toNat
  if r.other ≤ ceil then s else
  let all := (dealOrder s).map fun d => (d, drawnBy r d.meter.lid d.meter.team)
  let out := pausedTeams (all.filter fun d => !d.1.det).reverse (r.other + (all.map (·.2)).sum) ceil
  pauseTeams s fun m => out.any fun d => d.meter.lid == m.lid && d.meter.team == m.team
/-- An accounting interval begins (R323, R325): meters, loans, the ceiling, the dealing; carat pauses end. -/
def beginInterval (s : State) (r : MeterReading) : State :=
  let k := s.hub.interval + 1
  let s := modHub s fun h => startLoans (endLoans (fun _ => true)
    { h with interval := k, readings := r.meters, meters := h.meters.map (readMeters r) })
  let s := modHub s fun h => { h with ceil := BitVec.ofNat 12 (ceilingOf h), other := (r.other + 999) / 1000 }
  let al := deal s r.other
  let s := modHub s fun h => { h with meters := h.meters.map fun m =>
    let mine := al.find? fun d => d.1.meter.lid == m.lid && d.1.meter.team == m.team
    { m with allow := (mine.map (·.2)).getD 0, dealt := mine.isSome, bank := m.bank % 10 ^ 9, saved := 0, paused := false } }
  holdCeiling { s with cores := s.cores.map fun k => { k with paused := false } } r
/-- The next interval begins with a reading: time passes up to its instant where WSTIME gives it; a segment's slot clock is waited for. -/
def startInterval (s : State) (r : MeterReading) : State :=
  let s := if (portAt s 0).attached then s else passUntil s (1000000 * (s.hub.interval + 1))
  if intervalDue s then beginInterval s r else s
/-- INTERVAL_START: An accounting interval begins (R323, R325). -/
def execIntervalStart (m : MeterReading) (s : State) : Out := .next (startInterval s m)
/-- A meter has reached its allowance in this interval: its bank charge with what else the team has drawn, which is free. A team bound
since the interval was dealt has none yet, and nothing to reach (log 118). -/
def allowanceSpent (s : State) (m : Meter) : Bool :=
  m.dealt && decide (m.allow ≤ m.bank / 10 ^ 9 + Config.drawnSoFar s.free m.lid.toNat m.team)
/-- The meter of a core's team has reached its allowance. -/
def teamSpent (s : State) (c : CoreId) : Bool := s.hub.meters.any fun m => metered (coreAt s c) m && allowanceSpent s m
/-- A team has drawn its allowance (R326): it pauses until the next interval, or in a DET launch every context of it is due a Power
Stop. -/
def reachAllowance (s : State) (c : CoreId) : State :=
  match (coreAt s c).team with
  | none => s
  | some b =>
    if !b.det then pauseTeams s fun m => m.lid == b.lid && m.team == b.team else
    (teamCores s c).foldl (fun s x => modCore s x fun k =>
      { k with ctxs := k.ctxs.map fun t => if t.run = .off then t else { t with powerStop := true } }) s
/-- ALLOWANCE_REACHED: The team of c reaches its allowance (R326). -/
def execAllowanceReached (c : CoreId) (s : State) : Out := .next (if teamSpent s c then reachAllowance s c else s)

/-! ### Supply loss (R332) and a die's power (R336) -/

/-- The marker: WSTIME, the last good checkpoint, CLEAN (log 37). -/
def markerBytes (s : State) (clean : Bool) : List Byte :=
  leBytes 64 (packNat [(0, s.ns % 2 ^ 64), (64, s.hub.ckptGood.toNat), (96, clean.toNat)])
/-- Every dirty byte of some cores goes home. -/
def writeBackCores (s : State) (cs : List CoreId) : State :=
  cs.foldl (fun s c => if (coreAt s c).l1.isEmpty then s else writeBackAll s c none) s
def writeMarker (s : State) (clean : Bool) : State := homeWrite s Config.markerAddress (markerBytes s clean)
/-- The sequencer: everything stops, engines at a beat boundary, dirty lines go home if the hold-up lasts, and the marker is written. -/
def loseSupply (s : State) (clean : Bool) : State :=
  let s := modHub (flushHarts s) fun h => { h with stopped := true }
  writeMarker (if clean then writeBackCores s allCores else s) clean
/-- SUPPLY_LOSS_WARNING: The supply fails (R332). -/
def execSupplyLossWarning (clean : Bool) (s : State) : Out := .next (loseSupply s clean)
/-- The LPDDR of a die without supply loses its contents, which then read zero (R332). -/
def loseLpddr (s : State) (d : DieId) : State :=
  let gone (pa : Nat) : Bool := isLpddr pa && paDie s pa == d
  { s with mem := s.mem.filter fun e => !gone e.1, poison := s.poison.filter fun sec => !gone (64 * sec) }
/-- A core of a powered die reads 115 °C or more. -/
def dieHot (s : State) (d : DieId) : Bool := (dieAt s d).powered && (dieCores d).any fun c => decide (230 ≤ (coreAt s c).temp)
/-- A die at 115 °C powers off, which is a supply loss of that die (R332): its dirty lines go home, its LPDDR is lost, and the
marker is written. Each launch with a team bound there ends with SUPERVISOR. -/
def powerOff (s : State) (d : DieId) : State :=
  if !dieHot s d then s else
  let lids := ((boundCores s d).filterMap fun c => (coreAt s c).team.map (·.lid)).eraseDups
  let s := lids.foldl (fun s lid => endLaunch s lid 5) s
  writeMarker (loseLpddr (modDie (writeBackCores (flushHarts s) (dieCores d)) d fun k => { k with powered := false }) d) true
/-- DIE_POWER_OFF: 115 °C: the die powers off (R336). -/
def execDiePowerOff (d : DieId) (s : State) : Out := .next (powerOff s d)
/-- A powered-off die, with no team left on it, starts again: its cores as after reset, its weight store, its translations and its LPDDR
empty (log 34); WSTIME is the package's. -/
def startDie (s : State) (d : DieId) : State :=
  if (dieAt s d).powered || dieBusy s d then s else
  let s := (dieCores d).foldl (fun s c => modCore s c fun _ => .reset) (loseLpddr s d)
  modDie s d fun k => { k with powered := true, weights := [], marks := 0#64, weightPoison := [], tlb := [], busy := false, dispatchWaits := [] }
/-- DIE_STARTS_AGAIN: A powered-off die restarts (R51). -/
def execDieStartsAgain (d : DieId) (s : State) : Out := .next (startDie s d)

/-! ### The checkpoint (R353) -/

/-- GO: issue and engines pause, and every dirty byte goes home; ignored while one runs. -/
def startCkpt (s : State) : State :=
  if s.hub.ckptGo then s else
  writeBackCores (modHub (flushHarts s) fun h => { h with ckptGo := true, ckptSeq := h.ckptSeq + 1 }) allCores
/-- CKPT_GO: A checkpoint starts (R353). -/
def execCkptGo (s : State) : Out := .next (startCkpt s)
/-- Where the image holds an LPDDR address: 4 KiB units, unit u at port u mod 4. -/
def imagePa (pa : Nat) : Nat :=
  let u := pa / 4096
  cxlBase + u % 4 * 2 ^ 48 + (Config.persistBase (u % 4)).val + u / 4 * 4096 + pa % 4096
/-- A port has the persistent capacity that its quarter of the image takes (log 35). -/
def portHolds (s : State) (p : Nat) : Bool := decide ((Config.persistBase p).val + lpddrEnd / 4 ≤ s.cxl.get (Fin.ofNat 4 p))
/-- A physical address lies in the image, on a port that holds its quarter. -/
def inImage (s : State) (pa : Nat) : Bool :=
  decide (cxlBase ≤ pa) &&
    (let p := (pa - cxlBase) / 2 ^ 48
     let o := (pa - cxlBase) % 2 ^ 48
     decide (p < 4) && portHolds s p && decide ((Config.persistBase p).val ≤ o) && decide (o < (Config.persistBase p).val + lpddrEnd / 4))
/-- An LPDDR address is copied: its unit's port holds its quarter. -/
def copied (s : State) (pa : Nat) : Bool := isLpddr pa && portHolds s (pa / 4096 % 4)
/-- LPDDR copied into the image, with its poison (R284). -/
def copyImage (s : State) : State :=
  { s with
    mem := (s.mem.filter fun e => copied s e.1).foldl (fun m e => sPut 0#8 m (imagePa e.1) e.2) (s.mem.filter fun e => !inImage s e.1)
    poison := (s.poison.filter fun sec => copied s (64 * sec)).foldl (fun m sec => setAdd m (imagePa (64 * sec) / 64))
      (s.poison.filter fun sec => !inImage s (64 * sec)) }
/-- The checkpoint ends, with ERR where a CXL write has failed or a port lacks persistent capacity; an image that a write failed on is
left as it stood (log 35). -/
def endCkpt (s : State) (failed : Bool) : State :=
  if !s.hub.ckptGo || s.hub.stopped then s else
  let err := failed || (List.range 4).any fun p => !portHolds s p
  let s := if failed then s else copyImage s
  modHub s fun h => { h with ckptGo := false, ckptDone := true, ckptErr := h.ckptErr || err
                             ckptGood := if err then h.ckptGood else h.ckptSeq }
/-- CKPT_DONE: The checkpoint ends (R353). -/
def execCkptDone (err : Bool) (s : State) : Out := .next (endCkpt s err)

end Sys2Proof.Machine
end

