-- ==== Sys2Proof/Machine/Package.lean ====
section
/-! DEFINITION. Links (R349, R350), the host (R351, R352), the segment of a Kweman port (R220, R329, R355, R356), the hub and
per-die registers (R352, R362), counters and health (R360, R361) and the boot sequence (R354). -/

namespace Sys2Proof.Machine

/-! ### Links -/

/-- A link at full width with nothing replayed. -/
def fullLink : Link := ⟨64, 0⟩
def linkAt (k : Die) (l : Nat) : Link := sGet fullLink k.links l
def modLink (l : Nat) (f : Link → Link) (k : Die) : Die := { k with links := sPut fullLink k.links l (f (linkAt k l)) }
/-- Half the lanes, down to 16 (R350). -/
def shedLanes (k : Link) : Link := { k with width := if 16 < k.width then k.width / 2 else k.width }
/-- LINK_CRC_REPLAY: A flit is replayed (R349). -/
def execLinkCrcReplay (d : DieId) (l : Nat) (s : State) : Out :=
  .next (modDie s d (modLink l fun k => { k with replays := k.replays + 1 }))
/-- LANE_SHED: A link halves its width (R350). -/
def execLaneShed (d : DieId) (l : Nat) (s : State) : Out := .next (modDie s d (modLink l shedLanes))
/-- LANE_RESTORE: A link returns to full width (R350). -/
def execLaneRestore (d : DieId) (l : Nat) (s : State) : Out := .next (modDie s d (modLink l fun k => { k with width := 64 }))

/-! ### The host through BAR2 (R351) -/

/-- An access lies in BAR2. -/
def inBar2 (pa n : Nat) : Bool := decide (pa + n ≤ lpddrEnd)
/-- The home recalls every line of [pa, pa + n) from its owner. -/
def recallRange (s : State) (pa n : Nat) : State :=
  (List.range ((pa % 256 + n + 255) / 256)).foldl (fun s i => touchSlice (recallLine s (pa / 256 + i)) (pa + 256 * i)) s
/-- A host access that has brought every line home sees these bytes. -/
def hostSees (s : State) (pa n : Nat) : State :=
  let s := recallRange s pa n
  modHub s fun h => { h with hostData := homeBytes s pa n }
/-- The host writes homes; an atomic of PCIe or CXL, which names the bytes it expects, returns the old bytes and writes only where they
are the expected ones (R316). -/
def hostWrite (s : State) (pa : Nat) (h : HostData) : State :=
  if !inBar2 pa h.bytes.length then s else
  match h.expect with
  | none => homeWrite (recallRange s pa h.bytes.length) pa h.bytes
  | some old =>
    let s := hostSees s pa h.bytes.length
    if s.hub.hostData = old then homeWrite s pa h.bytes else s
/-- HOST_WRITE: The host writes through BAR2 (R351). -/
def execHostWrite (pa : Nat) (data : HostData) (s : State) : Out := .next (hostWrite s pa data)

/-! ### A segment: calibration, wheel, frames (R220, R329, R355, R356) -/

/-- Writers a calibration allows: the largest L with m(c) ≥ 8 for every c in [0, L]. -/
def calLimit (cal : Calibration) : Nat := min 31 ((cal.margins.takeWhile (80 ≤ ·)).length - 1)
/-- LAG in windows. -/
def calLag (cal : Calibration) : Nat := (cal.trip + 522) / 523
/-- The calibrated fields of a KCFG: L, LAG and TURN. -/
def calKcfg (cal : Calibration) (v : Word) : Word :=
  putField (putField (putField v 24 (BitVec.ofNat 5 (calLimit cal))) 32 (BitVec.ofNat 12 (calLag cal)))
    48 (BitVec.ofNat 12 cal.roundSlots)
/-- A core's KCFG names a port. -/
def namesPort (p : PortId) (k : Core) : Bool := k.kcfg.getLsbD 0 && kPort k.kcfg == p
/-- A port is calibrated: its limits, the wheel at zero, and L, LAG and TURN in the KCFGs that name it, whose circles begin anew with
every member present (R220, R355). -/
def calibrate (s : State) (p : PortId) (cal : Calibration) : State :=
  if cal.margins.takeWhile (80 ≤ ·) = [] then modPort s p fun q => { q with margins := cal.margins, recal := none } else
  let s := modPort s p fun q =>
    { q with attached := true, leader := cal.leader, limit := calLimit cal, lag := calLag cal, turn := cal.roundSlots
             wheel := 0#64, wheelNext := none, margins := cal.margins, recal := none
             circles := q.circles.map fun c => { Circle.reset with lost := c.lost }, members := [] }
  let s := { s with cores := s.cores.map fun k => if namesPort p k then { k with kcfg := calKcfg cal k.kcfg } else k }
  (s.cores.toList.filter (namesPort p)).foldl (fun s k => reconfigure s k.kcfg) s
/-- No bus job of the port is outstanding, nor is an ended one still followed on its circle (R237, R356). -/
def portIdle (s : State) (p : PortId) : Bool := (portAt s p).jobs.isEmpty
/-- Calibrates once no bus job is outstanding; until then the request stands (R356). -/
def calibrateWhenIdle (s : State) (p : PortId) (cal : Calibration) : State :=
  if portIdle s p then calibrate s p cal else modPort s p fun q => { q with recal := some cal }
/-- SEGMENT_CALIBRATION: The segment is calibrated (R355). -/
def execSegmentCalibration (p : PortId) (cal : Calibration) (s : State) : Out := .next (calibrateWhenIdle s p cal)
/-- RECALIBRATION_REQUEST: The supervisor requests recalibration (R356). -/
def execRecalibrationRequest (p : PortId) (cal : Calibration) (s : State) : Out :=
  .next (if (portAt s p).attached then calibrateWhenIdle s p cal else s)
/-- A request that waited is carried out. -/
def pendingCalibration (s : State) (p : PortId) : State :=
  match (portAt s p).recal with
  | none => s
  | some cal => if portIdle s p then calibrate s p cal else s
/-- A wheel written at the segment leader and sent reaches the port, which takes it at a later frame. -/
def sendWheel (v : Word) (q : Port) : Port := if q.attached then { q with wheelNext := some v } else q
/-- KWHEEL_WRITE: The wheel register is written (R356). -/
def execKwheelWrite (p : PortId) (v : Word) (s : State) : Out := .next (modPort s p (sendWheel v))
/-- KWHEEL written through the hub: the leader's package only (R356). -/
def writeKwheel (v : Word) (q : Port) : Port := if q.leader then sendWheel v q else q

/-- The jobs outstanding on a circle, which step lock looks at. -/
def lockedJobs (s : State) (p : PortId) (ci : CircleId) : List BusJob :=
  (portAt s p).jobs.filter fun b => !b.ghost && kCircle b.cfg == ci
/-- The beacon of a frame of a circle: the lowest PHASE among the cores that submitted its jobs. -/
def beaconOf (s : State) (p : PortId) (ci : CircleId) : Option Word32 :=
  (lockedJobs s p ci).foldl (fun best b =>
    let ph := (coreAt s b.who.core).phase
    match best with
    | none => some ph
    | some m => if ph.toNat < m.toNat then some ph else some m) none
/-- A DET launch runs: the clock is locked for the whole of it (R321). -/
def clockLocked (s : State) : Bool :=
  s.hub.launches.any (fun l => l.begun && !l.done && recDet l.rec_) || s.cores.toList.any fun k => k.team.any (·.det)
/-- The tile clock after a frame boundary, in 100 MHz (R329); `room` says whether the ceiling allows a step up. -/
def stepLock (room : Bool) (clock : Nat) (own lowest : Word32) : Nat :=
  if lowest.toNat + 2 ≤ own.toNat then max 16 (clock - 1)
  else if own.toNat ≤ lowest.toNat && room then min 20 (clock + 1)
  else clock
/-- The tile clock at a frame boundary, from the beacons of the frame before, which belonged to one circle. -/
def lockClock (s : State) (p : PortId) (lowest : Option Word32) : State :=
  match (portAt s p).beacon, lowest with
  | some own, some low =>
    if clockLocked s then s
    else modHub s fun h => { h with clock := stepLock (Config.ceilingAllows s.free) h.clock own low }
  | _, _ => s
/-- Frame f with f mod 16 = 0 takes a wheel that has been sent (R356). -/
def takeWheel (q : Port) : Port :=
  if q.frame % 16 = 0 then { q with wheel := q.wheelNext.getD q.wheel, wheelNext := none } else q
/-- A frame begins for a circle that is configured (R220). -/
def countFrame (c : Circle) : Circle := if c.cfg.isSome then { c with frames := c.frames + 1 } else c
/-- A frame begins: a new wheel is taken, step lock acts on the frame before, and the port lights the beacon of the frame's circle. -/
def beginFrame (s : State) (p : PortId) (lowest : Option Word32) : State :=
  if !(portAt s p).attached || s.hub.stopped then s else
  let s := modPort (lockClock s p lowest) p takeWheel
  let ci := frameOf (portAt s p).wheel (portAt s p).frame
  let b := beaconOf s p ci
  modCircle (modPort s p fun q => { q with frame := q.frame + 1, lowest := lowest, beacon := b }) p ci countFrame
/-- FRAME_START: A frame begins; the lowest beacon read (R220, R329). -/
def execFrameStart (p : PortId) (lowest : Option Word32) (s : State) : Out := .next (beginFrame s p lowest)

/-! ### Per-die registers (Table 21.8) -/

/-- TRCTL as a write leaves it. -/
def writeTrctl (v : Word) (k : Die) : Die :=
  { k with tren := v.getLsbD 0, trsz := BitVec.ofNat 5 (sizeField 12 30 16 (v.extractLsb' 1 5).toNat)
           trdrop := v.extractLsb' 32 32 }
/-- TRCTL_WRITE: TRCTL is written (R362). -/
def execTrctlWrite (d : DieId) (v : Word) (s : State) : Out := .next (modDie s d (writeTrctl v))
/-- Nanoseconds between two stores of the counter grid (R360) and between two recomputations of EOLH (R361). -/
def gridPeriod : Nat := 100000
def eolPeriod : Nat := 1000000000
/-- CGCTL as a write leaves it; HEAD is read-only. EN starts the 100 µs of the first store. -/
def writeCgctl (ns : Nat) (v : Word) (k : Die) : Die :=
  { k with cgen := v.getLsbD 0, cgsz := BitVec.ofNat 5 (sizeField 16 30 20 (v.extractLsb' 1 5).toNat)
           cgNext := if v.getLsbD 0 && !k.cgen then ns + gridPeriod else k.cgNext }
/-- CGCTL_WRITE: CGCTL is written (R362). -/
def execCgctlWrite (d : DieId) (v : Word) (s : State) : Out := .next (modDie s d (writeCgctl s.ns v))
/-- Bits [51:lo] of a value. -/
def paField (lo : Nat) (v : Word) : Word := (v.extractLsb' 0 52).setWidth 64 &&& ~~~(BitVec.ofNat 64 (2 ^ lo - 1))
/-- A write to a plain per-die register: its RW fields are stored. -/
def writeDieReg (ns off : Nat) (v : Word) (k : Die) : Die :=
  if off = 0x00 then { k with rankuse := v.setWidth 24 }
  else if off = 0x10 then { k with bindbase := paField 8 v }
  else if off = 0x18 then { k with fqbase := paField 5 v }
  else if off = 0x20 then writeFqctl v k
  else if off = 0x30 then writeTrctl v k
  else if off = 0x38 then { k with trbase := paField 12 v }
  else if off = 0x48 then { k with trtail := v.setWidth 32 }
  else if 0x50 ≤ off ∧ off < 0x70 then { k with trsel := vPut k.trsel (Fin.ofNat 4 ((off - 0x50) / 8)) v }
  else if off = 0x70 then { k with cgbase := paField 12 v }
  else if off = 0x78 then writeCgctl ns v k
  else k
/-- A write in a die's region. -/
def writeDie (s : State) (d : DieId) (off : Nat) (v : Word) : Out :=
  if off = 0x08 then execDispatchWrite d v.toNat s
  else if off = 0x28 then .next (if v.getLsbD 0 then ringService s d else s)
  else if 0x800 ≤ off ∧ off < 0x1000 then
    .next (modCore s (coreId (256 * d.val + (off - 0x800) / 8)) fun k => { k with slot := slotMask v })
  else .next (modDie s d (writeDieReg s.ns off v))
/-- A die's plain registers as a read shows them; the offsets between them, and above, read zero. -/
def readDieReg (off : Nat) (k : Die) : Word :=
  let w (fs : List (Nat × Nat)) : Word := BitVec.ofNat 64 (packNat fs)
  if off = 0x00 then k.rankuse.setWidth 64
  else if off = 0x08 then w [(0, k.busy.toNat), (0, k.dispatch.toNat / 128 * 128)]
  else if off = 0x10 then k.bindbase
  else if off = 0x18 then k.fqbase
  else if off = 0x20 then w [(0, k.fqsz.toNat), (8, k.fqhead.toNat), (24, k.fqtail.toNat)]
  else if off = 0x28 then w [(0, k.fqdoor.toNat)]
  else if off = 0x30 then w [(0, k.tren.toNat), (1, k.trsz.toNat), (32, k.trdrop.toNat)]
  else if off = 0x38 then k.trbase
  else if off = 0x40 then k.trhead.setWidth 64
  else if off = 0x48 then k.trtail.setWidth 64
  else if 0x50 ≤ off ∧ off < 0x70 then k.trsel.get (Fin.ofNat 4 ((off - 0x50) / 8))
  else if off = 0x70 then k.cgbase
  else if off = 0x78 then w [(0, k.cgen.toNat), (1, k.cgsz.toNat), (32, k.cghead.toNat)]
  else if off = 0x80 then k.eolh.setWidth 64
  else if 0x100 ≤ off ∧ off < 0x138 then
    let e := k.errs.get (Fin.ofNat 7 ((off - 0x100) / 8))
    w [(0, e.1.toNat), (32, e.2.toNat)]
  else 0#64
/-- A read in a die's region. -/
def readDie (s : State) (d : DieId) (off : Nat) : Word :=
  if 0x800 ≤ off ∧ off < 0x1000 then (coreAt s (coreId (256 * d.val + (off - 0x800) / 8))).slot
  else readDieReg off (dieAt s d)

/-! ### The debug module (Table 21.5) -/

/-- DBGCTL written: ATTACH and CTX are stored, HALT halts or resumes, STEP issues one instruction of a halted core. -/
def writeDbgctl (v : Word) (k : Core) : Core :=
  let k := { k with dbg := { k.dbg with attach := v.getLsbD 2, ctx := v.extractLsb' 4 4 } }
  let k := if v.getLsbD 0 then { k with dbg := { k.dbg with halt := true } } else resumeCore k
  if v.getLsbD 1 && decide ((v.extractLsb' 4 4).toNat < 11) then stepCtx (Fin.ofNat 11 (v.extractLsb' 4 4).toNat) k else k
/-- A write to one of a debug module's registers. -/
def writeDebug (off : Nat) (v : Word) (k : Core) : Core :=
  if off = 0 then writeDbgctl v k
  else if off < 0x28 then
    { k with dbg := { k.dbg with bp := vPut k.dbg.bp (Fin.ofNat 4 ((off - 0x08) / 8)) (v &&& ~~~2#64) } }
  else if off < 0x48 then { k with dbg := { k.dbg with wp := vPut k.dbg.wp (Fin.ofNat 4 ((off - 0x28) / 8)) v } }
  else if off < 0x68 then
    { k with dbg := { k.dbg with wpa := vPut k.dbg.wpa (Fin.ofNat 4 ((off - 0x48) / 8)) (v &&& 0x1FF#64) } }
  else k
/-- A debug module's register as a read shows it: HALTED once the core issues nothing, LC while a team is bound (0 otherwise, log 101);
the offsets past the last one read zero. -/
def readDebug (off : Nat) (k : Core) : Word :=
  if off = 0 then
    BitVec.ofNat 64 (packNat [(0, k.dbg.halt.toNat), (1, k.dbg.step.toNat), (2, k.dbg.attach.toNat),
      (3, (k.dbg.halt && !k.dbg.step).toNat), (4, k.dbg.ctx.toNat), (8, if k.team.isSome then k.lcore.toNat else 0)])
  else if off < 0x28 then k.dbg.bp.get (Fin.ofNat 4 ((off - 0x08) / 8))
  else if off < 0x48 then k.dbg.wp.get (Fin.ofNat 4 ((off - 0x28) / 8))
  else if off < 0x68 then k.dbg.wpa.get (Fin.ofNat 4 ((off - 0x48) / 8))
  else 0#64

/-! ### BAR0 (R352) -/

/-- CKPT written (Table 21.3): DONE and ERR are cleared by ones, GO starts a checkpoint. -/
def writeCkpt (s : State) (v : Word) : State :=
  let s := modHub s fun h => { h with ckptDone := h.ckptDone && !v.getLsbD 1, ckptErr := h.ckptErr && !v.getLsbD 2 }
  if v.getLsbD 0 then startCkpt s else s
/-- A register of a queue written (Table 17.1); QTAIL is read-only. -/
def writeQueueReg (ns r : Nat) (v : Word) (k : Queue) : Queue :=
  match r with
  | 0 => writeQctl v k
  | 1 => { k with base := paField 8 v }
  | 2 => stopQueue (restart ns { k with head := v.setWidth 32 })
  | _ => k
/-- A 64-bit write at a BAR0 offset (Table 21.2); offsets that name no register ignore it. -/
def writeHub (s : State) (off : Nat) (v : Word) : Out :=
  if off % 8 ≠ 0 then .next s
  else if off = 0x0 then .next (modHub s (writePcarat v))
  else if off = 0x8 then .next (writeCkpt s v)
  else if off = 0x10 ∨ off = 0x18 then .next (modPort s (Fin.ofNat 2 ((off - 0x10) / 8)) (writeKwheel v))
  else if 0x100000 ≤ off ∧ off < 0x102000 then
    let o := off - 0x100000
    .next (modQueue s (Fin.ofNat 4 (o / 0x800)) (Fin.ofNat 64 (o % 0x800 / 32)) (writeQueueReg s.ns (o % 32 / 8) v))
  else if 0x200000 ≤ off ∧ off < 0x202000 then .next (modCore s (coreId ((off - 0x200000) / 8)) ringDoor)
  else if 0x1000000 ≤ off ∧ off < 0x1040000 then
    .next (modCore s (coreId ((off - 0x1000000) / 0x100)) (writeDebug ((off - 0x1000000) % 0x100) v))
  else if 0x2000000 ≤ off ∧ off < 0x2400000 then
    writeDie s (dieId ((off - 0x2000000) / 0x100000)) ((off - 0x2000000) % 0x100000) v
  else .next s
/-- CKPT as a read shows it (Table 21.3). -/
def readCkpt (h : Hub) : Word :=
  BitVec.ofNat 64 (packNat [(0, h.ckptGo.toNat), (1, h.ckptDone.toNat), (2, h.ckptErr.toNat), (32, h.ckptSeq.toNat)])
/-- PCARAT as a read shows it (Table 18.1). -/
def readPcarat (h : Hub) : Word :=
  BitVec.ofNat 64 (packNat [(0, h.lic.toNat), (12, h.minc.toNat), (24, h.ceil.toNat), (36, h.lent.toNat), (48, h.borr.toNat),
    (60, h.trade.toNat)])
/-- KWHEEL as a read shows it: the wheel in force, and at the leader's package what has been written there (R356). -/
def readKwheel (q : Port) : Word := if q.leader then q.wheelNext.getD q.wheel else q.wheel
/-- A register of a queue as a read shows it (Table 17.1). -/
def readQueueReg (r : Nat) (k : Queue) : Word :=
  match r with
  | 0 => BitVec.ofNat 64 (packNat [(0, k.en.toNat), (1, k.sz.toNat)])
  | 1 => k.base
  | 2 => k.head.setWidth 64
  | _ => k.tail.setWidth 64
/-- A 64-bit read at a BAR0 offset (Table 21.2); offsets that name no register, and the write-only doorbells, read zero. -/
def hubRead (s : State) (off : Nat) : Word :=
  if off % 8 ≠ 0 then 0#64
  else if off = 0x0 then readPcarat s.hub
  else if off = 0x8 then readCkpt s.hub
  else if off = 0x10 ∨ off = 0x18 then readKwheel (portAt s (Fin.ofNat 2 ((off - 0x10) / 8)))
  else if 0x100000 ≤ off ∧ off < 0x102000 then
    let o := off - 0x100000
    readQueueReg (o % 32 / 8) (queueAt s (Fin.ofNat 4 (o / 0x800)) (Fin.ofNat 64 (o % 0x800 / 32)))
  else if 0x1000000 ≤ off ∧ off < 0x1040000 then
    readDebug ((off - 0x1000000) % 0x100) (coreAt s (coreId ((off - 0x1000000) / 0x100)))
  else if 0x2000000 ≤ off ∧ off < 0x2400000 then
    readDie s (dieId ((off - 0x2000000) / 0x100000)) ((off - 0x2000000) % 0x100000)
  else 0#64
/-- The hub's window, at which BAR0 is reached too (R352). -/
def hubBase : Nat := 0xF000000000000
/-- The host reads homes, or a register at its hub address, 64 bits at a time. -/
def hostRead (s : State) (pa n : Nat) : State :=
  if hubBase ≤ pa ∧ pa < hubBase + 0x4000000 then
    modHub s fun h => { h with hostData := bytesOf 8 (hubRead s (pa - hubBase)) }
  else if inBar2 pa n then hostSees s pa n
  else s
/-- HOST_READ: The host reads through BAR2, or a register (R351, R352). -/
def execHostRead (pa n : Nat) (s : State) : Out := .next (hostRead s pa n)
/-- HUB_REGISTER_WRITE: A register at a BAR0 offset is written (R352, R362). -/
def execHubRegisterWrite (off : Nat) (v : Word) (s : State) : Out := writeHub s off v

/-! ### Counters and health (R360, R361) -/

/-- The counters of a link and channel: flits sent and cycles stalled. -/
def gridEntry (k : Die) (e : Nat) : Word32 × Word32 := sGet (0#32, 0#32) k.grid e
/-- The counters reach what they hold now; they wrap. What the links have carried since is free (log 15). -/
def countGrid (s : State) (d : DieId) : State :=
  modDie s d fun k => { k with grid := (List.range Config.gridEntries).foldl (fun m e =>
    let x := gridEntry k e
    sPut (0#32, 0#32) m e (x.1 + Config.flits d.val e s.free, x.2 + Config.stalls d.val e s.free)) k.grid }
/-- One snapshot of the counter grid: header and entries. -/
def gridBytes (s : State) (d : DieId) : List Byte :=
  leBytes 8 s.ns ++ leBytes 8 d.val ++ (List.range Config.gridEntries).flatMap fun e =>
    bytesOf 4 (gridEntry (dieAt s d) e).1 ++ bytesOf 4 (gridEntry (dieAt s d) e).2
/-- The next store of a die's grid is due. -/
def gridDue (s : State) (d : DieId) : Bool := (dieAt s d).cgen && decide ((dieAt s d).cgNext ≤ s.ns)
/-- A die stores its grid at HEAD in the counter ring; stores wrap and overwrite. -/
def storeGrid (s : State) (d : DieId) : Out :=
  let s := countGrid s d
  let k := dieAt s d
  let base := k.cgbase.toNat
  let size := 2 ^ k.cgsz.toNat
  if !k.cgen then .next s
  else if !backedRange s base size then .fault (.unbacked base)
  else
    let bs := gridBytes s d
    let s := (bs.zip (List.range bs.length)).foldl (fun s b => homeWrite s (base + (k.cghead.toNat + b.2) % size) [b.1]) s
    .next (modDie s d fun k => { k with cghead := k.cghead + BitVec.ofNat 32 bs.length, cgNext := k.cgNext + gridPeriod })
/-- COUNTER_GRID_STORE: The next store of the counter grid, at its time (R360). -/
def execCounterGridStore (d : DieId) (s : State) : Out :=
  if (dieAt s d).cgen then storeGrid (passUntil s (dieAt s d).cgNext) d else .next s
/-- EOLH as a recomputation leaves it; under the conditions of the last one it never increases. -/
def newEolh (s : State) (d : DieId) : Word32 :=
  let old := (dieAt s d).eolh
  let v := Config.hoursToEnd d.val s.free
  if Config.conditionsHold d.val s.free && decide (old.toNat < v.toNat) then old else v
/-- A recomputation of EOLH. -/
def updateEolh (s : State) (d : DieId) : State :=
  modDie s d fun k => { k with eolh := newEolh s d, eolNext := k.eolNext + eolPeriod }
/-- EOLH_UPDATE: EOLH is recomputed, at its second (R361). -/
def execEolhUpdate (d : DieId) (s : State) : Out := .next (updateEolh (passUntil s (dieAt s d).eolNext) d)

/-! ### Bring-up (R354) -/

/-- The partitions of a division (R304): the first of their logical dies, and how many. -/
def shapesOf : Division → List (DieId × Nat)
  | .s1024 => [(0, 4)]
  | .s512x2 => [(0, 2), (2, 2)]
  | .s512s256x2 => [(0, 2), (2, 1), (3, 1)]
  | .s256x4 => [(0, 1), (1, 1), (2, 1), (3, 1)]
/-- Q in ns: 1 ms where the firmware gives none in [50 µs, 100 ms]. -/
def quantumOf (us : Nat) : Nat := 1000 * (if 50 ≤ us ∧ us ≤ 100000 then us else 1000)
/-- The partitions that `n` usable dies allow, each with its quantum. -/
def partsOf (n : Nat) (quantaUs : List Nat) (v : Division) : List Part :=
  ((shapesOf v).filter fun x => decide (x.1.val + x.2 ≤ n)).zipIdx.map fun x => ⟨x.1.1, x.1.2, quantumOf (quantaUs.getD x.2 0)⟩
/-- The channels of a die that step 2 has found to fail. -/
def channelsOf (plan : BootPlan) (d : DieId) : BitVec 12 := plan.badChannels.extractLsb' (12 * d.val) 12
/-- A die that step 2 marks defective, itself or for one of its channels: without all twelve it cannot stand behind a logical die, and
it is mapped around whole (R3; log 100). -/
def dieDefective (plan : BootPlan) (d : DieId) : Bool := plan.badDies.getLsbD d.val || channelsOf plan d != 0#12
/-- The usable physical dies, in ascending number, are the package's logical dies; the defective ones come after them (R3). -/
def mapDies (plan : BootPlan) : List DieId :=
  let ds := List.finRange 4
  ds.filter (!dieDefective plan ·) ++ ds.filter (dieDefective plan ·)
/-- Usable dies. -/
def usableDies (plan : BootPlan) : Nat := ((List.finRange 4).filter (!dieDefective plan ·)).length
/-- Step 2: what fails is marked, and mapped around. -/
def markDefects (plan : BootPlan) (s : State) : State :=
  { s with
    dieMap := Vector.ofFn fun i => (mapDies plan).getD i.val 0
    dies := Vector.ofFn fun d => { dieAt s d with defective := dieDefective plan d, badChannels := channelsOf plan d } }
/-- Step 4: the partitions, their quanta, and the fault queues. -/
def divide (plan : BootPlan) (s : State) : State :=
  { s with
    parts := partsOf (usableDies plan) plan.quantaUs plan.division
    dies := Vector.ofFn fun d => match plan.faultQueues[d.val]? with
      | some (base, sz) => { dieAt s d with fqbase := paField 5 base, fqsz := BitVec.ofNat 5 (sizeField 4 16 8 sz) }
      | none => dieAt s d }
/-- The package leaves reset: every register at its reset value; homes keep their bytes, but LPDDR loses them if the supply
failed (R332; log 38). -/
def leaveReset (s : State) : State :=
  { State.reset with
    mem := if s.hub.stopped then s.mem.filter fun e => !isLpddr e.1 else s.mem
    poison := s.poison, agenda := s.agenda, turn := s.turn, bg := s.bg, free := s.free }
/-- Step 6: the ports the firmware can calibrate. -/
def bootPorts (s : State) (cals : List (Option Calibration)) : State :=
  (List.finRange 2).foldl (fun s p => match (cals[p.val]?).join with
    | some cal => calibrate s p cal
    | none => s) s
/-- The boot sequence of Table 21.4, each step after the one before has succeeded. -/
def bootPackage (s : State) (plan : BootPlan) : State :=
  let s := leaveReset s
  if !(plan.slot0Ok || plan.slot1Ok) then { s with held := true }
  else if usableDies plan = 0 then { markDefects plan s with boot := 1 }
  else
    let s := divide plan (markDefects plan s)
    let s := { s with cxl := Vector.ofFn fun i => min (plan.cxlBytes.getD i.val 0) (2 ^ 48) }
    { bootPorts s plan.calibrations with boot := 6 }
/-- PACKAGE_RESET: The package leaves reset and boots (R354). -/
def execPackageReset (plan : BootPlan) (s : State) : Out := .next (bootPackage s plan)

end Sys2Proof.Machine
end

