-- ==== Sys2Proof/Machine/Issue.lean ====
section
/-! DEFINITION. The issue of one context (R21, R114–R118, R263, R285): which context issues, the boundary before its
instruction, fetch and decode. -/

namespace Sys2Proof.Machine

/-! ### Which context issues (R21) -/

/-- Tile cores issue at all: not in reset, nor stopped by a failed supply (R332) or a checkpoint (R353). -/
def packageRuns (s : State) : Bool := !s.held && !s.hub.stopped && !s.hub.ckptGo
/-- A context is able to issue: live, and its core neither halted (but for a step of this context, R358), paused for carats
(R326) nor frozen by a migration (R337); a ctx0 that gave up its lease has it again (R192). -/
def mayIssue (k : Core) (j : CtxId) : Bool :=
  (coreCtx k j).run == .on && (!k.dbg.halt || (k.dbg.step && k.dbg.ctx.toNat == j.val)) && !k.paused && !k.frozen &&
    !(j.val == 0 && k.leaseSaved.isSome)
/-- The context of a core that issues next: round robin, one past the context that issued last. -/
def nextCtx (k : Core) : Option CtxId :=
  ((List.range 11).map fun i => Fin.ofNat 11 (k.last.val + 1 + i)).find? (mayIssue k)
/-- The cores with their numbers, from `next` on. -/
def coreRing (s : State) : List (Core × Nat) :=
  let l := s.cores.toList.zipIdx
  l.drop s.next.val ++ l.take s.next.val
/-- A core of a powered die, with a team bound, has a context to issue. -/
def coreReady (s : State) (e : Core × Nat) : Bool :=
  e.1.team.isSome && (nextCtx e.1).isSome && (dieAt s (coreDie (coreId e.2))).powered
/-- The context that issues in this step: the first core from `next` on that has one (log 2). -/
def nextIssue (s : State) : Option (CoreId × CtxId) :=
  if !packageRuns s then none else
  match (coreRing s).find? (coreReady s) with
  | none => none
  | some e => (nextCtx e.1).map fun j => (coreId e.2, j)
/-- The issuing context is the one named, and the turn moves on. -/
def issuing (s : State) (c : CoreId) (j : CtxId) : State :=
  { modCore s c fun k => { k with last := j } with cur := (c, j), next := coreId (c.val + 1) }

/-! ### The boundary (Table 15.3) -/

/-- Power Stop is due (R326): taken in U mode, held in S mode until the context's ERET. -/
def duePower (s : State) (c : CoreId) (j : CtxId) : State :=
  let s' := if stPriv (ctxAt s c j) then s
    else raiseTrap s c j ⟨.powerStop, 0#8, false, false, energyOf s (coreAt s c)⟩
  modCtx s' c j fun t => { t with powerDone := true }
/-- The fault of the header consumed with the word at PC, the first of its block (R111): raised before any body word issues, also when
that word is annulled. -/
def consumedFault (s : State) (c : CoreId) (j : CtxId) : Option TrapInfo :=
  let q := (ctxAt s c j).pc
  if q.addr == q.hdr + 8#64 then headerFault s c j q.hdr else none
/-- What happens at the boundary before the instruction at PC instead of its issue, in the order of Table 15.3. In a debugger's step of
a halted core stops, interrupts and a Power Stop wait until HALT clears (R358). An instruction that is not complete goes on first. An
annulled word that cannot be fetched counts STL 0: the spec does not say (DESIGN CHOICE, log 9). -/
def boundary (s : State) (c : CoreId) (j : CtxId) : Option State :=
  let t := ctxAt s c j
  if midway t then none
  else if stopDue s c j && !stNd t then some (stopDiscardable s c j) else
  match t.trapDue with
  | some a => some (raiseTrap s c j ⟨.trap, t.trapLit.setWidth 8, false, false, a⟩)
  | none =>
    if j.val = 0 && interruptible s c then some (takeInterrupt s c)
    else if t.powerStop && !t.powerDone && !(coreAt s c).dbg.halt then some (duePower s c j)
    else if t.nul.getLsbD 0 then
      (match consumedFault s c j with
       | some f => some (raiseTrap s c j f)
       | none => some (annul s c j (((peek s c j t.pc.addr).map fStl).getD 0#3)))
    else if t.bpPass then none
    else ((List.finRange 4).find? fun i => bpNames (coreAt s c) t.pc.addr i).map fun i => breakAt s c j i

/-! ### Fetch and decode -/

/-- What a boundary leads to. -/
inductive Todo
  /-- The step is this state. -/
  | act (s : State)
  /-- The instruction at PC issues. -/
  | run (s : State) (i : Instr)

/-- A fault of the word at PC. -/
def faultAt (s : State) (c : CoreId) (j : CtxId) (t : TrapInfo) : Todo := .act (raiseTrap s c j t)
/-- A Block Format fault at an address. -/
def badBlock (a : Word) : TrapInfo := valTrap .blockFormat a
/-- The second word of an L form, or 0 for a one-word instruction (R108). -/
def literalAt (s : State) (c : CoreId) (j : CtxId) (w : Word32) (a : Word) : Except TrapInfo (Option (Nat × Word32)) :=
  if isLForm w then (fetchAt s c j (a + 4#64)).map some else .ok none
/-- The instruction of the fetched words, or its fault (R108, R109, R121). -/
noncomputable def decodeAt (s : State) (c : CoreId) (j : CtxId) (a : Word) (w : Word32) (lit : Option (Nat × Word32)) : Todo :=
  match decode (bytesOfWord w ++ bytesOfWord ((lit.map (·.2)).getD 0#32)) with
  | .ok (i, _) => .run (interlock s c j w) i
  | .error .header => faultAt s c j (badBlock a)
  | .error _ => faultAt s c j (wordTrap .illegal w)
/-- Keeps the second word of an L form in the instruction path. -/
def fillLiteral (s : State) (c : CoreId) (lit : Option (Nat × Word32)) : State :=
  match lit with
  | some (pa, w) => fillCode s c pa w
  | none => s
/-- A word of a poisoned line that reaches PC (R285). -/
def poisonedCode (s : State) (c : CoreId) (pa : Nat) (lit : Option (Nat × Word32)) : Bool :=
  codePoisoned s c pa || (match lit with | some (p, _) => codePoisoned s c p | none => false)
/-- The L form at an address does not end within its block (R108). -/
def literalOut (s : State) (c : CoreId) (j : CtxId) (q : QSlot) (w : Word32) : Bool :=
  isLForm w && decide ((bodyEnd s c j q.hdr).toNat ≤ (q.addr + 4#64).toNat)
/-- The fetched instruction at PC in the order of Table 15.3: poison of its words, a literal that cannot be fetched, its header when it
is the first of its block, a word of a header that a restored queue names (R271), an L form that leaves its block; then it is decoded.
EVAL of poison is the address of the first word, also where only the literal of an L form is poisoned (R285 does not say;
DESIGN CHOICE, log 109). -/
noncomputable def issueFetched (s : State) (c : CoreId) (j : CtxId) (pa : Nat) (w : Word32) : Todo :=
  let q := (ctxAt s c j).pc
  let out := q.addr == q.hdr + 4#64 || literalOut s c j q w
  match (if out then .ok none else literalAt s c j w q.addr) with
  | .error t => if codePoisoned s c pa then faultAt s c j ⟨.access, 0#8, true, true, q.addr⟩ else faultAt s c j t
  | .ok lit =>
    if poisonedCode s c pa lit then faultAt s c j ⟨.access, 0#8, true, true, q.addr⟩
    else match consumedFault s c j with
      | some t => faultAt s c j t
      | none =>
        if out then faultAt s c j (badBlock q.addr)
        else decodeAt (fillLiteral (fillCode s c pa w) c lit) c j q.addr w lit
/-- The walks of an issue (R294): for the word at PC and its literal, for its header, and for the words and headers that the successor
of NNPC is found by (log 117); once for each page. -/
def walkedCode (s : State) (c : CoreId) (j : CtxId) : State :=
  let t := ctxAt s c j
  let vas := [t.pc.addr, t.pc.addr + 4#64, t.pc.hdr, t.pc.hdr + 4#64, t.nnpc.addr, t.nnpc.hdr, nextHeader s c j t.nnpc.hdr]
  ((vas.map (· &&& ~~~0xFFF#64)).eraseDups).foldl (fun s va => walked s (whoOf s c j) .fetch va) s
/-- The instruction at PC. -/
noncomputable def fetchIssue (s : State) (c : CoreId) (j : CtxId) : Todo :=
  let a := (ctxAt s c j).pc.addr
  let s := walkedCode s c j
  match fetchAt s c j a with
  | .error t => faultAt s c j t
  | .ok (pa, w) => issueFetched s c j pa w

/-- One issue: the context whose turn it is, up to the execution of its instruction. -/
noncomputable def issue (s : State) : Todo :=
  match nextIssue s with
  | none => .act s
  | some (c, j) =>
    let s := issuing s c j
    match boundary s c j with
    | some s' => .act s'
    | none => fetchIssue (modCtx s c j issued) c j

/-! ### The end of a debugger's step (R358) -/

/-- The step of a halted core is done once the context has moved on, trapped or stopped. -/
def stepDone (a b : Ctx) : Bool := a.pc != b.pc || a.cyc != b.cyc || a.ecause != b.ecause || b.run != .on
def settleStep (before after : State) : State :=
  let c := after.cur.1
  let j := after.cur.2
  if (coreAt before c).dbg.halt && (coreAt before c).dbg.step && stepDone (ctxAt before c j) (ctxAt after c j) then
    modCore after c fun k => { k with dbg := { k.dbg with step := false } }
  else after
/-- The same on an answer. -/
def settleOut (before : State) : Out → Out
  | .next s => .next (settleStep before s)
  | .fault f => .fault f
  | .refused r => .refused r

/-! ### Placing a program (log 5) -/

/-- Stores the words of an instruction at a physical address, where core `c` has fetched nothing yet. -/
def putCode (s : State) (c : CoreId) (pa : Nat) (bs : List Byte) : State :=
  let s := { s with mem := putBytes s.mem pa bs, poison := unpoison s.poison (pa / 64 * 64) 128
                    owner := s.owner.filter fun e => e.1 != pa / 256 && e.1 != (pa + 7) / 256 }
  modCore s c fun k =>
    { k with icache := sDel (sDel k.icache pa) (pa + 4), fetchPoison := setDel (setDel k.fetchPoison (pa / 64)) ((pa + 7) / 64) }
/-- Where the next step fetches its instruction, if it is one that fetches. -/
def fetchPlace (s : State) : Option (CoreId × Nat) :=
  if !s.agenda.isEmpty || s.turn != .issue then none else
  match nextIssue s with
  | none => none
  | some (c, j) =>
    let s := issuing s c j
    let q := (ctxAt s c j).pc
    if (boundary s c j).isSome || (q.addr == q.hdr + 8#64 && (headerFault s c j q.hdr).isSome) ||
      (bodyEnd s c j q.hdr).toNat ≤ (q.addr + 4#64).toNat then none
    else match fetchAt s c j q.addr with
      | .ok (pa, _) => some (c, pa)
      | .error _ => none
/-- The bind record of the bare team below: one core, launch 0, address space 0 with its root table at 0x20000. -/
def bareRecord : BitVec 1024 := BitVec.ofNat 1024 (packNat [(90, 2), (98, 8), (128, 0x10000), (265, 1)])
/-- The bare team's first body word. -/
def barePa : Nat := 0x10008
/-- A package on which a loader has placed a program: physical core 0 holds a team of one, whose tables map its first 4 GiB
onto the same physical addresses, and whose entry block has its header at 0x10000 and three body words. -/
def bareTeam (s : State) : State :=
  let mem := putBytes (putBytes (putBytes s.mem 0x20000 (leBytes 8 0x40001)) 0x40000 (leBytes 8 0x1BF)) 0x10000
    (leBytes 8 0x607F)
  let s := modDie s 0 fun k => { k with tlb := [], powered := true }
  let s := modCore s 0 fun _ => { entryCore bareRecord 0 0 0 s.ns .reset with l1k := 2 }
  { s with mem := mem, agenda := [], turn := .issue, next := 0, held := false
           owner := [], poison := [], hub := { s.hub with stopped := false, ckptGo := false } }

end Sys2Proof.Machine
end

