-- ==== Sys2Proof/Machine/Background.lean ====
section
/-! DEFINITION. The background events that a step takes of its own accord, one in turn (log 2): each is an event of the opcode
table, on a unit that has something pending. What only the outside world brings comes through `agenda`. -/

namespace Sys2Proof.Machine

/-- One of a list of units, chosen by a number, meets its event. -/
def onOne {α : Type} (xs : List α) (n : Nat) (s : State) (f : α → State → Out) : Out :=
  match xs[n % xs.length]? with
  | none => .next s
  | some x => f x s

/-! ### Units with something pending -/

/-- The bound cores of the package. -/
def boundAll (s : State) : List CoreId := allCores.filter fun c => (coreAt s c).team.isSome
/-- Contexts whose store buffer holds something, and its first entry that may drain. -/
def drainUnits (s : State) : List (CoreId × CtxId × Nat) :=
  (boundAll s).flatMap fun c => allCtxs.filterMap fun j =>
    let sb := (ctxAt s c j).sbuf
    ((List.range sb.length).find? fun i => match sb[i]? with
      | some it => mayDrain s c sb i it
      | none => false).map fun i => (c, j, i)
def allClusters : List ClusterId := List.finRange 128
/-- A started job that has no slot of its destination ring and can be given none (R213): it moves no beat. -/
def jobStalled (s : State) (b : CopyJob) : Bool :=
  let r := ringAt s b.who.core (b.desc.extractLsb' 0 3)
  b.started && b.status == 0 && b.form != .cpy && dRdst b.desc && (r.prod.map (·.1)) != some b.seq &&
    (r.prod.isSome || heldAt (coreAt s b.who.core) (b.desc.extractLsb' 0 3 : BitVec 3).toFin true || r.free == 0)
/-- The copy job of each cluster that the next beat goes to: the first in order of acceptance that can move (log 2). -/
def jobUnits (s : State) : List (ClusterId × CopyJob) :=
  allClusters.filterMap fun g => ((clusterAt s g).jobs.find? fun b => !b.suspended && !enginePaused s b.who && !jobStalled s b).map fun b => (g, b)
def ringUnits (s : State) : List (CoreId × BitVec 3) :=
  (boundAll s).flatMap fun c => ((List.finRange 8).filter fun i => ((coreAt s c).rings.get i).bound).map fun i =>
    (c, BitVec.ofNat 3 i.val)
def commandUnits (s : State) : List ClusterId := allClusters.filter fun g => !(engineAt s g).queue.isEmpty
def leaseUnits (s : State) : List ClusterId :=
  allClusters.filter fun g => (engineAt s g).holder.isNone && !(engineAt s g).waiting.isEmpty
def wakingUnits (s : State) : List ClusterId := allClusters.filter fun g => (engineAt s g).wakingBands
def allDies : List DieId := List.finRange 4
def putUnits (s : State) : List DieId := allDies.filter fun d => !(dieAt s d).puts.isEmpty
def commitUnits (s : State) : List (DieId × Nat) :=
  allDies.flatMap fun d => ((dieAt s d).wins.filter (·.state == 2#2)).map fun w => (d, w.pa)
def arrivalUnits (s : State) : List (CoreId × BitVec 3) :=
  (boundAll s).flatMap fun c => ((List.range 8).filter fun i => (coreAt s c).arr.getLsbD i).map fun i => (c, BitVec.ofNat 3 i)
def waveUnits (s : State) : List CoreId :=
  (boundAll s).filter fun c => (coreAt s c).ctxs.toList.any fun t => match t.wait with | .qwait _ none => true | _ => false
def postUnits (s : State) : List DieId := allDies.filter fun d => !(dieAt s d).faults.isEmpty
def frontUnits (s : State) : List (PartId × QueueId) :=
  (List.finRange 4).flatMap fun p => ((List.finRange 64).filter fun q =>
    (queueAt s p q).en || (queueAt s p q).front != .idle || (queueAt s p q).graph.isSome).map fun q => (p, q)
def preemptUnits (s : State) : List CoreId := (boundAll s).filter fun c => mayPreempt s c && (coreAt s c).stopReq == .none
def stopUnits (s : State) : List (CoreId × CtxId) :=
  (boundAll s).flatMap fun c => if (coreAt s c).stopReq == .none then [] else allCtxs.map fun j => (c, j)
def saveUnits (s : State) : List CoreId := (boundAll s).filter fun c => (coreAt s c).stopReq == .preempt
def moveUnits (s : State) : List (CoreId × CoreId) :=
  (boundAll s).filterMap fun c => match (coreAt s c).stopReq with | .migrate t => some (c, t) | _ => none
def finishUnits (s : State) : List CoreId := (boundAll s).filter fun c => (coreAt s c).finished
def endUnits (s : State) : List Word32 := (s.hub.launches.filter fun l => !l.done || l.locked).map (·.lid)
def idleUnits (s : State) : List ClusterId :=
  allClusters.filter fun g => !(clusterAt s g).gated && (clusterCores g).all fun c => gateable (coreAt s c)
/-- Late loads of every context. -/
def loadUnits (s : State) : List (CoreId × CtxId × Nat) :=
  allCores.flatMap fun c => allCtxs.flatMap fun j => (List.range (ctxAt s c j).late.length).map fun i => (c, j, i)
/-- Entries of the engines' store buffers. -/
def hartUnits (s : State) : List (Hart × Nat) :=
  allHarts.flatMap fun h => (List.range (hartBuf s h).length).map fun i => (h, i)
/-- Banks of the package: those of the arrays, L2 slices, weight banks, ranks. -/
def bankCount : Nat := 40960 + 192 + 256 + 96
/-- The bank of a number below that. -/
def bankOf (n : Nat) : BankRef :=
  if n < 40960 then .array (coreId (n / 40)) (n % 40)
  else if n < 41152 then .l2 (dieId ((n - 40960) / 48)) ((n - 40960) % 48)
  else if n < 41408 then .weight (dieId ((n - 41152) / 64)) ((n - 41152) % 64)
  else .rank (dieId ((n - 41408) / 24)) ((n - 41408) % 24)
/-- Banks deeper than Table 2.8 permits by now (R55, R56). -/
def wakeUnits (s : State) : List BankRef := ((List.range bankCount).map bankOf).filter (tooDeep s)
/-- Cores whose team has reached its allowance and has not been stopped for it (R326). -/
def spentUnits (s : State) : List CoreId :=
  (boundAll s).filter fun c => !(coreAt s c).paused && !(coreAt s c).ctxs.toList.any (·.powerStop) && teamSpent s c
/-- Dies that take a write of DISPATCH which has waited. -/
def dispatchUnits (s : State) : List DieId := allDies.filter fun d => !(dieAt s d).busy && !(dieAt s d).dispatchWaits.isEmpty

/-! ### What a unit does -/

/-- A front-end's next step on the record at its front. -/
def advanceFront (x : PartId × QueueId) (s : State) : Out :=
  let k := queueAt s x.1 x.2
  match k.front with
  | .idle => if k.graph.isSome then execGraphNodeRead x.1 x.2 s else execQueueRecordRead x.1 x.2 s
  | .wait _ _ _ => execWaitPoll x.1 x.2 s
  | .action _ _ _ => execWeightAction x.1 x.2 s
  | .header _ => execGraphNodeRead x.1 x.2 s
  | .lock _ _ _ => execPlockTake x.1 x.2 s
/-- The head command of a matrix engine: a beat of an MST, a gang's dissolution, or its completion. -/
def advanceEngine (g : ClusterId) (s : State) : Out :=
  match (engineAt s g).queue.head? with
  | none => .next s
  | some q => match q.op with
    | .st _ _ beat => if beat < 8 then execMstBeat g s else execMatrixCommandComplete g s
    | .leave _ => if (engineAt s g).strip.isSome then execGangDissolve g s else execMatrixCommandComplete g s
    | .shape _ => execMatrixCommandComplete g s
    | .ldw _ _ => execMatrixCommandComplete g s
    | .mul _ _ _ _ _ => execMatrixCommandComplete g s
    | .zacc => execMatrixCommandComplete g s
/-- A partition's scheduler places the first team that fits (R312). -/
def placeTeam (p : PartId) (s : State) : Out :=
  match (firstBindable s p).bind (freeSlot s p) with
  | none => .next s
  | some slot => execScheduleBind p slot s
/-- A bank that is too deep wakes to the deepest state it may have. -/
def wakeUp (b : BankRef) (s : State) : Out := execBankWake b (BitVec.ofNat 2 (deepest s b)) s

/-- What is due by the clock goes before any other background event: the next accounting interval (R323), the power-off of a die that
reads 115 °C (R336), a store of a counter grid (R360), a recomputation of EOLH (R361). -/
def timedEvent (s : State) : Option Out :=
  if s.held || s.hub.stopped then none
  else if intervalDue s then some (execIntervalStart (Config.meterReading s.free) s)
  else match allDies.find? (dieHot s) with
  | some d => some (execDiePowerOff d s)
  | none => match allDies.find? (gridDue s) with
    | some d => some (execCounterGridStore d s)
    | none => (allDies.find? fun d => decide ((dieAt s d).eolNext ≤ s.ns)).map fun d => execEolhUpdate d s

/-- Kinds of background events. -/
def bgKinds : Nat := 30
/-- The default background event that the pointer names. -/
def backgroundAt (kind n : Nat) (s : State) : Out :=
  match kind with
  | 0 => onOne (drainUnits s) n s fun x s => execStoreDrain x.1 x.2.1 x.2.2 s
  | 1 => onOne (jobUnits s) n s fun x s =>
      if x.2.started then execCopyBeat x.1 x.2.seq s else execEngineJobStart x.1 x.2.seq s
  | 2 => onOne (ringUnits s) n s fun x s => execEngineRingTake x.1 x.2 s
  | 3 => onOne (commandUnits s) n s advanceEngine
  | 4 => onOne (leaseUnits s) n s execLeaseGrant
  | 5 => onOne (wakingUnits s) n s execBandWake
  | 6 => onOne (putUnits s) n s fun d s => execMergePutAtUnit d 0 s
  | 7 => onOne (commitUnits s) n s fun x s => execMergeCommit x.1 x.2 s
  | 8 => onOne (arrivalUnits s) n s fun x s => execBarrierGenerationComplete x.1 x.2 s
  | 9 => onOne (waveUnits s) n s execQuiescenceWave
  | 10 => execBusJobStart (Fin.ofNat 2 n) s
  | 11 => .next (flushPort s (Fin.ofNat 2 n))
  | 12 => .next (pendingCalibration s (Fin.ofNat 2 n))
  | 13 => onOne (postUnits s) n s execFaultRecordPost
  | 14 => onOne (frontUnits s) n s advanceFront
  | 15 => placeTeam (Fin.ofNat 4 n) s
  | 16 => onOne (preemptUnits s) n s execPreemptionRequest
  | 17 => onOne (stopUnits s) n s fun x s => execContextStop x.1 x.2 s
  | 18 => onOne (saveUnits s) n s execTeamSave
  | 19 => onOne (moveUnits s) n s fun x s => execMigrateCore x.1 x.2 s
  | 20 => onOne (finishUnits s) n s execTeamFinish
  | 21 => onOne (endUnits s) n s execLaunchCompletion
  | 22 => .next (endCkpt s (Config.ckptFails s.free))
  | 23 => onOne (idleUnits s) n s execClusterGate
  | 24 => onOne (loadUnits s) n s fun x s => .next (performOne s x.1 x.2.1 x.2.2)
  | 25 => onOne (hartUnits s) n s fun x s => .next (hartDrain s x.1 x.2)
  | 26 => onOne (wakeUnits s) n s wakeUp
  | 27 => onOne (dispatchUnits s) n s takeDispatch
  | 28 => onOne (spentUnits s) n s execAllowanceReached
  | _ =>
    let b := bankOf (n % bankCount)
    execBankIdleDeepen b (bankState s b + 1#2) s
/-- One background event: what is due by the clock, or the pointer's, which moves on. -/
def background (s : State) : Out :=
  match timedEvent s with
  | some r => r
  | none => backgroundAt (s.bg % bgKinds) (s.bg / bgKinds) { s with bg := s.bg + 1 }

end Sys2Proof.Machine
end

