-- ==== Sys2Proof/Machine/Dispatch.lean ====
section
/-! DEFINITION. The dispatch of the instructions and events of the opcode table to their meanings. -/

namespace Sys2Proof.Machine

def exec (i : Instr) (s : State) : Host.Outcome State Fault Refusal :=
  match i with
  | .nop stl => Sys2Proof.Machine.execNop stl s
  | .trap stl k => Sys2Proof.Machine.execTrap stl k s
  | .eret stl => Sys2Proof.Machine.execEret stl s
  | .wfi stl => Sys2Proof.Machine.execWfi stl s
  | .tlbinv stl a b => Sys2Proof.Machine.execTlbinv stl a b s
  | .cflush stl a => Sys2Proof.Machine.execCflush stl a s
  | .cinv stl a => Sys2Proof.Machine.execCinv stl a s
  | .ifence stl => Sys2Proof.Machine.execIfence stl s
  | .bkpt stl => Sys2Proof.Machine.execBkpt stl s
  | .add stl d a b => Sys2Proof.Machine.execAdd stl d a b s
  | .sub stl d a b => Sys2Proof.Machine.execSub stl d a b s
  | .and stl d a b => Sys2Proof.Machine.execAnd stl d a b s
  | .or stl d a b => Sys2Proof.Machine.execOr stl d a b s
  | .xor stl d a b => Sys2Proof.Machine.execXor stl d a b s
  | .andn stl d a b => Sys2Proof.Machine.execAndn stl d a b s
  | .sll stl d a b => Sys2Proof.Machine.execSll stl d a b s
  | .srl stl d a b => Sys2Proof.Machine.execSrl stl d a b s
  | .sra stl d a b => Sys2Proof.Machine.execSra stl d a b s
  | .rol stl d a b => Sys2Proof.Machine.execRol stl d a b s
  | .ror stl d a b => Sys2Proof.Machine.execRor stl d a b s
  | .slt stl d a b => Sys2Proof.Machine.execSlt stl d a b s
  | .sltu stl d a b => Sys2Proof.Machine.execSltu stl d a b s
  | .seq stl d a b => Sys2Proof.Machine.execSeq stl d a b s
  | .sne stl d a b => Sys2Proof.Machine.execSne stl d a b s
  | .min stl d a b => Sys2Proof.Machine.execMin stl d a b s
  | .max stl d a b => Sys2Proof.Machine.execMax stl d a b s
  | .minu stl d a b => Sys2Proof.Machine.execMinu stl d a b s
  | .maxu stl d a b => Sys2Proof.Machine.execMaxu stl d a b s
  | .clz stl d a => Sys2Proof.Machine.execClz stl d a s
  | .ctz stl d a => Sys2Proof.Machine.execCtz stl d a s
  | .popc stl d a => Sys2Proof.Machine.execPopc stl d a s
  | .addW stl d a b => Sys2Proof.Machine.execAddW stl d a b s
  | .subW stl d a b => Sys2Proof.Machine.execSubW stl d a b s
  | .andW stl d a b => Sys2Proof.Machine.execAndW stl d a b s
  | .orW stl d a b => Sys2Proof.Machine.execOrW stl d a b s
  | .xorW stl d a b => Sys2Proof.Machine.execXorW stl d a b s
  | .andnW stl d a b => Sys2Proof.Machine.execAndnW stl d a b s
  | .sllW stl d a b => Sys2Proof.Machine.execSllW stl d a b s
  | .srlW stl d a b => Sys2Proof.Machine.execSrlW stl d a b s
  | .sraW stl d a b => Sys2Proof.Machine.execSraW stl d a b s
  | .rolW stl d a b => Sys2Proof.Machine.execRolW stl d a b s
  | .rorW stl d a b => Sys2Proof.Machine.execRorW stl d a b s
  | .clzW stl d a => Sys2Proof.Machine.execClzW stl d a s
  | .ctzW stl d a => Sys2Proof.Machine.execCtzW stl d a s
  | .popcW stl d a => Sys2Proof.Machine.execPopcW stl d a s
  | .mul stl d a b => Sys2Proof.Machine.execMul stl d a b s
  | .mulh stl d a b => Sys2Proof.Machine.execMulh stl d a b s
  | .mulhu stl d a b => Sys2Proof.Machine.execMulhu stl d a b s
  | .div stl d a b => Sys2Proof.Machine.execDiv stl d a b s
  | .divu stl d a b => Sys2Proof.Machine.execDivu stl d a b s
  | .rem stl d a b => Sys2Proof.Machine.execRem stl d a b s
  | .remu stl d a b => Sys2Proof.Machine.execRemu stl d a b s
  | .mulW stl d a b => Sys2Proof.Machine.execMulW stl d a b s
  | .divW stl d a b => Sys2Proof.Machine.execDivW stl d a b s
  | .divuW stl d a b => Sys2Proof.Machine.execDivuW stl d a b s
  | .remW stl d a b => Sys2Proof.Machine.execRemW stl d a b s
  | .remuW stl d a b => Sys2Proof.Machine.execRemuW stl d a b s
  | .addImm stl d a imm => Sys2Proof.Machine.execAddImm stl d a imm s
  | .addWImm stl d a imm => Sys2Proof.Machine.execAddWImm stl d a imm s
  | .andImm stl d a imm => Sys2Proof.Machine.execAndImm stl d a imm s
  | .orImm stl d a imm => Sys2Proof.Machine.execOrImm stl d a imm s
  | .xorImm stl d a imm => Sys2Proof.Machine.execXorImm stl d a imm s
  | .andnImm stl d a imm => Sys2Proof.Machine.execAndnImm stl d a imm s
  | .sllImm stl w d a sh => Sys2Proof.Machine.execSllImm stl w d a sh s
  | .srlImm stl w d a sh => Sys2Proof.Machine.execSrlImm stl w d a sh s
  | .sraImm stl w d a sh => Sys2Proof.Machine.execSraImm stl w d a sh s
  | .rolImm stl w d a sh => Sys2Proof.Machine.execRolImm stl w d a sh s
  | .rorImm stl w d a sh => Sys2Proof.Machine.execRorImm stl w d a sh s
  | .sel stl d a b c => Sys2Proof.Machine.execSel stl d a b c s
  | .bfx stl d a len pos => Sys2Proof.Machine.execBfx stl d a len pos s
  | .bfi stl d a len pos => Sys2Proof.Machine.execBfi stl d a len pos s
  | .liw stl d lit => Sys2Proof.Machine.execLiw stl d lit s
  | .liwh stl d lit => Sys2Proof.Machine.execLiwh stl d lit s
  | .addpc stl d lit => Sys2Proof.Machine.execAddpc stl d lit s
  | .br stl n off => Sys2Proof.Machine.execBr stl n off s
  | .beqz stl n a off => Sys2Proof.Machine.execBeqz stl n a off s
  | .bnez stl n a off => Sys2Proof.Machine.execBnez stl n a off s
  | .bltz stl n a off => Sys2Proof.Machine.execBltz stl n a off s
  | .bgez stl n a off => Sys2Proof.Machine.execBgez stl n a off s
  | .bgtz stl n a off => Sys2Proof.Machine.execBgtz stl n a off s
  | .blez stl n a off => Sys2Proof.Machine.execBlez stl n a off s
  | .bal stl d off => Sys2Proof.Machine.execBal stl d off s
  | .jr stl a => Sys2Proof.Machine.execJr stl a s
  | .jal stl d a => Sys2Proof.Machine.execJal stl d a s
  | .sysr stl d num => Sys2Proof.Machine.execSysr stl d num s
  | .sysw stl a num => Sys2Proof.Machine.execSysw stl a num s
  | .ldB stl d a off => Sys2Proof.Machine.execLdB stl d a off s
  | .ldBu stl d a off => Sys2Proof.Machine.execLdBu stl d a off s
  | .ldH stl d a off => Sys2Proof.Machine.execLdH stl d a off s
  | .ldHu stl d a off => Sys2Proof.Machine.execLdHu stl d a off s
  | .ldW stl d a off => Sys2Proof.Machine.execLdW stl d a off s
  | .ldWu stl d a off => Sys2Proof.Machine.execLdWu stl d a off s
  | .ldD stl d a off => Sys2Proof.Machine.execLdD stl d a off s
  | .stB stl d a off => Sys2Proof.Machine.execStB stl d a off s
  | .stH stl d a off => Sys2Proof.Machine.execStH stl d a off s
  | .stW stl d a off => Sys2Proof.Machine.execStW stl d a off s
  | .stD stl d a off => Sys2Proof.Machine.execStD stl d a off s
  | .stQ stl d a off => Sys2Proof.Machine.execStQ stl d a off s
  | .ldBAcq stl d a sc => Sys2Proof.Machine.execLdBAcq stl d a sc s
  | .ldBuAcq stl d a sc => Sys2Proof.Machine.execLdBuAcq stl d a sc s
  | .ldHAcq stl d a sc => Sys2Proof.Machine.execLdHAcq stl d a sc s
  | .ldHuAcq stl d a sc => Sys2Proof.Machine.execLdHuAcq stl d a sc s
  | .ldWAcq stl d a sc => Sys2Proof.Machine.execLdWAcq stl d a sc s
  | .ldWuAcq stl d a sc => Sys2Proof.Machine.execLdWuAcq stl d a sc s
  | .ldDAcq stl d a sc => Sys2Proof.Machine.execLdDAcq stl d a sc s
  | .stBRel stl ar sc a b => Sys2Proof.Machine.execStBRel stl ar sc a b s
  | .stHRel stl ar sc a b => Sys2Proof.Machine.execStHRel stl ar sc a b s
  | .stWRel stl ar sc a b => Sys2Proof.Machine.execStWRel stl ar sc a b s
  | .stDRel stl ar sc a b => Sys2Proof.Machine.execStDRel stl ar sc a b s
  | .stQRel stl ar sc a b => Sys2Proof.Machine.execStQRel stl ar sc a b s
  | .stBCnt stl d a off => Sys2Proof.Machine.execStBCnt stl d a off s
  | .stHCnt stl d a off => Sys2Proof.Machine.execStHCnt stl d a off s
  | .stWCnt stl d a off => Sys2Proof.Machine.execStWCnt stl d a off s
  | .stDCnt stl d a off => Sys2Proof.Machine.execStDCnt stl d a off s
  | .pfch stl a off => Sys2Proof.Machine.execPfch stl a off s
  | .amoSwap stl far dw ord d a b => Sys2Proof.Machine.execAmoSwap stl far dw ord d a b s
  | .amoAdd stl far dw ord d a b => Sys2Proof.Machine.execAmoAdd stl far dw ord d a b s
  | .amoAnd stl far dw ord d a b => Sys2Proof.Machine.execAmoAnd stl far dw ord d a b s
  | .amoOr stl far dw ord d a b => Sys2Proof.Machine.execAmoOr stl far dw ord d a b s
  | .amoXor stl far dw ord d a b => Sys2Proof.Machine.execAmoXor stl far dw ord d a b s
  | .amoMin stl far dw ord d a b => Sys2Proof.Machine.execAmoMin stl far dw ord d a b s
  | .amoMax stl far dw ord d a b => Sys2Proof.Machine.execAmoMax stl far dw ord d a b s
  | .amoMinu stl far dw ord d a b => Sys2Proof.Machine.execAmoMinu stl far dw ord d a b s
  | .amoMaxu stl far dw ord d a b => Sys2Proof.Machine.execAmoMaxu stl far dw ord d a b s
  | .amocas stl far dw ord d a b => Sys2Proof.Machine.execAmocas stl far dw ord d a b s
  | .fence stl sc succ pred => Sys2Proof.Machine.execFence stl sc succ pred s
  | .arrive stl a ch => Sys2Proof.Machine.execArrive stl a ch s
  | .waitb stl d ch => Sys2Proof.Machine.execWaitb stl d ch s
  | .phase stl => Sys2Proof.Machine.execPhase stl s
  | .qwait stl d => Sys2Proof.Machine.execQwait stl d s
  | .sleep stl a => Sys2Proof.Machine.execSleep stl a s
  | .wany stl d mask => Sys2Proof.Machine.execWany stl d mask s
  | .fadd stl rm d a b => Sys2Proof.Machine.execFadd stl rm d a b s
  | .fsub stl rm d a b => Sys2Proof.Machine.execFsub stl rm d a b s
  | .fmul stl rm d a b => Sys2Proof.Machine.execFmul stl rm d a b s
  | .fmin stl d a b => Sys2Proof.Machine.execFmin stl d a b s
  | .fmax stl d a b => Sys2Proof.Machine.execFmax stl d a b s
  | .fsgn stl d a b => Sys2Proof.Machine.execFsgn stl d a b s
  | .fexp2 stl d a => Sys2Proof.Machine.execFexp2 stl d a s
  | .flog2 stl d a => Sys2Proof.Machine.execFlog2 stl d a s
  | .frcp stl d a => Sys2Proof.Machine.execFrcp stl d a s
  | .frsq stl d a => Sys2Proof.Machine.execFrsq stl d a s
  | .ffma stl d a b c => Sys2Proof.Machine.execFfma stl d a b c s
  | .ffms stl d a b c => Sys2Proof.Machine.execFfms stl d a b c s
  | .fcmp stl rel d a b => Sys2Proof.Machine.execFcmp stl rel d a b s
  | .fcvtI32F32 stl rm d a => Sys2Proof.Machine.execFcvtI32F32 stl rm d a s
  | .fcvtUint32F32 stl rm d a => Sys2Proof.Machine.execFcvtUint32F32 stl rm d a s
  | .fcvtI64F32 stl rm d a => Sys2Proof.Machine.execFcvtI64F32 stl rm d a s
  | .fcvtUint64F32 stl rm d a => Sys2Proof.Machine.execFcvtUint64F32 stl rm d a s
  | .fcvtF32I32 stl rm d a => Sys2Proof.Machine.execFcvtF32I32 stl rm d a s
  | .fcvtF32Uint32 stl rm d a => Sys2Proof.Machine.execFcvtF32Uint32 stl rm d a s
  | .fcvtF32I64 stl rm d a => Sys2Proof.Machine.execFcvtF32I64 stl rm d a s
  | .fcvtF32Uint64 stl rm d a => Sys2Proof.Machine.execFcvtF32Uint64 stl rm d a s
  | .fcvtBf16F32 stl rm d a => Sys2Proof.Machine.execFcvtBf16F32 stl rm d a s
  | .fcvtF32Bf16 stl d a => Sys2Proof.Machine.execFcvtF32Bf16 stl d a s
  | .fcvtE4m3F32 stl rm d a => Sys2Proof.Machine.execFcvtE4m3F32 stl rm d a s
  | .fcvtE5m2F32 stl rm d a => Sys2Proof.Machine.execFcvtE5m2F32 stl rm d a s
  | .fcvtF32E4m3 stl d a => Sys2Proof.Machine.execFcvtF32E4m3 stl d a s
  | .fcvtF32E5m2 stl d a => Sys2Proof.Machine.execFcvtF32E5m2 stl d a s
  | .vadd stl t d a b m => Sys2Proof.Machine.execVadd stl t d a b m s
  | .vsub stl t d a b m => Sys2Proof.Machine.execVsub stl t d a b m s
  | .vmul stl t d a b m => Sys2Proof.Machine.execVmul stl t d a b m s
  | .vfma stl t d a b m => Sys2Proof.Machine.execVfma stl t d a b m s
  | .vmin stl t d a b m => Sys2Proof.Machine.execVmin stl t d a b m s
  | .vmax stl t d a b m => Sys2Proof.Machine.execVmax stl t d a b m s
  | .vred stl t d a op m => Sys2Proof.Machine.execVred stl t d a op m s
  | .vdot stl t d a b m => Sys2Proof.Machine.execVdot stl t d a b m s
  | .vsqsum stl t d a m => Sys2Proof.Machine.execVsqsum stl t d a m s
  | .vaddSs stl t d a b m => Sys2Proof.Machine.execVaddSs stl t d a b m s
  | .vand stl t d a b m => Sys2Proof.Machine.execVand stl t d a b m s
  | .vor stl t d a b m => Sys2Proof.Machine.execVor stl t d a b m s
  | .vxor stl t d a b m => Sys2Proof.Machine.execVxor stl t d a b m s
  | .vshl stl t d a b m => Sys2Proof.Machine.execVshl stl t d a b m s
  | .vshr stl t d a b m => Sys2Proof.Machine.execVshr stl t d a b m s
  | .vsra stl t d a b m => Sys2Proof.Machine.execVsra stl t d a b m s
  | .vsubSs stl t d a b m => Sys2Proof.Machine.execVsubSs stl t d a b m s
  | .vcvtBf16F32 stl rm d a m => Sys2Proof.Machine.execVcvtBf16F32 stl rm d a m s
  | .vcvtF32Bf16 stl rm d a m => Sys2Proof.Machine.execVcvtF32Bf16 stl rm d a m s
  | .vcvtI32F32 stl rm d a m => Sys2Proof.Machine.execVcvtI32F32 stl rm d a m s
  | .vcvtF32I32 stl rm d a m => Sys2Proof.Machine.execVcvtF32I32 stl rm d a m s
  | .vcvtI16I32 stl rm d a m => Sys2Proof.Machine.execVcvtI16I32 stl rm d a m s
  | .vcvtI8I16 stl rm d a m => Sys2Proof.Machine.execVcvtI8I16 stl rm d a m s
  | .vcvtI32I16 stl rm d a m => Sys2Proof.Machine.execVcvtI32I16 stl rm d a m s
  | .vcvtI16I8 stl rm d a m => Sys2Proof.Machine.execVcvtI16I8 stl rm d a m s
  | .vcmpFloat stl t rel k a b m => Sys2Proof.Machine.execVcmpFloat stl t rel k a b m s
  | .vcmpInteger stl t rel k a b m => Sys2Proof.Machine.execVcmpInteger stl t rel k a b m s
  | .vsel stl d a b m => Sys2Proof.Machine.execVsel stl d a b m s
  | .vbcast32 stl d a m => Sys2Proof.Machine.execVbcast32 stl d a m s
  | .vbcast16 stl d a m => Sys2Proof.Machine.execVbcast16 stl d a m s
  | .vbcast8 stl d a m => Sys2Proof.Machine.execVbcast8 stl d a m s
  | .vmov stl d a m => Sys2Proof.Machine.execVmov stl d a m s
  | .vext32 stl d a b => Sys2Proof.Machine.execVext32 stl d a b s
  | .vext16 stl d a b => Sys2Proof.Machine.execVext16 stl d a b s
  | .vext8 stl d a b => Sys2Proof.Machine.execVext8 stl d a b s
  | .vperm32 stl d a b m => Sys2Proof.Machine.execVperm32 stl d a b m s
  | .vperm16 stl d a b m => Sys2Proof.Machine.execVperm16 stl d a b m s
  | .vperm8 stl d a b m => Sys2Proof.Machine.execVperm8 stl d a b m s
  | .vslide32 stl d a b m => Sys2Proof.Machine.execVslide32 stl d a b m s
  | .vslide16 stl d a b m => Sys2Proof.Machine.execVslide16 stl d a b m s
  | .vslide8 stl d a b m => Sys2Proof.Machine.execVslide8 stl d a b m s
  | .mand stl d a b => Sys2Proof.Machine.execMand stl d a b s
  | .mor stl d a b => Sys2Proof.Machine.execMor stl d a b s
  | .mxor stl d a b => Sys2Proof.Machine.execMxor stl d a b s
  | .mnot stl d a => Sys2Proof.Machine.execMnot stl d a s
  | .mpop stl d a => Sys2Proof.Machine.execMpop stl d a s
  | .mfirst stl d a => Sys2Proof.Machine.execMfirst stl d a s
  | .vld stl d a off => Sys2Proof.Machine.execVld stl d a off s
  | .vst stl d a off => Sys2Proof.Machine.execVst stl d a off s
  | .vlds32 stl d a b m => Sys2Proof.Machine.execVlds32 stl d a b m s
  | .vlds16 stl d a b m => Sys2Proof.Machine.execVlds16 stl d a b m s
  | .vlds8 stl d a b m => Sys2Proof.Machine.execVlds8 stl d a b m s
  | .vsts32 stl d a b m => Sys2Proof.Machine.execVsts32 stl d a b m s
  | .vsts16 stl d a b m => Sys2Proof.Machine.execVsts16 stl d a b m s
  | .vsts8 stl d a b m => Sys2Proof.Machine.execVsts8 stl d a b m s
  | .vgth32 stl d a b m => Sys2Proof.Machine.execVgth32 stl d a b m s
  | .vgth16 stl d a b m => Sys2Proof.Machine.execVgth16 stl d a b m s
  | .vgth8 stl d a b m => Sys2Proof.Machine.execVgth8 stl d a b m s
  | .vsct32 stl d a b m => Sys2Proof.Machine.execVsct32 stl d a b m s
  | .vsct16 stl d a b m => Sys2Proof.Machine.execVsct16 stl d a b m s
  | .vsct8 stl d a b m => Sys2Proof.Machine.execVsct8 stl d a b m s
  | .vexp2 stl d a m => Sys2Proof.Machine.execVexp2 stl d a m s
  | .vlog2 stl d a m => Sys2Proof.Machine.execVlog2 stl d a m s
  | .vrcp stl d a m => Sys2Proof.Machine.execVrcp stl d a m s
  | .vrsq stl d a m => Sys2Proof.Machine.execVrsq stl d a m s
  | .mlease stl n => Sys2Proof.Machine.execMlease stl n s
  | .mrel stl => Sys2Proof.Machine.execMrel stl s
  | .mshape stl b => Sys2Proof.Machine.execMshape stl b s
  | .mzacc stl => Sys2Proof.Machine.execMzacc stl s
  | .mswap stl => Sys2Proof.Machine.execMswap stl s
  | .mgang stl a => Sys2Proof.Machine.execMgang stl a s
  | .mwaitMatrix stl a => Sys2Proof.Machine.execMwaitMatrix stl a s
  | .mldw stl i8 d ring => Sys2Proof.Machine.execMldw stl i8 d ring s
  | .mmul stl acc d ring b c => Sys2Proof.Machine.execMmul stl acc d ring b c s
  | .mmult stl acc d ring b c => Sys2Proof.Machine.execMmult stl acc d ring b c s
  | .mrd stl d a b => Sys2Proof.Machine.execMrd stl d a b s
  | .mst stl d a b => Sys2Proof.Machine.execMst stl d a b s
  | .cpy stl d a b c => Sys2Proof.Machine.execCpy stl d a b c s
  | .cpy2 stl d a => Sys2Proof.Machine.execCpy2 stl d a s
  | .cpyt stl d a => Sys2Proof.Machine.execCpyt stl d a s
  | .cgth stl d a => Sys2Proof.Machine.execCgth stl d a s
  | .cdec stl d a => Sys2Proof.Machine.execCdec stl d a s
  | .cenc stl rm d a => Sys2Proof.Machine.execCenc stl rm d a s
  | .cseal stl => Sys2Proof.Machine.execCseal stl s
  | .cstage stl => Sys2Proof.Machine.execCstage stl s
  | .cwait stl n => Sys2Proof.Machine.execCwait stl n s
  | .rbind stl ring a b c => Sys2Proof.Machine.execRbind stl ring a b c s
  | .racq stl d ring => Sys2Proof.Machine.execRacq stl d ring s
  | .rrel stl d ring => Sys2Proof.Machine.execRrel stl d ring s
  | .rstat stl d ring => Sys2Proof.Machine.execRstat stl d ring s
  | .sbindRing stl k ring => Sys2Proof.Machine.execSbindRing stl k ring s
  | .sbindAddr stl k a b c => Sys2Proof.Machine.execSbindAddr stl k a b c s
  | .sunbind stl k => Sys2Proof.Machine.execSunbind stl k s
  | .mopen stl d a => Sys2Proof.Machine.execMopen stl d a s
  | .mclasp stl d a b => Sys2Proof.Machine.execMclasp stl d a b s
  | .mzero stl d a => Sys2Proof.Machine.execMzero stl d a s
  | .mwaitMerge stl d a => Sys2Proof.Machine.execMwaitMerge stl d a s
  | .mstat stl d a => Sys2Proof.Machine.execMstat stl d a s
  | .mput stl a b c => Sys2Proof.Machine.execMput stl a b c s
  | .kred stl wd d a b c => Sys2Proof.Machine.execKred stl wd d a b c s
  | .kmax stl wd d a b c => Sys2Proof.Machine.execKmax stl wd d a b c s
  | .krbs stl form d a b c => Sys2Proof.Machine.execKrbs stl form d a b c s
  | .kwait stl d a => Sys2Proof.Machine.execKwait stl d a s
  | .kstat stl d a => Sys2Proof.Machine.execKstat stl d a s
  | .spawn stl d j off => Sys2Proof.Machine.execSpawn stl d j off s
  | .hexit stl a => Sys2Proof.Machine.execHexit stl a s
  | .hjoin stl d j => Sys2Proof.Machine.execHjoin stl d j s
  | .hstat stl d => Sys2Proof.Machine.execHstat stl d s
  | .loop stl a => Sys2Proof.Machine.execLoop stl a s
  | .rng stl d a b => Sys2Proof.Machine.execRng stl d a b s
  | .annulledStep stl => Sys2Proof.Machine.execAnnulledStep stl s
  | .breakpointMatch c j k => Sys2Proof.Machine.execBreakpointMatch c j k s
  | .trapEntry c j t => Sys2Proof.Machine.execTrapEntry c j t s
  | .interrupt c => Sys2Proof.Machine.execInterrupt c s
  | .timerMatch c => Sys2Proof.Machine.execTimerMatch c s
  | .doorbellWrite c => Sys2Proof.Machine.execDoorbellWrite c s
  | .ipendWrite v => Sys2Proof.Machine.execIpendWrite v s
  | .statusWrite v => Sys2Proof.Machine.execStatusWrite v s
  | .loopStateWrite lblk v => Sys2Proof.Machine.execLoopStateWrite lblk v s
  | .allowWrite v => Sys2Proof.Machine.execAllowWrite v s
  | .bmaskWrite k v => Sys2Proof.Machine.execBmaskWrite k v s
  | .peermaskWrite v => Sys2Proof.Machine.execPeermaskWrite v s
  | .bwphaseWrite v => Sys2Proof.Machine.execBwphaseWrite v s
  | .preemptionRequest c => Sys2Proof.Machine.execPreemptionRequest c s
  | .contextStop c j => Sys2Proof.Machine.execContextStop c j s
  | .teamSave c => Sys2Proof.Machine.execTeamSave c s
  | .migrationRequest c target => Sys2Proof.Machine.execMigrationRequest c target s
  | .migrateCore c target => Sys2Proof.Machine.execMigrateCore c target s
  | .thermalClockLimit c => Sys2Proof.Machine.execThermalClockLimit c s
  | .diePowerOff d => Sys2Proof.Machine.execDiePowerOff d s
  | .barrierGenerationComplete c k => Sys2Proof.Machine.execBarrierGenerationComplete c k s
  | .quiescenceWave c => Sys2Proof.Machine.execQuiescenceWave c s
  | .storeDrain c j k => Sys2Proof.Machine.execStoreDrain c j k s
  | .lineWriteback c line => Sys2Proof.Machine.execLineWriteback c line s
  | .lineInvalidate c line => Sys2Proof.Machine.execLineInvalidate c line s
  | .pageWalk d asid root va => Sys2Proof.Machine.execPageWalk d asid root va s
  | .engineJobStart g seq => Sys2Proof.Machine.execEngineJobStart g seq s
  | .copyBeat g seq => Sys2Proof.Machine.execCopyBeat g seq s
  | .engineRingTake c ring => Sys2Proof.Machine.execEngineRingTake c ring s
  | .faultRecordPost d => Sys2Proof.Machine.execFaultRecordPost d s
  | .fqdoorRing d => Sys2Proof.Machine.execFqdoorRing d s
  | .leaseGrant g => Sys2Proof.Machine.execLeaseGrant g s
  | .matrixCommandComplete g => Sys2Proof.Machine.execMatrixCommandComplete g s
  | .mstBeat g => Sys2Proof.Machine.execMstBeat g s
  | .gangDissolve g => Sys2Proof.Machine.execGangDissolve g s
  | .bandWake g => Sys2Proof.Machine.execBandWake g s
  | .mergePutAtUnit d k => Sys2Proof.Machine.execMergePutAtUnit d k s
  | .mergeClaspAtUnit d pa desc => Sys2Proof.Machine.execMergeClaspAtUnit d pa desc s
  | .mergeCommit d pa => Sys2Proof.Machine.execMergeCommit d pa s
  | .mzeroAtUnit d pa => Sys2Proof.Machine.execMzeroAtUnit d pa s
  | .busJobStart p => Sys2Proof.Machine.execBusJobStart p s
  | .kwemanWindow p circle rd => Sys2Proof.Machine.execKwemanWindow p circle rd s
  | .frameStart p lowest => Sys2Proof.Machine.execFrameStart p lowest s
  | .kwheelWrite p v => Sys2Proof.Machine.execKwheelWrite p v s
  | .writerLeavesSegment p circle idx => Sys2Proof.Machine.execWriterLeavesSegment p circle idx s
  | .segmentCalibration p cal => Sys2Proof.Machine.execSegmentCalibration p cal s
  | .recalibrationRequest p cal => Sys2Proof.Machine.execRecalibrationRequest p cal s
  | .caratOffer mine lender carats term => Sys2Proof.Machine.execCaratOffer mine lender carats term s
  | .caratAccept mine offer borrower => Sys2Proof.Machine.execCaratAccept mine offer borrower s
  | .caratConfirm readHere lender borrower => Sys2Proof.Machine.execCaratConfirm readHere lender borrower s
  | .loanTermEnd lender borrower => Sys2Proof.Machine.execLoanTermEnd lender borrower s
  | .intervalStart m => Sys2Proof.Machine.execIntervalStart m s
  | .allowanceReached c => Sys2Proof.Machine.execAllowanceReached c s
  | .pcaratWrite v => Sys2Proof.Machine.execPcaratWrite v s
  | .supplyLossWarning clean => Sys2Proof.Machine.execSupplyLossWarning clean s
  | .ckptGo => Sys2Proof.Machine.execCkptGo s
  | .ckptDone err => Sys2Proof.Machine.execCkptDone err s
  | .qheadWrite p q v => Sys2Proof.Machine.execQheadWrite p q v s
  | .qctlWrite p q v => Sys2Proof.Machine.execQctlWrite p q v s
  | .queueRecordRead p q => Sys2Proof.Machine.execQueueRecordRead p q s
  | .waitPoll p q => Sys2Proof.Machine.execWaitPoll p q s
  | .weightAction p q => Sys2Proof.Machine.execWeightAction p q s
  | .graphNodeRead p q => Sys2Proof.Machine.execGraphNodeRead p q s
  | .plockTake p q => Sys2Proof.Machine.execPlockTake p q s
  | .scheduleBind p slot => Sys2Proof.Machine.execScheduleBind p slot s
  | .dispatchWrite d pa => Sys2Proof.Machine.execDispatchWrite d pa s
  | .teamFinish c => Sys2Proof.Machine.execTeamFinish c s
  | .launchCompletion lid => Sys2Proof.Machine.execLaunchCompletion lid s
  | .launchCancel lid => Sys2Proof.Machine.execLaunchCancel lid s
  | .bankIdleDeepen b st => Sys2Proof.Machine.execBankIdleDeepen b st s
  | .bankWake b st => Sys2Proof.Machine.execBankWake b st s
  | .refreshWindow => Sys2Proof.Machine.execRefreshWindow s
  | .clusterGate g => Sys2Proof.Machine.execClusterGate g s
  | .fqctlWrite d v => Sys2Proof.Machine.execFqctlWrite d v s
  | .trctlWrite d v => Sys2Proof.Machine.execTrctlWrite d v s
  | .cgctlWrite d v => Sys2Proof.Machine.execCgctlWrite d v s
  | .hubRegisterWrite off v => Sys2Proof.Machine.execHubRegisterWrite off v s
  | .counterGridStore d => Sys2Proof.Machine.execCounterGridStore d s
  | .eolhUpdate d => Sys2Proof.Machine.execEolhUpdate d s
  | .dbgctlHalt c => Sys2Proof.Machine.execDbgctlHalt c s
  | .dbgctlResume c => Sys2Proof.Machine.execDbgctlResume c s
  | .dbgctlStep c j => Sys2Proof.Machine.execDbgctlStep c j s
  | .dbgctlAttach c => Sys2Proof.Machine.execDbgctlAttach c s
  | .correctedError d k => Sys2Proof.Machine.execCorrectedError d k s
  | .uncorrectableError pl => Sys2Proof.Machine.execUncorrectableError pl s
  | .registerUncorrectable c j => Sys2Proof.Machine.execRegisterUncorrectable c j s
  | .linkCrcReplay d l => Sys2Proof.Machine.execLinkCrcReplay d l s
  | .laneShed d l => Sys2Proof.Machine.execLaneShed d l s
  | .laneRestore d l => Sys2Proof.Machine.execLaneRestore d l s
  | .hostRead pa n => Sys2Proof.Machine.execHostRead pa n s
  | .hostWrite pa data => Sys2Proof.Machine.execHostWrite pa data s
  | .packageReset plan => Sys2Proof.Machine.execPackageReset plan s
  | .sleepTimeout c j => Sys2Proof.Machine.execSleepTimeout c j s
  | .dieStartsAgain d => Sys2Proof.Machine.execDieStartsAgain d s

end Sys2Proof.Machine
end

