-- ==== Sys2Proof/Machine/Step.lean ====
section
/-! DEFINITION. One step of the package (log 2): an event of the agenda, or in turn a context's issue and a background event;
and the placing of a program (log 5). -/

namespace Sys2Proof.Machine

/-- Time and the step counter move on. -/
def tick (s : State) : State := passTime { s with free := s.free + 1 } (Config.stepNs s.free)

/-- An event of the opcode table: a row without an encoding. -/
def isEvent (i : Instr) : Bool := (encode i).isEmpty

/-- One step. -/
noncomputable def step (s : State) : Host.Outcome State Fault Refusal :=
  let s := tick s
  match s.agenda with
  | i :: rest => if isEvent i then exec i { s with agenda := rest } else .next { s with agenda := rest }
  | [] =>
    match s.turn with
    | .background => background { s with turn := .issue }
    | .issue =>
      let s := { s with turn := .background }
      match issue s with
      | .act s' => .next (settleStep s s')
      | .run s' i => settleOut s (exec i s')

/-- `s` with the instruction whose words are `w` where the next step fetches its instruction; where the next step fetches none,
a bare team is placed first (log 5). -/
def State.withFetchWord (s : State) (nbits w : Nat) : State :=
  match fetchPlace s with
  | some (c, pa) => putCode s c pa (tableBytes nbits w)
  | none =>
    let s := putCode (bareTeam s) 0 barePa (tableBytes nbits w)
    startEntry 0x10000#64 s 0

end Sys2Proof.Machine
end

