-- ==== Sys2Proof/Safety.lean ====
section
/-! DEFINITION. What counts as a safe run: the invariants of the package and answers that are no fault; and the words in which
statements say how one instruction ends: its own effect, then the queue step of R115, and nothing else. -/

namespace Sys2Proof.Machine

/-- The homes are in their canonical form. -/
def MemInv (s : State) : Prop := memWf s.mem = true
/-- An engine's banks and weights are in their canonical form. -/
def EngineInv (e : Engine) : Prop := sWf 0#32 e.wb = true ∧ sWf 0#32 e.vb = true ∧ sWf 0#16 e.w = true
/-- The homes, every core's array, every weight store, every engine, held or parked with its launch, and every merge bezel are in
their canonical form. -/
def MapsInv (s : State) : Prop :=
  MemInv s ∧ (∀ c, sWf 0#8 (coreAt s c).array = true) ∧ (∀ d, sWf 0#8 (dieAt s d).weights = true) ∧
    (∀ d, ∀ w ∈ (dieAt s d).wins, sWf 0#32 w.bezel = true) ∧ (∀ g, EngineInv (engineAt s g)) ∧
    ∀ l ∈ s.hub.launches, ∀ e ∈ l.engines, EngineInv e.2
/-! ### One instruction -/

/-- The issuing context. -/
def curCtx (s : State) : Ctx := ctxAt s s.cur.1 s.cur.2
/-- A change of the issuing context alone. -/
def onCtx (s : State) (f : Ctx → Ctx) : State := modCtx s s.cur.1 s.cur.2 f
/-- The die's trace writes a record for every instruction of core `c` (R359). -/
def traced (s : State) (c : CoreId) : Bool :=
  (dieAt s (coreDie c)).tren && ((dieAt s (coreDie c)).trsel.get (Fin.ofNat 4 (c.val % 256 / 64))).getLsbD (c.val % 256 % 64)
/-- No register of the list is read before its latency has passed under SCHK = 1 (R120). -/
def NoUnderrun (s : State) (rs : List Nat) : Prop :=
  stSchk (curCtx s) = false ∨ earlyRead (curCtx s) rs = none

/-- What the start of a region may leave (R30): nothing of the region's state changed; or, in U mode, a region that begins at the
instruction now at PC, discardable, with its credits dropped, where a stop may still find the header that ended a non-discardable
stretch (log 87). -/
def RegionStep (t u : Ctx) : Prop :=
  (u.status = t.status ∧ u.rstart = t.rstart ∧ u.region = t.region ∧ u.credit = t.credit ∧ u.phaseCredit = t.phaseCredit ∧
    u.arrived = t.arrived ∧ u.phased = t.phased ∧ u.ringsHeld = t.ringsHeld ∧ u.epoch = t.epoch ∧
    u.rsDue = false) ∨
  (stPriv t = false ∧ u.status = putBit t.status 6 false ∧ u.rstart = u.pc.addr ∧
    u.credit = Vector.replicate 8 0 ∧ u.phaseCredit = 0 ∧ u.arrived = Vector.replicate 8 0 ∧ u.phased = 0 ∧
    u.ringsHeld = t.ringsHeld.map (fun e => (e.1, false)) ∧ u.epoch = t.epoch + 1 ∧
    (u.rsDue = true → stNd t = true))

/-- The queue step of R115, from a context that holds the instruction's own effect: the queue moves up, `nul` are the
nullifications left, the issue has taken 1 + STL cycles; a region may begin, and the loop state may move on while a loop is
active. Beside those only results that have fallen due, the trace's memory of the last pc and the marks of a wait change:
every other field stays as it is, registers and special registers among them. -/
structure Passed (t u : Ctx) (stl : Stl) (nul : BitVec 2) : Prop where
  pc     : u.pc = t.npc
  npc    : u.npc = t.nnpc
  nul    : u.nul = nul
  cyc    : u.cyc = t.cyc + 1 + stl.toNat
  loop   : loopOn t.lblk = false → u.lc = t.lc ∧ u.lblk = t.lblk
  region : RegionStep t u
  rest   : u = { t with
    pc := u.pc, npc := u.npc, nnpc := u.nnpc, nul := u.nul, cyc := u.cyc, lc := u.lc, lblk := u.lblk, status := u.status
    rstart := u.rstart, region := u.region, credit := u.credit, phaseCredit := u.phaseCredit, arrived := u.arrived
    phased := u.phased, ringsHeld := u.ringsHeld, epoch := u.epoch, inflight := u.inflight, wait := u.wait
    rsDue := u.rsDue, stopHere := u.stopHere, bpPass := u.bpPass, lastPc := u.lastPc }

/-- A core in which context j has become `t`, and the count of cycles `n`. -/
def passedCore (j : CtxId) (t : Ctx) (n : Nat) (k : Core) : Core := { putCtx k j t with cycles := n }
/-- `u` follows from `e`, the state that holds the instruction's own effect, by the queue step alone. Where the core is not
traced, the entry behind the queue and the loop state are those of R114 and R115 (`tk` is the target of a transfer), and nothing
else of the package differs but the core's count of cycles: no other context or core, no register file, no unit, no byte of
memory. -/
structure Ended (e u : State) (stl : Stl) (nul : BitVec 2) (tk : Option Word) : Prop where
  cur  : u.cur = e.cur
  ctx  : Passed (curCtx e) (curCtx u) stl nul
  next : traced e e.cur.1 = false →
    ((curCtx u).nnpc, (curCtx u).lc, (curCtx u).lblk) = nextEntry e e.cur.1 e.cur.2 tk
  rest : traced e e.cur.1 = false →
    ∃ n, u = modCore e e.cur.1 (passedCore e.cur.2 (curCtx u) n)

/-- An instruction that completes with the effect `e` and no transfer (R115). -/
def Completes (s : State) (i : Instr) (stl : Stl) (e : State) : Prop :=
  ∃ u, exec i s = .next u ∧ Ended e u stl ((curCtx e).nul >>> 1) none
/-- An instruction that completes with the effect `e` and transfers to the block whose header is at `h` (R116). -/
def Transfers (s : State) (i : Instr) (stl : Stl) (e : State) (h : Word) : Prop :=
  ∃ u, exec i s = .next u ∧ Ended e u stl ((curCtx e).nul >>> 1) (some h) ∧ (curCtx u).nnpc = ⟨h + 8#64, h⟩
/-- A .N branch that is not taken: the two words behind it are annulled (R116). -/
def Skips (s : State) (i : Instr) (stl : Stl) (e : State) : Prop :=
  ∃ u, exec i s = .next u ∧ Ended e u stl 3#2 none
/-- An instruction that completes with x[d] := v as its only effect. -/
def Writes (s : State) (i : Instr) (stl : Stl) (d : Reg) (v : Word) : Prop :=
  Completes s i stl (onCtx s fun t => putX t d v)
/-- An instruction that raises a fault and has no effect (R263). -/
def Raises (s : State) (i : Instr) (t : TrapInfo) : Prop := exec i s = .next (raiseTrap s s.cur.1 s.cur.2 t)

end Sys2Proof.Machine
end

