-- ==== Sys2Proof/Certificates/Slice0/Obligations.lean ====
section
/-! DEFINITION. The statements for the provers, and the words they share. -/

namespace Sys2Proof.Claims
open Sys2Proof.Machine

/-! ### Scalar integer instructions (R127–R133, R143, R148) -/

/-- x[a] as the issuing context's instruction reads it. -/
abbrev reads (s : State) (a : Reg) : Word := readX s (curCtx s) a
/-- SEXT of a 32-bit result. -/
abbrev sext (v : Word32) : Word := v.signExtend 64
/-- 1 or 0. -/
abbrev oneIf (p : Prop) [Decidable p] : Word := if p then 1#64 else 0#64

/-! ### Scalar floating point (R134–R137) -/

/-- The value of the FP32 code in x[a][31:0]. -/
abbrev readsF (s : State) (a : Reg) : Fl := f32 ((reads s a).setWidth 32)
/-- An FP instruction completes: bits [63:32] of x[d] are zero (R60), the flags it raises join FFLAGS and no flag is cleared
(R68); `more` is what else it sets in its context. -/
def FloatWrites (s : State) (i : Instr) (stl : Stl) (d : Reg) (r : FRes) (more : Ctx → Ctx) : Prop :=
  Completes s i stl (onCtx s fun t =>
    let t := more t
    putX { t with fflags := t.fflags ||| r.flags } d (BitVec.ofNat 64 r.bits))
/-- What a conversion does beside its result (R66, R71, R137): an SR conversion advances SRCTR by one, an FP8 overflow sets
CVTOVF. -/
def convMore (rm : RMode) (fp8 : Bool) (r : FRes) (t : Ctx) : Ctx :=
  { t with srctr := if rm = .sr then t.srctr + 1#32 else t.srctr, cvtovf := t.cvtovf || (fp8 && r.ovf) }
/-- The draw of R66 for the conversion now issuing: the low 16 bits of G(SRKEY, SRCTR). -/
def drawNow (s : State) : Nat := (genG (curCtx s).srkey (curCtx s).srctr).toNat % 2 ^ 16

/-! ### Control (R113–R117, R138–R141) -/

/-- T of R116: the word's own address with bits [2:0] cleared, plus an offset in headers. -/
def targetAt (s : State) (off : Int) : Word := BitVec.ofInt 64 ((curCtx s).pc.addr.toNat / 8 * 8 + off * 8)
/-- The header that follows the instruction's own block sequentially (R112). -/
def followingHeader (s : State) : Word :=
  let h := (curCtx s).pc.hdr
  h + BitVec.ofNat 64 (8 + 8 * ((lenAt s s.cur.1 s.cur.2 h + 1) / 2))
/-- One past the last body word of the instruction's own block. -/
def endOfBlock (s : State) : Word :=
  let h := (curCtx s).pc.hdr
  h + BitVec.ofNat 64 (8 + 4 * lenAt s s.cur.1 s.cur.2 h)
/-- The address is that of a block header (R113). -/
abbrev header (s : State) (h : Word) : Bool := isHeader s s.cur.1 s.cur.2 h
/-- A branch on a condition (R115, R116, R138). -/
def BranchesOn (s : State) (i : Instr) (stl : Stl) (n : Bool) (T : Word) (cond : Prop) : Prop :=
  (cond → header s T = true → Transfers s i stl s T) ∧
  (cond → header s T = false → Raises s i ⟨.branchTarget, 0#8, false, false, T⟩) ∧
  (¬cond → n = true → Skips s i stl s) ∧
  (¬cond → n = false → Completes s i stl s)
/-- A transfer that links (R117, R139, R140). -/
def Links (s : State) (i : Instr) (stl : Stl) (d : Reg) (T : Word) : Prop :=
  (header s T = true → Transfers s i stl (onCtx s fun t => putX t d (followingHeader s)) T) ∧
  (header s T = false → Raises s i ⟨.branchTarget, 0#8, false, false, T⟩)

/-! ### Traps, sysregs and system instructions (R122, R146, R147, R260–R275) -/

/-- The instruction's own word, as its encoding gives it. -/
def wordOf (i : Instr) : Word32 := (encode i).headD 0#32
/-- A fault whose EVAL is the word. -/
def wordFault (cause : Cause) (i : Instr) : TrapInfo := ⟨cause, 0#8, false, false, (wordOf i).setWidth 64⟩
/-- The issuing context is in S mode. -/
abbrev sMode (s : State) : Bool := (curCtx s).status.getLsbD 2
/-- A bit of STATUS as a number. -/
def bitAt (v : Word) (i : Nat) : Nat := if v.getLsbD i then 1 else 0
/-- CAUSE of Table 15.3. -/
def causeNumber : Cause → Nat
  | .illegal => 1 | .blockFormat => 2 | .branchTarget => 3 | .stallUnderrun => 4 | .misaligned => 5 | .loadPageFault => 6
  | .storePageFault => 7 | .access => 8 | .windowPermission => 9 | .unallocatedWindow => 10 | .contextClass => 11
  | .leaseState => 12 | .ringMisuse => 13 | .powerStop => 14 | .breakpoint => 15 | .trap => 16 | .interrupt => 17
/-- ECAUSE of a trap in context j (Table 15.2). -/
def ecauseNumber (i : TrapInfo) (j : CtxId) : Nat :=
  causeNumber i.cause + i.sub.toNat * 2 ^ 8 + j.val * 2 ^ 16 + i.fetch.toNat * 2 ^ 20 + i.poison.toNat * 2 ^ 21
/-- STATUS as a trap leaves it: PPRIV := PRIV; PIE := IE; PND := ND; PRIV := 1; IE := 0 (R264). -/
def trapStatus (v : Word) : Word :=
  BitVec.ofNat 64 (bitAt v 0 + 2 * bitAt v 1 + 4 + 8 * bitAt v 2 + 32 * bitAt v 4 + 64 * bitAt v 6 + 128 * bitAt v 6)
/-- STATUS as an ERET leaves it: PRIV := PPRIV; IE := PIE; ND := PND (R271). -/
def eretStatus (v : Word) : Word :=
  BitVec.ofNat 64 (bitAt v 0 + 2 * bitAt v 1 + 4 * bitAt v 3 + 8 * bitAt v 3 + 16 * bitAt v 5 + 32 * bitAt v 5 + 64 * bitAt v 7 + 128 * bitAt v 7)

/-- A sysreg as it stands, from the tables that lay it out (Tables 1.4, 2.2, 2.5, 2.7, 3.3, 6.8, 10.1, 10.2, 15.2, 15.5, 16.1);
BANKQ and ENERGY stand apart. -/
def sysregValue (s : State) (n : Nat) : Option Word :=
  let t := curCtx s
  let k := coreAt s s.cur.1
  match n with
  | 0x000 => some t.status | 0x001 => some t.epc | 0x002 => some t.enpc | 0x003 => some t.ennpc
  | 0x004 => some (BitVec.ofNat 64 t.enul.toNat) | 0x005 => some t.ecause | 0x006 => some t.eval | 0x007 => some t.tvec
  | 0x010 => some t.lc | 0x011 => some t.lblk | 0x012 => some t.rstart
  | 0x020 => some (BitVec.ofNat 64 k.phase.toNat)
  | 0x021 => some (BitVec.ofNat 64 ((k.allow.get 0).toNat + 2 ^ 8 * (k.allow.get 1).toNat + 2 ^ 16 * (k.allow.get 2).toNat))
  | 0x022 => some (BitVec.ofNat 64 k.domcl.toNat) | 0x023 => some (BitVec.ofNat 64 k.domdie.toNat)
  | 0x024 => some (BitVec.ofNat 64 k.dompkg.toNat)
  | 0x028 => some (k.bmask.get 0) | 0x029 => some (k.bmask.get 1) | 0x02A => some (k.bmask.get 2)
  | 0x02B => some (k.bmask.get 3) | 0x02C => some (k.bmask.get 4) | 0x02D => some (k.bmask.get 5)
  | 0x02E => some (k.bmask.get 6) | 0x02F => some (k.bmask.get 7)
  | 0x030 => some k.peermask | 0x031 => some (BitVec.ofNat 64 (k.bwph.toNat + 4 * k.bwfloor.toNat))
  | 0x033 => some (BitVec.ofNat 64 s.ns)
  | 0x050 => some (BitVec.ofNat 64 t.srkey.toNat) | 0x051 => some (BitVec.ofNat 64 t.srctr.toNat)
  | 0x052 => some (BitVec.ofNat 64 t.cvtovf.toNat) | 0x053 => some (BitVec.ofNat 64 t.fflags.toNat)
  | 0x060 => some k.kcfg | 0x061 => some (BitVec.ofNat 64 k.kretry.toNat)
  | 0x070 => some (BitVec.ofNat 64 k.qsent.toNat) | 0x071 => some (BitVec.ofNat 64 k.qrecv.toNat)
  | 0x080 => some (BitVec.ofNat 64 k.lcore.toNat) | 0x081 => some (BitVec.ofNat 64 k.lclus.toNat)
  | 0x800 => some t.sscratch | 0x801 => some t.elc | 0x802 => some t.elblk | 0x803 => some t.erst
  | 0x804 => some (BitVec.ofNat 64 ((if k.tcmp.toNat ≤ s.ns then 1 else 0) + 2 * k.door.toNat +
      4 * (if k.stopReq = .none then 0 else 1)))
  | 0x805 => some (BitVec.ofNat 64 k.ienab.toNat) | 0x806 => some k.tcmp
  | 0x810 => some (BitVec.ofNat 64 t.asid.toNat) | 0x811 => some (BitVec.ofNat 64 (t.root.toNat * 2 ^ 17))
  | 0x812 => some 0#64 | 0x813 => some 0#64
  | _ => none
/-- Numbers that U mode may not name (R261). -/
def privilegedNumber (n : Nat) : Prop := (1 ≤ n ∧ n ≤ 7) ∨ 0x800 ≤ n
/-- Numbers that no table lists (R122, R268). -/
def unlistedNumber (s : State) (n : Nat) : Prop :=
  sysregValue s n = none ∧ n ≠ 0x032 ∧ n ≠ 0x040
/-- Bits lo to hi of a word, in place; the others zero. -/
def bitsOf (v : Word) (lo hi : Nat) : Word := BitVec.ofNat 64 (v.toNat / 2 ^ lo % 2 ^ (hi + 1 - lo) * 2 ^ lo)
/-- What SYSW writes in its context, by number, in S mode (`priv`) or U mode (Table 6.7, R268, R269); LC and LBLK stand apart. -/
def sysregContext (priv : Bool) (n : Nat) (v : Word) (t : Ctx) : Ctx :=
  let schk := if t.status.getLsbD 1 then 1 else bitAt v 0
  match n with
  | 0x000 => { t with status :=
      if priv then BitVec.ofNat 64 (schk + 2 * bitAt t.status 1 + 4 + 8 * bitAt v 3 + 16 * bitAt v 4 + 32 * bitAt v 5 +
        64 * bitAt t.status 6 + 128 * bitAt v 7)
      else BitVec.ofNat 64 (schk + t.status.toNat % 2 ^ 8 / 2 * 2) }
  | 0x001 => { t with epc := bitsOf v 2 63 }
  | 0x002 => { t with enpc := bitsOf v 2 63 }
  | 0x003 => { t with ennpc := bitsOf v 2 63 }
  | 0x004 => { t with enul := BitVec.ofNat 2 v.toNat }
  | 0x005 => { t with ecause := bitsOf v 0 4 + bitsOf v 8 21 }
  | 0x006 => { t with eval := v }
  | 0x007 => { t with tvec := bitsOf v 3 63 }
  | 0x032 => { t with bankqSel := BitVec.ofNat 3 v.toNat }
  | 0x050 => { t with srkey := BitVec.ofNat 32 v.toNat }
  | 0x051 => { t with srctr := BitVec.ofNat 32 v.toNat }
  | 0x052 => { t with cvtovf := v.getLsbD 0 }
  | 0x053 => { t with fflags := BitVec.ofNat 5 v.toNat }
  | 0x800 => { t with sscratch := v }
  | 0x801 => { t with elc := v }
  | 0x802 => { t with elblk := bitsOf v 0 0 + bitsOf v 3 63 }
  | 0x803 => { t with erst := v }
  | 0x810 => { t with asid := BitVec.ofNat 9 v.toNat }
  | 0x811 => { t with root := BitVec.ofNat 35 (v.toNat / 2 ^ 17) }
  | _ => t
/-- What SYSW writes in its core. -/
def sysregCore (priv : Bool) (n : Nat) (v : Word) (k : Core) : Core :=
  let byte (i : Nat) : Byte := BitVec.ofNat 8 (max 1 (v.toNat / 2 ^ (8 * i) % 2 ^ 8))
  let floor : BitVec 2 := if priv then BitVec.ofNat 2 (v.toNat / 4) else k.bwfloor
  match n with
  | 0x021 => { k with allow := #v[byte 0, byte 1, byte 2] }
  | 0x028 => { k with bmask := vPut k.bmask 0 (bitsOf v 0 1 + bitsOf v 8 51) }
  | 0x029 => { k with bmask := vPut k.bmask 1 (bitsOf v 0 1 + bitsOf v 8 51) }
  | 0x02A => { k with bmask := vPut k.bmask 2 (bitsOf v 0 1 + bitsOf v 8 51) }
  | 0x02B => { k with bmask := vPut k.bmask 3 (bitsOf v 0 1 + bitsOf v 8 51) }
  | 0x02C => { k with bmask := vPut k.bmask 4 (bitsOf v 0 1 + bitsOf v 8 51) }
  | 0x02D => { k with bmask := vPut k.bmask 5 (bitsOf v 0 1 + bitsOf v 8 51) }
  | 0x02E => { k with bmask := vPut k.bmask 6 (bitsOf v 0 1 + bitsOf v 8 51) }
  | 0x02F => { k with bmask := vPut k.bmask 7 (bitsOf v 0 1 + bitsOf v 8 51) }
  | 0x030 => { k with peermask := bitsOf v 0 4 + bitsOf v 8 17 + bitsOf v 20 29 }
  | 0x031 => { k with bwfloor := floor, bwph := BitVec.ofNat 2 (max (v.toNat % 4) floor.toNat) }
  | 0x060 => if priv then { k with kcfg := bitsOf v 0 12 + bitsOf v 16 20 + bitsOf v 24 28 + bitsOf v 32 43 + bitsOf v 48 59 } else k
  | 0x061 => { k with kretry := BitVec.ofNat 3 v.toNat }
  | 0x804 => { k with door := k.door && !v.getLsbD 1 }
  | 0x805 => { k with ienab := BitVec.ofNat 2 v.toNat }
  | 0x806 => { k with tcmp := v }
  | _ => k
/-- A context is within an instruction that has issued and is not complete, an MZERO or a WFI, and so at no boundary (R170, R272): neither
is one of the waiting instructions that R33 and R266 name. -/
def Within (t : Ctx) : Prop := (∃ p i, t.wait = .zero p i) ∨ t.wait = .wfi
/-- A stop is taken before anything else at a context's boundary (R33): one is pending, and the context issues in U mode, discardable;
not while its core is halted (R358), and not once the supply has failed (R332). -/
def StopsFirst (s : State) (c : CoreId) (j : CtxId) : Prop :=
  let t := ctxAt s c j
  (coreAt s c).stopReq ≠ .none ∧ t.run = .on ∧ t.status.getLsbD 2 = false ∧ t.status.getLsbD 6 = false ∧
    (coreAt s c).dbg.halt = false ∧ s.hub.stopped = false ∧ ¬Within t
/-- The region is no longer discardable; in S mode ND does not change (R32, R261). -/
def endsDiscard (t : Ctx) : Ctx := if t.status.getLsbD 2 then t else { t with status := putBit t.status 6 true }

/-! ### Memory instructions (R85–R90, R149–R159, R273–R275) -/

/-- The issuing core. -/
abbrev curCore (s : State) : Core := coreAt s s.cur.1
/-- An access of the issuing context that meets no watchpoint and passes the checks of Table 7.1: it reaches a place. -/
def Reaches (s : State) (kind : AccKind) (ea : Word) (size : Nat) (p : Place) : Prop :=
  watched s s.cur.1 s.cur.2 (kindReads kind) kind.writes ea size = none ∧
    place s (whoOf s s.cur.1 s.cur.2) kind ea size size = .ok p
/-- One that Table 7.1 faults. -/
def Faults (s : State) (kind : AccKind) (ea : Word) (size : Nat) (t : TrapInfo) : Prop :=
  watched s s.cur.1 s.cur.2 (kindReads kind) kind.writes ea size = none ∧
    place s (whoOf s s.cur.1 s.cur.2) kind ea size size = .fault t
/-- The state after the reads of the page walk that an access of the issuing context may make (R294): it changes no register, and of
the rest only what those reads change (R54, R89). -/
def walkedBy (s : State) (kind : AccKind) (ea : Word) : State := walked s (whoOf s s.cur.1 s.cur.2) kind ea
/-- An instruction that raises a fault, with no effect but the reads of its page walk. -/
def RaisesAfter (s : State) (i : Instr) (kind : AccKind) (ea : Word) (t : TrapInfo) : Prop :=
  exec i s = .next (raiseTrap (walkedBy s kind ea) s.cur.1 s.cur.2 t)
/-- Nothing buffered is held at a frozen window. -/
def Unheld (s : State) : Prop := buffersHeld s s.cur.1 s.cur.2 = false
/-- No put of the context is on its way to a merge unit. -/
def PutsArrived (s : State) : Prop := putsTravel s s.cur.1 s.cur.2 = false
/-- A load ends with its value, extended by `ext`, in x[d]; with Access, POISON = 1, where its bytes are poisoned (R284); with
the fault of its checks otherwise. `r` performs it, after the reads of its page walk. -/
def Loads (s : State) (i : Instr) (stl : Stl) (d : Reg) (ea : Word) (size : Nat) (ext : Nat → Word)
    (r : State → Place → State × List Byte × Bool) : Prop :=
  let w := walkedBy s .load ea
  (∀ p, Reaches s .load ea size p → Unheld s →
    ((r w p).2.2 = false → Completes s i stl (onCtx (r w p).1 fun t => putX t d (ext (leNat (r w p).2.1)))) ∧
    ((r w p).2.2 = true → Raises s i ⟨.access, 0#8, false, true, ea⟩)) ∧
  (∀ t, Faults s .load ea size t → RaisesAfter s i .load ea t)
/-- Sign extension of an n-bit number. -/
def signed (n : Nat) (v : Nat) : Word := (BitVec.ofNat n v).signExtend 64
/-- Zero extension. -/
def plain (v : Nat) : Word := BitVec.ofNat 64 v
/-- The low `n` bytes of a number, least significant first. -/
def lowBytes (n v : Nat) : List Byte := (List.range n).map fun i => BitVec.ofNat 8 (v / 256 ^ i)
/-- The region that an entry of the store buffer belongs to: none for S mode, whose stores are never discarded (R261; log 21). -/
def entryEpoch (t : Ctx) : Nat := if t.status.getLsbD 2 then 0 else t.epoch + 1
/-- A store enters the context's store buffer as its youngest entry, with the translation that it keeps. -/
def buffered (p : Place) (bs : List Byte) (rel : Bool) (sc : Scope) (cnt : Bool) (pin : Option TlbEntry) (t : Ctx) : Ctx :=
  { t with sbuf := t.sbuf ++ [.store p bs rel sc cnt (entryEpoch t) pin] }
/-- The translation of its address that a store of the issuing context keeps until it drains: a TLBINV waits for it (R298, R303). -/
def keeps (s : State) (ea : Word) : Option TlbEntry := storePin (walkedBy s .store ea) s.cur.1 s.cur.2 ea
/-- A byte of a core's L1, by line and offset. -/
def l1Entry (s : State) (c : CoreId) (line o : Nat) (b : L1Byte) : Prop :=
  ∃ l, l1Line (coreAt s c) line = some l ∧ (o, b) ∈ l.bytes
/-- Core `c` holds the address `a` dirty in its L1 with a stamp of at most `n`, in one copy. -/
def HoldsDirty (s : State) (c : CoreId) (a : Nat) (v : Byte) (n : Nat) : Prop :=
  ∃ st ≤ n, l1Entry s c (a / 256) (a % 256) ⟨v, some st⟩ ∧
    ∀ l ∈ (coreAt s c).l1, ∀ e ∈ l.bytes, l.line * 256 + e.1 = a → e.2 = ⟨v, some st⟩
/-- Every copy of a byte that an L1 holds is clean. -/
def CleanEverywhere (s : State) (a : Nat) : Prop :=
  ∀ c, ∀ l ∈ (coreAt s c).l1, ∀ e ∈ l.bytes, l.line * 256 + e.1 = a → e.2.dirty = none
/-- The homes of `t` hold what those of `s` hold but for write-backs of dirty bytes. -/
def HomesKept (s t : State) : Prop := ∀ a, CleanEverywhere s a → homeByte t a = homeByte s a
/-- No fence waits in the context's store buffer. -/
def NoFence (s : State) : Prop := ∀ it ∈ (curCtx s).sbuf, ∃ p bs rel sc cnt e pin, it = .store p bs rel sc cnt e pin
/-- The sum, or the choice, that an AMO makes (Table 7.3), performed in the state `e` after the late loads of its bytes. -/
def amoMade (s : State) (far dw : Bool) (ord : MemOrder) (b : Reg) (f : (w : Nat) → BitVec w → BitVec w → BitVec w) (e : State)
    (p : Place) : State × List Byte × Bool :=
  let w := if dw then 64 else 32
  let n := if dw then 8 else 4
  atomicAt (performOverlaps e s.cur.1 s.cur.2 p n) s.cur.1 s.cur.2 p n far (ord = .acq ∨ ord = .ar) (ord = .rel ∨ ord = .ar) fun old =>
    some (lowBytes n (f w (BitVec.ofNat w (leNat old)) (BitVec.ofNat w (reads s b).toNat)).toNat)
/-- An atomic completes: x[d] receives the old value, sign-extended, and the region is no longer discardable (R157, R32). -/
def Atomically (s : State) (i : Instr) (stl : Stl) (dw : Bool) (ord : MemOrder) (d a : Reg)
    (r : State → Place → State × List Byte × Bool) : Prop :=
  let ea := reads s a
  let size := if dw then 8 else 4
  let w := walkedBy s .atomic ea
  (∀ p, Reaches s .atomic ea size p → Unheld s → ((ord = .rel ∨ ord = .ar) → PutsArrived s) →
    ((r w p).2.2 = false → Completes s i stl
      (onCtx (r w p).1 fun t => putX (endsDiscard t) d (signed (8 * size) (leNat (r w p).2.1)))) ∧
    ((r w p).2.2 = true → Raises s i ⟨.access, 0#8, false, true, ea⟩)) ∧
  (∀ t, Faults s .atomic ea size t → RaisesAfter s i .atomic ea t)
/-- Two numbers of `w` bits, the lesser or the greater as signed or unsigned numbers. -/
def pick (lt : Bool) {w : Nat} (x y : BitVec w) : BitVec w := if lt then x else y

/-! ### Barriers, phases, quiescence, sleep (R23–R29, R34, R94, R160, R161) -/

/-- An instruction that waits has no effect, where no stop finds it (R33). -/
def Waits (s : State) (i : Instr) : Prop := stopDue s s.cur.1 s.cur.2 = false → exec i s = .next s
/-- No stop is due for the issuing context. -/
def NoStop (s : State) : Prop := stopDue s s.cur.1 s.cur.2 = false
/-- An instruction of ctx0 alone raises Context Class in a charm, with its word (R20). -/
def Ctx0Only (s : State) (i : Instr) : Prop := s.cur.2 ≠ 0 → Raises s i (wordFault .contextClass i)
/-- 1 for a set bit of a byte of channels, else 0. -/
def chan (v : Byte) (k : BitVec 3) : Nat := bitAt (v.setWidth 64) k.toNat
/-- The count of core m is not behind what core c needs to advance, at a level whose ALLOW is `a` (R24). -/
def NotBehind (s : State) (c m : CoreId) (a : Byte) : Prop :=
  ((coreAt s m).phase - ((coreAt s c).phase + 1#32 - BitVec.ofNat 32 a.toNat)).toNat < 2 ^ 31
/-- Core m lies in c's domain of a level (R24). -/
def SameDomain (s : State) (level : Nat) (c m : CoreId) : Prop :=
  let x := (coreAt s c).lcore.toNat
  let y := (coreAt s m).lcore.toNat
  (level = 0 ∧ x / 8 = y / 8) ∨ (level = 1 ∧ x / 256 = y / 256) ∨ level = 2
/-- Every gate of PHASE is open. -/
def GatesOpen (s : State) (c : CoreId) : Prop :=
  ∀ level : Fin 3, (coreAt s c).allow.get level = 255#8 ∨
    ∀ m ∈ teamCores s c, SameDomain s level.val c m → NotBehind s c m ((coreAt s c).allow.get level)
/-- The sum of a count over the cores of a team. -/
def teamSum (s : State) (c : CoreId) (f : Core → Word32) : Word32 := (teamCores s c).foldl (fun n m => n + f (coreAt s m)) 0#32

/-! ### Vector instructions (R174–R190) -/

/-- Lane i of width w of a vector register, as a number. -/
def lane (w : Nat) (v : VWord) (i : Nat) : Nat := v.toNat / 2 ^ (w * i) % 2 ^ w
/-- A number of w bits as a signed integer. -/
def asInt (w n : Nat) : Int := if n < 2 ^ (w - 1) then n else n - 2 ^ w
/-- An integer clamped to w bits (R61). -/
def clamp (w : Nat) (v : Int) : Int := max (-2 ^ (w - 1)) (min v (2 ^ (w - 1) - 1))
/-- Width of the elements of a type. -/
def widthOf : VType → Nat | .f32 => 32 | .bf16 => 16 | .i32 => 32 | .i16 => 16 | .i8 => 8
/-- The streams that an instruction with these vector operands pops, updates and pushes. -/
abbrev vstreams (s : State) (o : VOps) : List (BitVec 2 × StreamDir) := streamUses s s.cur.1 o
/-- The state after the reads of its popped and updated streams; with none of its operands bound, the state itself. -/
abbrev afterPops (s : State) (o : VOps) : State := (streamRead s s.cur.1 s.cur.2 (vstreams s o)).1
/-- The value of a vector source: the group popped from its stream, or the register. -/
def vin (s : State) (o : VOps) (r : Reg) : VWord :=
  match boundStream s s.cur.1 r with
  | some k => (((streamRead s s.cur.1 s.cur.2 (vstreams s o)).2.1.find? (·.1 == k)).map (·.2)).getD 0#512
  | none => readV s s.cur.1 (curCtx s) r
/-- The value of the destination before the instruction: the register's, a group loaded for an update, zero for a push. -/
def vbefore (s : State) (o : VOps) : VWord :=
  match o.dst with
  | none => 0#512
  | some d =>
    if (boundStream s s.cur.1 d).isSome then (if o.upd then vin s o d else 0#512)
    else if o.upd then vin s o d else vreg (curCore s) d
/-- A vector instruction goes on: it is in ctx0, no register of its operands is read early under SCHK = 1, every stream of it has
its group and nothing popped is poisoned. `rs` are its registers beside the vector operands. -/
def VecGoes (s : State) (i : Instr) (rs : List Nat) (o : VOps) : Prop :=
  s.cur.2 = 0 ∧
  NoUnderrun s (rs ++ ((o.srcs ++ if o.upd then o.dst.toList else []).filter fun r => (boundStream s s.cur.1 r).isNone).map nv) ∧
  streamStop s s.cur.1 s.cur.2 (wordOf i) (vstreams s o) = none ∧ (streamRead s s.cur.1 s.cur.2 (vstreams s o)).2.2 = none
/-- It completes: `e` is its effect beside its vector result `v`, which goes to its register with a latency, or to its stream;
its streams then step once each (R189). -/
def VecDoes (s : State) (i : Instr) (stl : Stl) (o : VOps) (lat : Nat) (e : State) (v : VWord) : Prop :=
  Completes s i stl ((vstreams s o).foldl (fun s' u => streamStep s' s.cur.1 s.cur.2 u.1 u.2) (vResult e s.cur.1 s.cur.2 o lat v))
/-- The mask of an instruction as it reads it (R174, R175). -/
def vmask (s : State) (o : VOps) (m : MReg) : Word := maskOf (afterPops s o) s.cur.1 s.cur.2 m
/-- `fl` holds exactly the flags that `f` raises at the active elements below n (R176). -/
def FlagsOf (n : Nat) (m : Word) (f : Nat → FFlags) (fl : FFlags) : Prop :=
  ∀ k, fl.getLsbD k = true ↔ ∃ i < n, m.getLsbD i = true ∧ (f i).getLsbD k = true
/-- Flags join FFLAGS; `more` is what else changes in the context. -/
def withFlags (s : State) (o : VOps) (fl : FFlags) (more : Ctx → Ctx) : State :=
  onCtx (afterPops s o) fun t => more { t with fflags := t.fflags ||| fl }
/-- An element-wise instruction (R175): active elements of width w receive `f`, modulo 2^w, inactive ones keep the destination's;
`f` also says which flags each raises. -/
def Lanewise (s : State) (i : Instr) (stl : Stl) (w : Nat) (rs : List Nat) (o : VOps) (m : MReg) (lat : Nat)
    (f : Nat → Int × FFlags) : Prop :=
  VecGoes s i rs o → ∃ v fl,
    (∀ k < 512 / w, (lane w v k : Int) = if (vmask s o m).getLsbD k then (f k).1 % 2 ^ w else lane w (vbefore s o) k) ∧
    FlagsOf (512 / w) (vmask s o m) (fun k => (f k).2) fl ∧ VecDoes s i stl o lat (withFlags s o fl id) v
/-- What a float operation gives for an element. -/
def ofFloat (r : FRes) : Int × FFlags := (r.bits, r.flags)
/-- What an integer operation gives: no flags (R68). -/
def ofInt' (v : Int) : Int × FFlags := (v, 0#5)
/-- The tree of R77 over 2^n leaves from number `lo`: neighbours combine first. -/
def treeOf (f : Leaf32 → Leaf32 → Leaf32) (leaf : Nat → Leaf32) : Nat → Nat → Leaf32
  | 0, lo => leaf lo
  | n + 1, lo => f (treeOf f leaf n lo) (treeOf f leaf n (lo + 2 ^ n))
/-- A float reduction (R178): element 0 receives the root of the tree, the rest of the register zero; every flag raised in the
tree joins FFLAGS. -/
def ReducesFloat (s : State) (i : Instr) (stl : Stl) (n : Nat) (o : VOps) (m : MReg) (leaf : Nat → Leaf32) (neutral : Word32)
    (f : Word32 → Word32 → Word32 × FFlags) : Prop :=
  VecGoes s i [nm m] o →
    let r := treeOf (fun x y => ((f x.1 y.1).1, x.2 ||| y.2 ||| (f x.1 y.1).2))
      (fun k => if (vmask s o m).getLsbD k then leaf k else (neutral, 0#5)) n 0
    VecDoes s i stl o 4 (withFlags s o r.2 id) (BitVec.ofNat 512 r.1.toNat)
/-- The active elements of a mask below n, in ascending order. -/
def actives (n : Nat) (m : Word) : List Nat := (List.range n).filter fun i => m.getLsbD i
/-- An integer reduction: the result of the active elements' values by `f` from `z`, in element 0, 32 bits wide. -/
def ReducesInt (s : State) (i : Instr) (stl : Stl) (w : Nat) (o : VOps) (m : MReg) (val : Nat → Int) (z : Int)
    (f : Int → Int → Int) : Prop :=
  VecGoes s i [nm m] o →
    VecDoes s i stl o 4 (afterPops s o)
      (BitVec.ofNat 512 (((actives (512 / w) (vmask s o m)).map val).foldl f z % 2 ^ 32).toNat)
/-- A conversion of n elements from width ws to width wd (R179): elements of the destination from n on are zero; an SR conversion
draws once for each element and advances SRCTR by n (R66). -/
def Converts (s : State) (i : Instr) (stl : Stl) (rm : RMode) (d a : Reg) (m : MReg) (ws wd n : Nat)
    (f : Nat → Nat → Int × FFlags) : Prop :=
  let o : VOps := ⟨[a], some d, false⟩
  VecGoes s i [nm m] o → ∃ v fl,
    let g (k : Nat) := f ((genG (curCtx s).srkey ((curCtx s).srctr + BitVec.ofNat 32 k)).toNat % 2 ^ 16) (lane ws (vin s o a) k)
    (∀ k < n, (lane wd v k : Int) = if (vmask s o m).getLsbD k then (g k).1 % 2 ^ wd else lane wd (vbefore s o) k) ∧
    (∀ k, n ≤ k → lane wd v k = 0) ∧ FlagsOf n (vmask s o m) (fun k => (g k).2) fl ∧
    VecDoes s i stl o 4 (withFlags s o fl fun t => { t with srctr := if rm = .sr then t.srctr + BitVec.ofNat 32 n else t.srctr }) v
/-- A comparison (R181): a bit for each active element where `rel` holds; the rest of the mask is zero. -/
def Compares (s : State) (i : Instr) (stl : Stl) (w : Nat) (k : MReg) (a b : Reg) (m : MReg) (rel : Nat → Nat → Bool × FFlags) : Prop :=
  let o : VOps := ⟨[a, b], none, false⟩
  VecGoes s i [nm m] o → ∃ r fl,
    let g (x : Nat) := rel (lane w (vin s o a) x) (lane w (vin s o b) x)
    (∀ x, r.getLsbD x = true ↔ x < 512 / w ∧ (vmask s o m).getLsbD x = true ∧ (g x).1 = true) ∧
    FlagsOf (512 / w) (vmask s o m) (fun x => (g x).2) fl ∧
    VecDoes s i stl o 4 (writeM (withFlags s o fl id) s.cur.1 s.cur.2 k 4 r) 0#512
/-- Integer relations (R181). -/
def intRel (w : Nat) (rel : IRel) (x y : Nat) : Bool :=
  match rel with
  | .eq => x = y | .ne => x ≠ y
  | .lt => asInt w x < asInt w y | .le => asInt w x ≤ asInt w y | .gt => asInt w y < asInt w x | .ge => asInt w y ≤ asInt w x
  | .ltu => x < y | .geu => y ≤ x
/-- A load of `n` bytes into element `i` of v[d]: performed as it issues where v[d] is a stream, else at once or later (R84; log 4). -/
def loadsElement (s : State) (d : Reg) (p : Place) (n i : Nat) : State × List Byte × Bool :=
  if (boundStream s s.cur.1 d).isSome then loadPlain (performOverlaps s s.cur.1 s.cur.2 p n) s.cur.1 s.cur.2 p n
  else issueLoad s s.cur.1 s.cur.2 p n (.lane d (8 * n) i)
/-- The loads of an element-wise access into v[d], in ascending order of its active elements: `got` are the values (R186). -/
def Gathers (d : Reg) (n : Nat) : List (Nat × Word) → State → State → List (Nat × Nat) → Prop
  | [], s, t, got => t = s ∧ got = []
  | (i, ea) :: r, s, t, got => ∃ p rest, place s (whoOf s s.cur.1 s.cur.2) .load ea n n = .ok p ∧
      let l := loadsElement (walkedBy s .load ea) d p n i
      l.2.2 = false ∧ Gathers d n r l.1 t rest ∧ got = (i, leNat l.2.1) :: rest
/-- The first element of such loads that faults, those before it having been loaded: its address `a` and its fault `f` (R186). -/
def GatherFails (d : Reg) (n : Nat) : List (Nat × Word) → State → Word → TrapInfo → Prop
  | [], _, _, _ => False
  | (i, ea) :: r, s, a, f =>
    (place s (whoOf s s.cur.1 s.cur.2) .load ea n n = .fault f ∧ a = ea) ∨
    (∃ p, place s (whoOf s s.cur.1 s.cur.2) .load ea n n = .ok p ∧
      let l := loadsElement (walkedBy s .load ea) d p n i
      l.2.2 = false ∧ GatherFails d n r l.1 a f)
/-- The stores of an element-wise access, in ascending order; one that faults leaves those before it performed (R186). -/
def Scatters (n : Nat) (v : Nat → Nat) : List (Nat × Word) → State → State → Option TrapInfo → Prop
  | [], s, t, f => t = s ∧ f = none
  | (i, ea) :: r, s, t, f =>
    (∃ p, place s (whoOf s s.cur.1 s.cur.2) .store ea n n = .ok p ∧
      Scatters n v r (onCtx (performOverlaps (walkedBy s .store ea) s.cur.1 s.cur.2 p n) (buffered p (lowBytes n (v i)) false .pkg false (keeps s ea)))
        t f) ∨
    (∃ tr, place s (whoOf s s.cur.1 s.cur.2) .store ea n n = .fault tr ∧ t = walkedBy s .store ea ∧ f = some tr)
/-- No watchpoint covers an element. -/
def Unwatched (s : State) (rd wr : Bool) (n : Nat) (eas : List (Nat × Word)) : Prop :=
  ∀ e ∈ eas, watched s s.cur.1 s.cur.2 rd wr e.2 n = none
/-- An element-wise load (R185, R186): `ea` are the addresses of the elements. One that faults at an element delivers nothing. -/
def LoadsLanes (s : State) (i : Instr) (stl : Stl) (w : Nat) (rs : List Nat) (o : VOps) (m : MReg) (ea : Nat → Word) : Prop :=
  let eas := (actives (512 / w) (vmask s o m)).map fun k => (k, ea k)
  VecGoes s i rs o → readHeld s s.cur.1 s.cur.2 = false → Unwatched (afterPops s o) true false (w / 8) eas →
  ∀ d, o.dst = some d →
    (∀ t got, Gathers d (w / 8) eas (afterPops s o) t got → ∃ v,
      (∀ k < 512 / w, (∀ x, (k, x) ∈ got → lane w v k = x) ∧
        ((vmask s o m).getLsbD k = false → lane w v k = lane w (vbefore s o) k)) ∧ VecDoes s i stl o 1 t v) ∧
    (∀ a f, GatherFails d (w / 8) eas (afterPops s o) a f →
      exec i s = .next (raiseTrap (walkedBy (afterPops s o) .load a) s.cur.1 s.cur.2 f))
/-- An element-wise store of the elements of v[d]. -/
def StoresLanes (s : State) (i : Instr) (stl : Stl) (w : Nat) (rs : List Nat) (o : VOps) (m : MReg) (d : Reg) (ea : Nat → Word) :
    Prop :=
  let eas := (actives (512 / w) (vmask s o m)).map fun k => (k, ea k)
  VecGoes s i rs o → Unwatched (afterPops s o) false true (w / 8) eas →
  ∀ t f, Scatters (w / 8) (lane w (vin s o d)) eas (afterPops s o) t f →
    (f = none → VecDoes s i stl o 1 t 0#512) ∧
    (∀ tr, f = some tr → exec i s = .next (raiseTrap t s.cur.1 s.cur.2 tr))
/-- Address of element i of a strided access, and of an indexed one. -/
def stridedAt (s : State) (o : VOps) (a b : Reg) (i : Nat) : Word :=
  BitVec.ofNat 64 ((reads (afterPops s o) a).toNat + i * (reads (afterPops s o) b).toNat)
def indexedAt (s : State) (o : VOps) (a b : Reg) (w i : Nat) : Word :=
  BitVec.ofNat 64 ((reads (afterPops s o) a).toNat + lane w (vin s o b) i * (w / 8))

/-! ### Rings and streams (R187–R190, R211–R213) -/

/-- A ring's slot number. -/
def slotNumber (r : Ring) : Nat := if r.side then r.head else r.tail
/-- What RBIND's operands must keep, for a binding (R211): a window offset of the core's own scratchpad, the slot size, the count,
the grant. -/
def Bindable (s : State) (base size count : Word) (off : Nat) : Prop :=
  let slot := size.toNat % 2 ^ 32
  let n := count.toNat % 2 ^ 16
  let va := base.toNat
  ((va / 2 ^ 19 = 2 * 2 ^ 37 ∧ off = va % 2 ^ 19) ∨
    (va / 2 ^ 29 = 2 ^ 27 ∧ va / 2 ^ 19 % 2 ^ 10 = (curCore s).lcore.toNat ∧ off = va % 2 ^ 19)) ∧
  slot % 16 = 0 ∧ 16 ≤ slot ∧ slot ≤ 65536 ∧ n ≤ 4096 ∧ off % 16 = 0 ∧ off + n * slot ≤ (curCore s).grant * 8192
/-- The slot index and counts after a slot has gone back (R212); `rel` is the stamp of the release, the model's own. -/
def Returned (r r' : Ring) : Prop :=
  r' = { r with held := r'.held, head := r'.head, tail := r'.tail, free := r'.free, filled := r'.filled, rel := r'.rel } ∧ r'.held = false ∧
  (r.side = true → r'.head = (r.head + 1) % r.count ∧ r'.tail = r.tail ∧ r'.free = r.free - 1 ∧ r'.filled = r.filled + 1) ∧
  (r.side = false → r'.tail = (r.tail + 1) % r.count ∧ r'.head = r.head ∧ r'.filled = r.filled - 1 ∧ r'.free = r.free + 1)
/-- The state after SUNBIND's unbinding, or SBIND's: discardability ends where a slot was released (R188, R32). -/
def unbound (s : State) (k : BitVec 2) : State :=
  let r := unbindStream s s.cur.1 s.cur.2 k
  if r.2 then onCtx r.1 endsDiscard else r.1
/-- v[28 + k] of the core. -/
def streamReg (k : BitVec 2) : Reg := BitVec.ofNat 5 (28 + k.toNat)
/-- The binding of v[28 + k] is `b` and the register itself is zero. -/
def boundAs (k : BitVec 2) (b : Stream) (q : Core) : Core := putV { q with streams := vPut q.streams k.toFin b } (streamReg k) 0#512

/-! ### The matrix engine (R191–R200, R330) -/

/-- The engine that serves the issuing core. -/
abbrev engineOf (s : State) : Engine := engineAt s (clusterOf s s.cur.1)
/-- The issuing core holds its engine's lease with a count left. -/
def Leased (s : State) : Prop := (engineOf s).holder = some s.cur.1 ∧ 0 < (engineOf s).count
/-- A job id (R193): the sequence number and the logical cluster. -/
def jobNumber (s : State) (seq : Word32) : Word :=
  BitVec.ofNat 64 (seq.toNat + lclusOf s (clusterOf s s.cur.1) % 2 ^ 7 * 2 ^ 32)
/-- One count of the lease is used; the lease ends with its last (R192). -/
def Spent (c : CoreId) (e e' : Engine) : Prop :=
  e'.count = e.count - 1 ∧ e'.holder = (if e.count = 1 then none else some c) ∧ e'.used = (if e.count = 1 then 0 else e.used + 1)
/-- The commands of a gang that are accepted and not completed, by cluster and number. -/
def pendingIn (s : State) (g : ClusterId) : List (Nat × Word32) :=
  (gangOf g).flatMap fun x => (engineAt s x).queue.map fun q => (x.val, q.seq)
/-- The commands of its gang that a command comes after: those pending as it is accepted, for one of strip 0 that all four engines carry
out (R193, R199). -/
def comesAfter (s : State) (op : MOp) : List (Nat × Word32) :=
  if (engineOf s).strip = some 0#2 ∧ isGanged op = true then pendingIn s (clusterOf s s.cur.1) else []
/-- A matrix command is accepted: it enters the queue with the next sequence number, one count is used, discardability ends, all
that the context has buffered is released, and x[d] receives its job id. Its ring, where it names one, is fit for it. It waits for a
place in a queue of sixteen. -/
def Commands (s : State) (i : Instr) (stl : Stl) (rs : List Nat) (gangs : Option (BitVec 2) → Prop) (ring : Option (BitVec 3)) (d : Reg)
    (op : MOp) : Prop :=
  let fit := ∀ r, ring = some r → (ringAt s s.cur.1 r).bound = true ∧ (ringAt s s.cur.1 r).strm = false ∧ (ringAt s s.cur.1 r).slot % 64 = 0
  NoUnderrun s rs → s.cur.2 = 0 →
    (¬Leased s ∨ ¬gangs (engineOf s).strip → Raises s i (wordFault .leaseState i)) ∧
    (Leased s → gangs (engineOf s).strip → ¬fit → Raises s i (wordFault .ringMisuse i)) ∧
    (Leased s → gangs (engineOf s).strip → fit → 16 ≤ (engineOf s).queue.length → exec i s = .next s) ∧
    (Leased s → gangs (engineOf s).strip → fit → (engineOf s).queue.length < 16 → Unheld s → PutsArrived s →
      ∃ e, Completes s i stl (onCtx e fun t => putX t d (jobNumber s ((engineOf s).seq + 1#32))) ∧
        (∃ q, (engineAt e (clusterOf s s.cur.1)).queue = (engineOf s).queue ++ [q] ∧ q.op = op ∧ q.seq = (engineOf s).seq + 1#32 ∧
          q.who = whoOf s s.cur.1 s.cur.2 ∧ q.buf = [] ∧ q.suspended = false ∧ q.ahead = comesAfter s op) ∧
        (engineAt e (clusterOf s s.cur.1)).seq = (engineOf s).seq + 1#32 ∧ Spent s.cur.1 (engineOf s) (engineAt e (clusterOf s s.cur.1)) ∧
        (engineAt e (clusterOf s s.cur.1)).wb = (engineOf s).wb ∧ (engineAt e (clusterOf s s.cur.1)).vb = (engineOf s).vb ∧
        (curCtx e).x = (curCtx s).x ∧ (curCtx e).sbuf = [] ∧ (curCtx e).status = (endsDiscard (curCtx s)).status)
/-- The head command of an engine has begun: what its kick covers has been written back by the submitting core (R92). -/
def begunCmd (s : State) (g : ClusterId) (q : MCmd) : State :=
  if q.started then s
  else modEngine (writeBackAll s q.who.core (some q.stamp)) g fun e => { e with queue := { q with started := true } :: e.queue.tail }
/-- Outside a gang, or in it as strip 0. -/
def lead (g : Option (BitVec 2)) : Prop := g = none ∨ g = some 0#2
/-- One word of a bank. -/
def bankWord (m : SMap Word32) (row n : Nat) : Word32 := sGet 0#32 m (row * 128 + n)
/-- The signed byte, and the BF16 code, at an element of a stream. -/
def byteAt (bs : List Byte) (i : Nat) : Int := (bs.getD i 0#8).toInt
def bf16At (bs : List Byte) (i : Nat) : BitVec 16 := bs.getD (2 * i + 1) 0#8 ++ bs.getD (2 * i) 0#8
/-- The chain of R78: one fused step for each product, from +0. -/
def fmaChain (a w : Nat → BitVec 16) : Nat → Word32
  | 0 => 0#32
  | k + 1 => (fmaF32 (a k ++ 0#16) (w k ++ 0#16) (fmaChain a w k)).1

/-! ### The copy unit (R201–R210) -/

/-- The copy unit that serves the issuing core. -/
abbrev copyUnit (s : State) : Cluster := clusterAt s (clusterOf s s.cur.1)
/-- A job is accepted: it stands last in its unit's queue with the next number, and in the context's open batch; all that the
context has buffered is released, discardability ends and x[d] receives the job id. -/
def Submits (s : State) (i : Instr) (stl : Stl) (d : Reg) (form : CopyForm) (mode : RMode) (capture : Option (Word32 × Word32))
    (va : Word) (desc : BitVec 512) (ctr : Word32) : Prop :=
  ∃ e, Completes s i stl (onCtx e fun t => putX t d (jobNumber s ((copyUnit s).copySeq + 1#32))) ∧
    (clusterAt e (clusterOf s s.cur.1)).copySeq = (copyUnit s).copySeq + 1#32 ∧
    (∃ st, (clusterAt e (clusterOf s s.cur.1)).jobs = (copyUnit s).jobs ++
      [{ seq := (copyUnit s).copySeq + 1#32, form := form, who := whoOf s s.cur.1 s.cur.2, stamp := st, started := false
         suspended := false, mode := mode, key := (curCtx s).srkey, ctr := (curCtx s).srctr, capture := capture, descVa := va
         desc := desc, row := 0, idx := 0, ovf := 0, rowOvf := false, buffer := [], status := 0 }]) ∧
    (curCtx e).openJobs = (curCtx s).openJobs ++ [(copyUnit s).copySeq + 1#32] ∧ (curCtx e).srctr = ctr ∧ (curCtx e).x = (curCtx s).x ∧
    (curCtx e).sbuf = [] ∧ (curCtx e).status = (endsDiscard (curCtx s)).status
/-- The unit has room and nothing holds the submission up. -/
def Room (s : State) : Prop := (copyUnit s).jobs.length < 64 ∧ Unheld s ∧ PutsArrived s
/-- The batches of a context that are not finished: from the first that has an open job on (R209). -/
def openBatches (s : State) (bs : List (List Word32)) : List (List Word32) :=
  bs.dropWhile fun b => !b.any fun n => (copyUnit s).jobs.any fun x => x.seq == n && x.who.core == s.cur.1
/-- The job of a number at a unit, and the unit with it replaced. -/
def JobIs (s : State) (g : ClusterId) (b : CopyJob) : Prop := (clusterAt s g).jobs.find? (·.seq == b.seq) = some b

/-! ### Merge windows (R162–R173) -/

/-- x[a] names the merge window at physical address pa: as a store of its 64 bytes it passes the checks of Table 7.1 (R162, R164,
R165). -/
def WindowAt (s : State) (a : Reg) (pa : Nat) : Prop := ∃ u, Reaches s .merge (reads s a) 64 (.mem pa u)
/-- The state after the page walk of the window's address. -/
abbrev atWindow (s : State) (a : Reg) : State := walkedBy s .merge (reads s a)
/-- The state after the release that a merge instruction makes to its unit (R92). -/
abbrev toUnit (s : State) (a : Reg) : State := releaseToUnit (atWindow s a) s.cur.1 s.cur.2
/-- A merge instruction completes: `u` is what its unit made of the package, d receives `v`, and discardability ends (R32). -/
def Merges (s : State) (i : Instr) (stl : Stl) (u : State) (d : Reg) (v : Nat) : Prop :=
  Completes s i stl (onCtx u fun t => putX (endsDiscard t) d (BitVec.ofNat 64 v))
/-- Fields of a merge descriptor (Table 7.6). -/
def contributor (v : Word) : Nat := v.toNat % 2 ^ 8
def putCount (v : Word) : Nat := v.toNat / 2 ^ 8 % 2 ^ 5
def putOffset (v : Word) : Nat := v.toNat / 2 ^ 16 % 2 ^ 22
def putTag (v : Word) : Nat := v.toNat / 2 ^ 40
def wellPut (v : Word) : Prop := v.toNat / 2 ^ 13 % 2 ^ 3 = 0 ∧ v.toNat / 2 ^ 38 % 2 ^ 2 = 0
/-- The window's generation is the descriptor's. -/
def current (w : MWin) (v : Word) : Prop := putTag v = w.gen.toNat % 2 ^ 24
/-- An element of the bezel: contributor c, element i. -/
def bezelAt (w : MWin) (c i : Nat) : Word32 := sGet 0#32 w.bezel (c * w.g + i)
/-- The norm of a contributor's group and the factor that bounds it (R167): the chain of fused squares, its root, and LIM over it
where it exceeds LIM, else 1. -/
def groupSquares (w : MWin) (c : Nat) : Word32 := (List.range w.g).foldl (fun q i => (fmaF32 (bezelAt w c i) (bezelAt w c i) q).1) 0#32
def groupNorm (w : MWin) (c : Nat) : Fl := unpackFl fmtF32 (sqrtFl (f32 (groupSquares w c))).bits
def groupScaled (w : MWin) (c : Nat) : Bool := ltFl (f32 w.lim) (groupNorm w c)
def groupFactor (w : MWin) (c : Nat) : Word32 :=
  if groupScaled w c then BitVec.ofNat 32 (ratioFl (f32 w.lim) (groupNorm w c)).bits else 0x3F800000#32
/-- The address of an element of the total. -/
def totalVa (w : MWin) (i : Nat) : Word := w.total + BitVec.ofNat 64 (4 * i)
/-- Element i of the total with every contributor's element added in order, one rounding each (R79, R168). -/
def committed (w : MWin) (i : Nat) (old : List Byte) : Word32 :=
  (List.range w.n).foldl (fun t c => (addF32 t (bezelAt w c i)).1) (BitVec.ofNat 32 (leNat old))
/-- +0 is written to element i of the total by the unit of a die, which acts as the context that opened the window (log 98); an element
that cannot be reached stays as it is (log 23). -/
def ZeroesElement (d : DieId) (w : MWin) (i : Nat) (s t : State) : Prop :=
  let s1 := walkedAt s d w.who .store (totalVa w i)
  (∃ p, placeAt s1 d w.who .store (totalVa w i) 4 1 = .ok p ∧ t = hartWrite s1 (.merge d) p [0#8, 0#8, 0#8, 0#8]) ∨
  (∃ f, placeAt s1 d w.who .store (totalVa w i) 4 1 = .fault f ∧ t = s1)
/-- Elements i, i + 1, … of the total, n of them, receive +0. -/
def ZeroesTotal (d : DieId) (w : MWin) : Nat → Nat → State → State → Prop
  | 0, _, s, t => t = s
  | n + 1, i, s, t => ∃ s1, ZeroesElement d w i s s1 ∧ ZeroesTotal d w n (i + 1) s1 t
/-- The window in its next generation (R170). -/
def nextGeneration (w : MWin) : MWin :=
  { w with bezel := [], bezelPoison := [], nan := false, sat := false, scaled := false, clasped := [], gen := w.gen + 1#32, ended := false
           abandon := decide (w.state ≠ 3#2), state := 1#2, elem := 0, suspended := false, zeroer := none
           zeroPin := none }
/-- The unit has written the total's zeros, GEN and the window's other fields at their homes, and holds the window in its next
generation. -/
def zeroedState (d : DieId) (w : MWin) (t : State) : State :=
  setWin (unitWrite (hartFlush t (.merge d)) w.pa (lowBytes 4 (w.gen.toNat + 1))) d (nextGeneration w)
/-- The issuing context stands within an MZERO of window w at its unit, whose next element is i (R170). -/
def ZeroStands (s : State) (w : MWin) (i : Nat) : Prop :=
  (curCtx s).wait = .zero w.pa i ∧ winAt s (paDie s w.pa) w.pa = some w ∧ w.zeroer = some s.cur
/-- The places of a put's source: its bytes pass the checks as one load at x[b], and each element has its place. -/
def SourceAt (s : State) (ea : Word) (n : Nat) (ps : List Place) : Prop :=
  watched s s.cur.1 s.cur.2 true false ea (4 * n) = none ∧ (∃ p, place s (whoOf s s.cur.1 s.cur.2) .load ea (4 * n) 4 = .ok p) ∧
    ps.length = n ∧ ∀ i (h : i < ps.length),
      place (walkedBy s .load ea) (whoOf s s.cur.1 s.cur.2) .load (ea + BitVec.ofNat 64 (4 * i)) 4 4 = .ok ps[i]
/-- Plain loads of four bytes at places, one after the other, none of them poisoned. -/
def ReadsInTurn (c : CoreId) (j : CtxId) : List Place → State → State → List Word32 → Prop
  | [], s, t, vs => t = s ∧ vs = []
  | p :: ps, s, t, vs => (loadPlain s c j p 4).2.2 = false ∧
      ∃ vs', ReadsInTurn c j ps (loadPlain s c j p 4).1 t vs' ∧ vs = BitVec.ofNat 32 (leNat (loadPlain s c j p 4).2.1) :: vs'

/-! ### The Kweman bus (R216–R242) -/

/-- The port that the issuing core's KCFG names. -/
def myPort (s : State) : PortId := Fin.ofNat 2 ((curCore s).kcfg.toNat / 2)
/-- Bytes of an operand element, or the alignment of KRBS's descriptor, and bytes of a result (Table 10.9). -/
def widthBytes : KWidth → Nat | .k8 => 1 | .k16 => 2 | .k32 => 4
def sourceStep (op : BusOp) : Nat := match op with | .kred w => widthBytes w | .kmax w => widthBytes w | .krbs _ => 32
def resultStep (op : BusOp) : Nat := match op with | .kred w => 2 * widthBytes w | .kmax w => widthBytes w | .krbs _ => 4
/-- A bus operation is submitted: its job stands last at its port with the number the port had ready, x[d] receives the ticket,
discardability ends and what the context had buffered is released. -/
def SubmitsBus (s : State) (i : Instr) (stl : Stl) (op : BusOp) (d a b c : Reg) : Prop :=
  let p := myPort s
  let seq := (portAt s p).seq
  ((reads s a).toNat % sourceStep op ≠ 0 → Raises s i ⟨.misaligned, 0#8, false, false, reads s a⟩) ∧
  ((reads s a).toNat % sourceStep op = 0 → (reads s b).toNat % resultStep op ≠ 0 →
    Raises s i ⟨.misaligned, 0#8, false, false, reads s b⟩) ∧
  ((reads s a).toNat % sourceStep op = 0 → (reads s b).toNat % resultStep op = 0 →
    16 ≤ ((portAt s p).jobs.filter (!·.ghost)).length → exec i s = .next s) ∧
  ((reads s a).toNat % sourceStep op = 0 → (reads s b).toNat % resultStep op = 0 →
    ((portAt s p).jobs.filter (!·.ghost)).length < 16 → Unheld s → PutsArrived s →
    ∃ e job, Completes s i stl (onCtx e fun t => putX t d (BitVec.ofNat 64 (p.val * 2 ^ 32 + seq.toNat))) ∧
      (portAt e p).jobs = (portAt s p).jobs ++ [job] ∧ (portAt e p).seq = seq + 1#32 ∧
      (portAt e p).wrapped = ((portAt s p).wrapped || seq == BitVec.allOnes 32) ∧ job.seq = seq ∧ job.op = op ∧
      job.who = whoOf s s.cur.1 s.cur.2 ∧ job.src = reads s a ∧ job.dst = reads s b ∧ job.n = (reads s c).toNat % 2 ^ 32 ∧
      job.cfg = (curCore s).kcfg ∧ job.retry = (curCore s).kretry.toNat ∧ job.started = false ∧ job.status = 0 ∧ job.num = none ∧
      (curCtx e).x = (curCtx s).x ∧ (curCtx e).sbuf = [] ∧ (curCtx e).status = (endsDiscard (curCtx s)).status)
/-- The counts that detectors report at each position of a bead when `ws` are its writers' patterns. -/
def beadCounts (b n hdr : Nat) (ws : List (List Nat)) : Array Nat :=
  ((List.range (34 + b * n)).map fun k => (ws.filter fun xs => (beadLit b hdr xs).contains k).length).toArray
/-- A verdict symbol as read at two positions. -/
def readSymbol (cnt : List Nat) (k : Nat) : Option Nat :=
  let hi := cnt.getD (2 * k) 0
  let lo := cnt.getD (2 * k + 1) 0
  if hi ≤ 1 ∧ lo ≤ 1 then some (2 * hi + lo) else none
/-- A configuration without its LOST bit, which the device sets. -/
def withoutLost (v : Word) : Word := v &&& ~~~8#64
/-- A circle that takes a configuration does so anew: it has another one, or has ended with SEGMENT (R220). -/
def TakesAnew (c : Machine.Circle) (cfg : Word) : Prop := c.lost = true ∨ ∃ v, c.cfg = some v ∧ v ≠ withoutLost cfg
/-- A valid configuration (R217): its fields as numbers; `limit` is what the last calibration allows. -/
def goodConfig (v limit : Nat) : Prop :=
  let f (lo n : Nat) := v / 2 ^ lo % 2 ^ n
  f 0 1 = 1 ∧ f 3 1 = 0 ∧ 1 ≤ f 8 5 ∧ f 8 5 ≤ f 24 5 ∧ f 8 5 ≤ limit ∧ f 16 5 < f 8 5 ∧ (f 2 1 = 1 ↔ f 16 5 = 0) ∧ f 32 12 ≠ 0 ∧ f 48 12 ≠ 0
/-- A job's start takes an operation number: its configuration is valid and it has elements (R236). -/
def takes (s : State) (p : PortId) (b : BusJob) : Prop := goodConfig b.cfg.toNat (portAt s p).limit ∧ b.n ≠ 0
/-- Job b of a port, not started, is the next to start: its team's engine work goes on, no numbered operation of another configuration
is outstanding on its circle, and every older job that has not started, or whose descriptor is to be read, waits and is, where both have
a number to take, one of another circle (R219, R236, R242). A job that takes no number waits for no other. -/
def StartsNext (s : State) (p : PortId) (b : BusJob) : Prop :=
  b.started = false ∧ (portAt s p).jobs.find? (·.seq == b.seq) = some b ∧ enginePaused s b.who = false ∧
    (takes s p b → (∃ x ∈ (portAt s p).jobs, kCircle x.cfg = kCircle b.cfg ∧ x.num ≠ none) →
      ∀ v, (circleAt s p (kCircle b.cfg)).cfg = some v → v = withoutLost b.cfg) ∧
    ∃ pre post, (portAt s p).jobs = pre ++ b :: post ∧ ∀ x ∈ pre, needsStart x = true →
      startWaits s p x = true ∧ (x.started = false → takes s p x → takes s p b → kCircle x.cfg ≠ kCircle b.cfg)
/-- Positions of the circle's next window (Table 10.3). -/
def nextWindowLength (s : State) (p : PortId) (ci : CircleId) : Nat := max (1 + carriedLength s p ci) 512 + 11
/-- The present frame is the circle's, by the wheel's entry of its number, and the circle's next window ends within the frames that
have begun for the circle (R220, R221). -/
def WindowEnds (s : State) (p : PortId) (ci : CircleId) : Prop :=
  let P := portAt s p
  let c := circleAt s p ci
  0 < c.frames ∧ P.wheel.toNat / 2 ^ (4 * ((P.frame - 1) % 16)) % 16 = ci.toNat ∧ c.pos + nextWindowLength s p ci ≤ 2 ^ 20 * c.frames
/-- The port takes its part in windows of the circle, with the LAG of its configuration (Table 10.1). -/
def TakesPart (s : State) (p : PortId) (ci : CircleId) : Prop :=
  (∃ v, memberOf s p ci = some v ∧ v.toNat / 2 ^ 32 % 2 ^ 12 ≠ 0) ∧ (portAt s p).attached = true ∧ s.hub.stopped = false
/-! ### Events -/

/-- A context issues and its core is not halted. -/
def Alive (s : State) (c : CoreId) (j : CtxId) : Prop := (ctxAt s c j).run = .on ∧ (coreAt s c).dbg.halt = false
/-- A change of one context. -/
def inCtx (s : State) (c : CoreId) (j : CtxId) (f : Ctx → Ctx) : State := modCtx s c j f
/-- IPEND of a core (Table 15.5). -/
def ipendNumber (s : State) (c : CoreId) : Nat :=
  (if (coreAt s c).tcmp.toNat ≤ s.ns then 1 else 0) + 2 * (coreAt s c).door.toNat +
    4 * (if (coreAt s c).stopReq = .none then 0 else 1)
/-- A charm of the core is live (R16). -/
def charmLives (s : State) (c : CoreId) : Prop := ∃ j : CtxId, 0 < j.val ∧ (ctxAt s c j).run ≠ .off
/-- Every register file of a package stays. -/
def FilesKept (s u : State) : Prop := ∀ c j, (ctxAt u c j).x = (ctxAt s c j).x ∧ (coreAt u c).v = (coreAt s c).v ∧
  (coreAt u c).m = (coreAt s c).m
/-- The region that an entry of a store buffer belongs to (log 21). -/
def itemEpoch : SbItem → Nat | .store _ _ _ _ _ e _ => e | .fence _ _ _ e => e
/-- A discarded context (Table 1.7): the record of its region is back, the buffered stores of its region are gone and those of S mode
stay (R261), the registers of its LIVE word keep their values and the
others read zero, and its arrivals and PHASE advances are credits. -/
def Discarded (t u : Ctx) : Prop :=
  u.pc.addr = t.rstart ∧ u.npc = t.region.npc ∧ u.nnpc = t.region.nnpc ∧ u.nul = t.region.nul ∧ u.lc = t.region.lc ∧
    u.lblk = t.region.lblk ∧ u.srctr = t.region.srctr ∧
    (∀ i : Fin 32, u.x.get i = if t.region.live.getLsbD i.val then t.x.get i else 0#64) ∧
    (∀ k : Fin 8, u.credit.get k = t.credit.get k + t.arrived.get k ∧ u.arrived.get k = 0) ∧
    u.phaseCredit = t.phaseCredit + t.phased ∧ u.phased = 0 ∧ u.sbuf = t.sbuf.filter (fun it => itemEpoch it != t.epoch + 1)
/-- No byte of a core's L1 is dirty. -/
def NoDirty (s : State) (c : CoreId) : Prop := ∀ line o b, l1Entry s c line o b → b.dirty = none
/-- A value of a register with a range and a default (R362). -/
def ranged (lo hi dflt v : Nat) : Nat := if lo ≤ v ∧ v ≤ hi then v else dflt
/-- A field of a written word. -/
def fieldOf (v : Word) (lo n : Nat) : Nat := v.toNat / 2 ^ lo % 2 ^ n

/-! ### Binding and restoring (R280, R281) -/

/-- No access that has been accepted is outstanding: no store buffer, no late load, no buffer of an engine holds one. -/
def Quiet (s : State) : Prop :=
  (∀ c j, (ctxAt s c j).sbuf = [] ∧ (ctxAt s c j).late = []) ∧ ∀ h : Hart, hartBuf s h = []
/-- What the copy unit of core m's cluster reads, for the core's team at S privilege, at the place of its block in the save image: the
8 KiB of state, then the grant banks (R279, R280). -/
def blockRead (w : State) (m : CoreId) (b : Binding) : List Byte × List Byte :=
  let va : Word := b.save + BitVec.ofNat 64 (4096 + b.tci * (8192 + 8192 * (coreAt w m).grant))
  let st := imageRead (.copy (clusterOf w m)) (imageWho (coreAt w m) m b) va 128 w 0
  (st.2.1, (imageRead (.copy (clusterOf w m)) (imageWho (coreAt w m) m b) (va + 8192#64) (128 * (coreAt w m).grant) st.1 0).2.1)
/-- A context holds what its 448 bytes of a core block say (Table 15.8). -/
def CtxRestored (blk : Nat → Nat → Nat) (o : Nat) (t : Ctx) : Prop :=
  let word (i : Nat) : Word := BitVec.ofNat 64 (blk (o + 256 + 8 * i) 8)
  t.run = (if blk o 8 = 0 then .off else .on) ∧ (∀ i : Fin 32, 0 < i.val → (t.x.get i).toNat = blk (o + 8 * i.val) 8) ∧
  t.pc.addr = bitsOf (word 0) 2 63 ∧ t.npc.addr = bitsOf (word 1) 2 63 ∧ t.nnpc.addr = bitsOf (word 2) 2 63 ∧
  t.nul = BitVec.ofNat 2 (word 3).toNat ∧ t.lc = word 4 ∧ t.lblk = bitsOf (word 5) 0 0 + bitsOf (word 5) 3 63 ∧
  t.rstart = bitsOf (word 6) 2 63 ∧ t.srctr = BitVec.ofNat 32 (word 7).toNat ∧ t.srkey = BitVec.ofNat 32 (word 8).toNat ∧
  t.fflags = BitVec.ofNat 5 (word 9).toNat ∧ t.cvtovf = (word 10).getLsbD 0 ∧ t.status = bitsOf (word 11) 0 7 ∧ t.exitVal = word 12 ∧
  t.tvec = bitsOf (word 13) 3 63 ∧ t.sscratch = word 14 ∧ t.bankqSel = BitVec.ofNat 3 (word 15).toNat ∧
  t.asid = BitVec.ofNat 9 (word 16).toNat ∧ t.root = BitVec.ofNat 35 ((word 17).toNat / 2 ^ 17) ∧
  (∀ k : Fin 8, t.credit.get k = (word 18).toNat / 16 ^ k.val % 16) ∧ t.phaseCredit = (word 18).toNat / 2 ^ 32 % 16
/-- A core holds what its block says, its grant banks what the image holds of them, and its L1 no line (R281, Table 15.8). -/
def CoreRestored (img : List Byte × List Byte) (u : State) (m : CoreId) : Prop :=
  let blk (off n : Nat) : Nat := leNat ((img.1.drop off).take n)
  let q := coreAt u m
  q.l1 = [] ∧ (∀ a, sGet 0#8 q.array a = img.2.getD a 0#8) ∧
  q.phase = BitVec.ofNat 32 (blk 0 8) ∧ q.qsent = BitVec.ofNat 32 (blk 96 8) ∧ q.qrecv = BitVec.ofNat 32 (blk 104 8) ∧
  q.arr.toNat = blk 112 1 ∧ q.ready.toNat = blk 113 1 ∧ q.vote.toNat = blk 114 1 ∧ q.resAnd.toNat = blk 115 1 ∧
  q.resOr.toNat = blk 116 1 ∧ q.start = BitVec.ofNat 3 (blk 117 1) ∧ q.stage.toNat = blk 124 2 ∧
  q.kretry = BitVec.ofNat 3 (blk 264 8) ∧ withoutLost q.kcfg = withoutLost (sysregCore true 0x060 (BitVec.ofNat 64 (blk 256 8)) q).kcfg ∧
  (∀ i : Fin 32, (q.v.get i).toNat = blk (5440 + 64 * i.val) 64) ∧
  (∀ i : Fin 8, 0 < i.val → (q.m.get i).toNat = blk (7480 + 8 * i.val) 8) ∧
  ∀ j : CtxId, CtxRestored blk (512 + 448 * j.val) (ctxAt u m j)

/-! ### Errors and their service (R276, R277, R283–R286) -/

/-- The package has counted an uncorrectable error of a core's registers, and ctx0 waits for no lease any more. -/
def registerCounted (s : State) (c : CoreId) (j : CtxId) : State :=
  let s := countUncorrectable s (coreDie c) 0
  if j.val = 0 then withdraw s c else s
/-- What the job, window or operation that a record is about does on its answer (R277): it goes on at its beat, or ends: a copy job
with ACCESS, a commit without committing, a bus job with ABORT and reason 4. -/
def Answered (s u : State) (d : DieId) (r : FaultRec) (resume : Prop) : Prop :=
  let g := unitCluster s d r
  let p : PortId := Fin.ofNat 2 r.unit.toNat
  (r.kind = 0#3 → ∀ b, (clusterAt s g).jobs.find? (·.seq == r.seq) = some b → b.suspended = true →
    (resume → (clusterAt u g).jobs.find? (·.seq == r.seq) = some { b with suspended := false }) ∧
    (¬resume → b.form ≠ .cpy → b.status = 0 → ∃ b', (clusterAt u g).jobs.find? (·.seq == r.seq) = some b' ∧ b'.status = 4 ∧ b'.suspended = false) ∧
    (¬resume → (b.form = .cpy ∨ b.status ≠ 0) → (clusterAt u g).jobs.find? (·.seq == r.seq) = none)) ∧
  (r.kind = 1#3 → ∀ q rest, (engineAt s g).queue = q :: rest → q.seq = r.seq → q.suspended = true →
    (resume → (engineAt u g).queue = { q with suspended := false } :: rest) ∧ (¬resume → (engineAt u g).queue = rest)) ∧
  (r.kind = 2#3 → ∀ w, winAt s d r.ref = some w → w.suspended = true →
    (resume → winAt u d r.ref = some { w with suspended := false }) ∧
    (¬resume → winAt u d r.ref = some { w with state := 1#2, abandon := true, ended := true, suspended := false })) ∧
  (r.kind = 3#3 → ∀ b, (portAt s p).jobs.find? (fun b => b.seq == r.seq && !b.ghost) = some b → b.suspended = true →
    (resume → (portAt u p).jobs.find? (fun b => b.seq == r.seq && !b.ghost) = some { b with suspended := false }) ∧
    (¬resume → ∃ b', (portAt u p).ended.head? = some b' ∧ b'.seq = r.seq ∧ b'.status = 4 ∧ b'.reason = 4))

/-- A row of Table 2.8: the deepest state in QUIET, STEADY, STREAM and BURST. -/
def byPhase (q st sm b : Nat) (ph : BitVec 2) : Nat :=
  if ph = 0#2 then q else if ph = 1#2 then st else if ph = 2#2 then sm else b
/-- The clock, in 100 MHz, that counts a bank's idle time: 1.6 GHz at a core held down at 105 °C (R336). -/
def heldClock (s : State) : BankRef → Nat
  | .array c _ => if (coreAt s c).hot then 16 else s.hub.clock
  | _ => s.hub.clock
/-- Core x is the only one that holds the address `a` dirty in its L1, with the value v. -/
def SoleDirty (s : State) (x : CoreId) (a : Nat) (v : Byte) : Prop :=
  (∃ n, HoldsDirty s x a v n) ∧
    ∀ y, y ≠ x → ∀ l ∈ (coreAt s y).l1, ∀ e ∈ l.bytes, l.line * 256 + e.1 = a → e.2.dirty = none
/-- Some CXL port lacks the persistent capacity that its quarter of a checkpoint's image takes (log 35). -/
def lacksCapacity (s : State) : Prop := ∃ p : Fin 4, s.cxl.get p < (Config.persistBase p.val).val + lpddrEnd / 4
/-- A core's array bank that holds a valid L1 line. -/
def bankHasLine (k : Core) (b : Nat) : Prop := ∃ l ∈ k.l1, l.bank = b ∧ l.bytes ≠ []
/-- A loan in force whose term is over (R328). -/
def loanOver (n : Nat) (l : Loan) : Bool := l.phase == 3 && decide (l.from_ + 2 + l.term ≤ n)
/-- Carats of the loans that a condition names. -/
def caratsOf (p : Loan → Bool) (ls : List Loan) : BitVec 12 := BitVec.ofNat 12 ((ls.filter p).map (·.carats)).sum

/-- Array banks that stay DARK: those of neither role, and those of a gated cluster until a team is bound there (R55, R59). -/
def alwaysDark (s : State) (b : BankRef) : Prop :=
  ∃ c n, b = .array c n ∧ (((coreAt s c).grant ≤ n ∧ n < 40 - (coreAt s c).l1k) ∨ (clusterAt s (coreCluster c)).gated = true)
/-- A team has drawn its allowance of this interval: its meter, to which the interval dealt one, has a bank charge that reaches it with
what else the team has drawn, which is free (log 118). -/
def AllowanceDrawn (s : State) (b : Binding) : Prop :=
  ∃ m ∈ s.hub.meters, m.lid = b.lid ∧ m.team = b.team ∧ m.dealt = true ∧
    m.allow ≤ m.bank / 10 ^ 9 + Config.drawnSoFar s.free b.lid.toNat b.team
/-- A byte of the LPDDR of a die. -/
def lpddrOf (s : State) (d : DieId) (a : Nat) : Prop := isLpddr a = true ∧ paDie s a = d
/-- A powered die reads 115 °C or more at some core (in steps of 0.5 °C). -/
def TooHot (s : State) (d : DieId) : Prop := (dieAt s d).powered = true ∧ ∃ x, coreDie x = d ∧ 230 ≤ (coreAt s x).temp

/-! ### Queues, front-ends and launches -/

/-- A field of a launch record (Table 17.2). -/
def rfield (r : BitVec 2048) (lo n : Nat) : Nat := r.toNat / 2 ^ lo % 2 ^ n
/-- The record launches a kernel: ENTRY ≠ 0 and no graph (R309, R315). -/
def kernelRecord (r : BitVec 2048) : Prop := rfield r 128 64 ≠ 0 ∧ rfield r 11 1 = 0
/-- NC is legal for SHAPE (Table 17.2). -/
def legalShape (r : BitVec 2048) : Prop :=
  (rfield r 12 2 = 0 ∧ (rfield r 14 6 = 1 ∨ rfield r 14 6 = 2 ∨ rfield r 14 6 = 4 ∨ rfield r 14 6 = 8)) ∨
    (rfield r 12 2 = 1 ∧ 1 ≤ rfield r 14 6 ∧ rfield r 14 6 ≤ 32) ∨ (rfield r 12 2 = 2 ∧ rfield r 14 6 = 0)
/-- Check 1 of R309; that ENTRY and TVEC, addresses of headers, must be on 8 bytes is deduced (R110; log 113). -/
def badRecord (r : BitVec 2048) : Prop :=
  rfield r 0 1 = 0 ∨
    (rfield r 22 10 ≠ 0 ∨ rfield r 122 6 ≠ 0 ∨ rfield r 300 20 ≠ 0 ∨ rfield r 643 61 ≠ 0 ∨ rfield r 908 52 ≠ 0 ∨
      rfield r 1041 47 ≠ 0 ∨ rfield r 1112 40 ≠ 0 ∨ rfield r 1216 832 ≠ 0) ∨
    rfield r 6 2 = 3 ∨ rfield r 8 2 = 3 ∨ 5 ≤ rfield r 640 3 ∨ rfield r 448 64 % 32 ≠ 0 ∨ rfield r 512 64 % 8 ≠ 0 ∨
    (rfield r 8 2 ≠ 0 ∧ rfield r 704 64 % 8 ≠ 0) ∨
    (kernelRecord r ∧ (¬legalShape r ∨ rfield r 108 6 < 2 ∨ 32 < rfield r 108 6 ∨ rfield r 116 6 < 8 ∨ 48 < rfield r 116 6 ∨
      rfield r 832 64 % 16 ≠ 0 ∨ rfield r 128 64 % 8 ≠ 0 ∨ rfield r 320 64 % 8 ≠ 0)) ∨
    (rfield r 6 2 ≠ 0 ∧ (rfield r 960 64 % 64 ≠ 0 ∨ rfield r 1034 7 = 0 ∨ 64 < rfield r 1028 6 + rfield r 1034 7))
/-- TSHAPE of a partition of 1, 2 or 4 dies. -/
def partShape (ndies : Nat) : Nat := if ndies = 1 then 1 else if ndies = 2 then 2 else 3
/-- A queue is stopped (R306). -/
def stops (k : Queue) : Prop :=
  2 ^ k.sz.toNat < (k.head - k.tail).toNat ∨
    (k.front = .idle ∧ k.graph = none ∧ k.head ≠ k.tail ∧ k.base.toNat % (256 * 2 ^ k.sz.toNat) ≠ 0)
/-- WCMP of R308 between the word and WVAL. -/
def waitMet (code : Nat) (w v : Word) : Prop :=
  if code = 0 then w = v else if code = 1 then w ≠ v else if code = 2 then v.toNat ≤ w.toNat
  else if code = 3 then w.toNat < v.toNat else w &&& v ≠ 0#64
/-- Nanoseconds from a failed poll to the next (R308). -/
def pollGap (j : Nat) : Nat := min (256 * 2 ^ j) 1000000
/-- A launch of number `lid` whose other fields satisfy `p`. -/
def launchIs (s : State) (lid : Word32) (p : Launch → Prop) : Prop := ∃ l ∈ s.hub.launches, l.lid = lid ∧ p l

/-- The circle of the frame that begins, by the wheel in force from it on (R220, R356). -/
def frameWheel (q : Port) : Word := if q.frame % 16 = 0 then q.wheelNext.getD q.wheel else q.wheel
def frameCircle (q : Port) : CircleId := BitVec.ofNat 4 (fieldOf (frameWheel q) (4 * (q.frame % 16)) 4)
/-- The jobs of a circle that step lock looks at (R329). -/
def liveJobs (s : State) (p : PortId) (ci : CircleId) : List BusJob := (portAt s p).jobs.filter fun b => !b.ghost && kCircle b.cfg == ci
/-- The lowest PHASE among the cores that submitted a circle's jobs (R329). -/
def BeaconIs (s : State) (p : PortId) (ci : CircleId) (b : Option Word32) : Prop :=
  (b = none ↔ liveJobs s p ci = []) ∧
  ∀ n, b = some n → (∃ x ∈ liveJobs s p ci, (coreAt s x.who.core).phase = n) ∧
    ∀ x ∈ liveJobs s p ci, n.toNat ≤ (coreAt s x.who.core).phase.toNat
/-- A DET launch has begun and is not done, or a DET team is bound: the clock is locked (R321). -/
def Locked (s : State) : Prop :=
  (∃ l ∈ s.hub.launches, l.begun = true ∧ l.done = false ∧ recDet l.rec_ = true) ∨ ∃ c b, (coreAt s c).team = some b ∧ b.det = true
/-- A port as calibration leaves it (R355). -/
def Calibrated (s : State) (p : PortId) (cal : Calibration) (u : State) : Prop :=
  let good := cal.margins.takeWhile (80 ≤ ·)
  let q := portAt u p
  q.margins = cal.margins ∧ q.recal = none ∧
  (good = [] → q.attached = (portAt s p).attached ∧ q.limit = (portAt s p).limit ∧ u.cores = s.cores) ∧
  (good ≠ [] → q.attached = true ∧ q.leader = cal.leader ∧ q.limit = min 31 (good.length - 1) ∧ q.lag = (cal.trip + 522) / 523 ∧
    q.turn = cal.roundSlots ∧ q.wheel = 0#64 ∧ q.wheelNext = none ∧ q.members = [] ∧
    (∀ ci, (circleAt u p ci).win = 0 ∧ (circleAt u p ci).wins = [] ∧ (circleAt u p ci).nextOp = 0 ∧ (circleAt u p ci).frames = 0) ∧
    (∀ c, let v := (coreAt u c).kcfg
      fieldOf v 0 1 = 1 → fieldOf v 1 1 = p.val → fieldOf v 3 1 = 0 →
        (circleAt u p (kCircle v)).cfg ≠ none ∧ (circleAt u p (kCircle v)).lost = false) ∧
    ∀ c, (coreAt u c).kcfg = (let v := (coreAt s c).kcfg
      if fieldOf v 0 1 = 1 ∧ fieldOf v 1 1 = p.val then
        bitsOf v 0 23 + bitsOf v 29 31 + bitsOf v 44 47 + bitsOf v 60 63 +
          BitVec.ofNat 64 (min 31 (good.length - 1) * 2 ^ 24 + (cal.trip + 522) / 523 % 2 ^ 12 * 2 ^ 32 + cal.roundSlots % 2 ^ 12 * 2 ^ 48)
      else v))
/-- A physical address field: bits [51:lo] of a value. -/
def paBits (lo : Nat) (v : Word) : Word := bitsOf v lo 51
/-- A core's debug module changed. -/
def onDebug (s : State) (c : CoreId) (f : Debug → Debug) : State := modCore s c fun k => { k with dbg := f k.dbg }

/-- One snapshot of a die's counter grid taken at an instant: header, then flits and stalls by link and channel (R360). -/
def gridImage (k : Die) (d : DieId) (ns : Nat) : List Byte :=
  leBytes 8 ns ++ leBytes 8 d.val ++ (List.range Config.gridEntries).flatMap fun e =>
    leBytes 4 (sGet (0#32, 0#32) k.grid e).1.toNat ++ leBytes 4 (sGet (0#32, 0#32) k.grid e).2.toNat
/-- A die that boot step 2 finds whole (R3, T21.4). -/
def Whole (plan : BootPlan) (d : DieId) : Prop :=
  plan.badDies.getLsbD d.val = false ∧ plan.badChannels.toNat / 2 ^ (12 * d.val) % 4096 = 0
/-! ### Steps -/

/-- The state in which context j of core c stands at its boundary, with its turn to issue. -/
def issueState (s : State) (c : CoreId) (j : CtxId) : State := issuing { tick s with turn := .background } c j
/-- The same as its word issues: the region is under way (log 87), and the walkers have translated what the issue reads (R294; log
117). -/
def fetchState (s : State) (c : CoreId) (j : CtxId) : State :=
  walkedCode (inCtx (issueState s c j) c j fun t => { t with rsDue := false, stopHere := false }) c j
/-- The next step is an issue of context j of core c, and nothing happens at its boundary instead. -/
def Issues (s : State) (c : CoreId) (j : CtxId) : Prop :=
  (tick s).agenda = [] ∧ (tick s).turn = .issue ∧ nextIssue { tick s with turn := .background } = some (c, j) ∧
    boundary (issueState s c j) c j = none
/-- The header of the block is not at fault where the instruction is the first of its body (R112). -/
def HeaderGood (s : State) (c : CoreId) (j : CtxId) : Prop :=
  let q := (ctxAt s c j).pc
  q.addr = q.hdr + 8#64 → headerFault s c j q.hdr = none
/-- The word at PC is the second word of a header, where a queue restored by ERET can name it (R110, R271). -/
def AtHeader (s : State) (c : CoreId) (j : CtxId) : Prop := (ctxAt s c j).pc.addr = (ctxAt s c j).pc.hdr + 4#64

/-- R127, the 64-bit column of Table 6.1, operation by operation in terms of numbers: x[d] receives the result and nothing else of
the machine changes but by the queue step; no flag is set and no value traps. -/
def ScalarRegister64 : Prop := ∀ (s : State) (stl : Stl) (d a b : Reg), NoUnderrun s [nx a, nx b] →
  let x := reads s a
  let y := reads s b
  let sh := y.toNat % 64
  Writes s (.add stl d a b) stl d (BitVec.ofNat 64 (x.toNat + y.toNat)) ∧
  Writes s (.sub stl d a b) stl d (BitVec.ofInt 64 (x.toNat - y.toNat)) ∧
  Writes s (.and stl d a b) stl d (x &&& y) ∧
  Writes s (.or stl d a b) stl d (x ||| y) ∧
  Writes s (.xor stl d a b) stl d (x ^^^ y) ∧
  Writes s (.andn stl d a b) stl d (x &&& ~~~y) ∧
  Writes s (.sll stl d a b) stl d (BitVec.ofNat 64 (x.toNat * 2 ^ sh)) ∧
  Writes s (.srl stl d a b) stl d (BitVec.ofNat 64 (x.toNat / 2 ^ sh)) ∧
  Writes s (.sra stl d a b) stl d (BitVec.ofInt 64 (x.toInt / 2 ^ sh)) ∧
  Writes s (.rol stl d a b) stl d (BitVec.ofNat 64 (x.toNat * 2 ^ sh) ||| BitVec.ofNat 64 (x.toNat / 2 ^ (64 - sh))) ∧
  Writes s (.ror stl d a b) stl d (BitVec.ofNat 64 (x.toNat / 2 ^ sh) ||| BitVec.ofNat 64 (x.toNat * 2 ^ (64 - sh))) ∧
  Writes s (.slt stl d a b) stl d (oneIf (x.toInt < y.toInt)) ∧
  Writes s (.sltu stl d a b) stl d (oneIf (x.toNat < y.toNat)) ∧
  Writes s (.seq stl d a b) stl d (oneIf (x = y)) ∧
  Writes s (.sne stl d a b) stl d (oneIf (x ≠ y)) ∧
  Writes s (.min stl d a b) stl d (BitVec.ofInt 64 (min x.toInt y.toInt)) ∧
  Writes s (.max stl d a b) stl d (BitVec.ofInt 64 (max x.toInt y.toInt)) ∧
  Writes s (.minu stl d a b) stl d (BitVec.ofNat 64 (min x.toNat y.toNat)) ∧
  Writes s (.maxu stl d a b) stl d (BitVec.ofNat 64 (max x.toNat y.toNat))

/-- R127: the counts of Table 6.1 at both widths. CLZ gives the n for which the operand fills all but its n upper bits, CTZ the
n for which its n lower bits are zero and the next is one, both the width for zero; POPC the number of ones. The .w forms deliver
their count zero-extended. -/
def ScalarCounts : Prop := ∀ (s : State) (stl : Stl) (d a : Reg), NoUnderrun s [nx a] →
  let x := (reads s a).toNat
  let w := x % 2 ^ 32
  (∃ n ≤ 64, x < 2 ^ (64 - n) ∧ (n < 64 → 2 ^ (63 - n) ≤ x) ∧ Writes s (.clz stl d a) stl d (BitVec.ofNat 64 n)) ∧
  (∃ n ≤ 64, x % 2 ^ n = 0 ∧ (n < 64 → x.testBit n = true) ∧ Writes s (.ctz stl d a) stl d (BitVec.ofNat 64 n)) ∧
  Writes s (.popc stl d a) stl d (BitVec.ofNat 64 ((List.range 64).countP x.testBit)) ∧
  (∃ n ≤ 32, w < 2 ^ (32 - n) ∧ (n < 32 → 2 ^ (31 - n) ≤ w) ∧ Writes s (.clzW stl d a) stl d (BitVec.ofNat 64 n)) ∧
  (∃ n ≤ 32, w % 2 ^ n = 0 ∧ (n < 32 → w.testBit n = true) ∧ Writes s (.ctzW stl d a) stl d (BitVec.ofNat 64 n)) ∧
  Writes s (.popcW stl d a) stl d (BitVec.ofNat 64 ((List.range 32).countP w.testBit))

/-- R127, the 32-bit forms of Table 6.1: computed from the low words, delivered sign-extended. -/
def ScalarRegister32 : Prop := ∀ (s : State) (stl : Stl) (d a b : Reg), NoUnderrun s [nx a, nx b] →
  let x : Word32 := (reads s a).setWidth 32
  let y : Word32 := (reads s b).setWidth 32
  let sh := y.toNat % 32
  Writes s (.addW stl d a b) stl d (sext (BitVec.ofNat 32 (x.toNat + y.toNat))) ∧
  Writes s (.subW stl d a b) stl d (sext (BitVec.ofInt 32 (x.toNat - y.toNat))) ∧
  Writes s (.andW stl d a b) stl d (sext (x &&& y)) ∧
  Writes s (.orW stl d a b) stl d (sext (x ||| y)) ∧
  Writes s (.xorW stl d a b) stl d (sext (x ^^^ y)) ∧
  Writes s (.andnW stl d a b) stl d (sext (x &&& ~~~y)) ∧
  Writes s (.sllW stl d a b) stl d (sext (BitVec.ofNat 32 (x.toNat * 2 ^ sh))) ∧
  Writes s (.srlW stl d a b) stl d (sext (BitVec.ofNat 32 (x.toNat / 2 ^ sh))) ∧
  Writes s (.sraW stl d a b) stl d (sext (BitVec.ofInt 32 (x.toInt / 2 ^ sh))) ∧
  Writes s (.rolW stl d a b) stl d
    (sext (BitVec.ofNat 32 (x.toNat * 2 ^ sh) ||| BitVec.ofNat 32 (x.toNat / 2 ^ (32 - sh)))) ∧
  Writes s (.rorW stl d a b) stl d
    (sext (BitVec.ofNat 32 (x.toNat / 2 ^ sh) ||| BitVec.ofNat 32 (x.toNat * 2 ^ (32 - sh))))

/-- R129 and R130: x[a] with SEXT(imm12), and shifts by a constant at the width that w selects. -/
def ScalarImmediate : Prop :=
  ∀ (s : State) (stl : Stl) (d a : Reg) (imm : BitVec 12) (n : BitVec 6), NoUnderrun s [nx a] →
  let x := reads s a
  let S := imm.toInt
  let p : Word32 := x.setWidth 32
  let sh := n.toNat
  Writes s (.addImm stl d a imm) stl d (BitVec.ofInt 64 (x.toInt + S)) ∧
  Writes s (.addWImm stl d a imm) stl d (sext (BitVec.ofInt 32 (x.toInt + S))) ∧
  Writes s (.andImm stl d a imm) stl d (x &&& BitVec.ofInt 64 S) ∧
  Writes s (.orImm stl d a imm) stl d (x ||| BitVec.ofInt 64 S) ∧
  Writes s (.xorImm stl d a imm) stl d (x ^^^ BitVec.ofInt 64 S) ∧
  Writes s (.andnImm stl d a imm) stl d (x &&& ~~~BitVec.ofInt 64 S) ∧
  Writes s (.sllImm stl false d a n) stl d (BitVec.ofNat 64 (x.toNat * 2 ^ sh)) ∧
  Writes s (.srlImm stl false d a n) stl d (BitVec.ofNat 64 (x.toNat / 2 ^ sh)) ∧
  Writes s (.sraImm stl false d a n) stl d (BitVec.ofInt 64 (x.toInt / 2 ^ sh)) ∧
  Writes s (.rolImm stl false d a n) stl d (BitVec.ofNat 64 (x.toNat * 2 ^ sh) ||| BitVec.ofNat 64 (x.toNat / 2 ^ (64 - sh))) ∧
  Writes s (.rorImm stl false d a n) stl d (BitVec.ofNat 64 (x.toNat / 2 ^ sh) ||| BitVec.ofNat 64 (x.toNat * 2 ^ (64 - sh))) ∧
  (sh < 32 →
    Writes s (.sllImm stl true d a n) stl d (sext (BitVec.ofNat 32 (p.toNat * 2 ^ sh))) ∧
    Writes s (.srlImm stl true d a n) stl d (sext (BitVec.ofNat 32 (p.toNat / 2 ^ sh))) ∧
    Writes s (.sraImm stl true d a n) stl d (sext (BitVec.ofInt 32 (p.toInt / 2 ^ sh))) ∧
    Writes s (.rolImm stl true d a n) stl d
      (sext (BitVec.ofNat 32 (p.toNat * 2 ^ sh) ||| BitVec.ofNat 32 (p.toNat / 2 ^ (32 - sh)))) ∧
    Writes s (.rorImm stl true d a n) stl d
      (sext (BitVec.ofNat 32 (p.toNat / 2 ^ sh) ||| BitVec.ofNat 32 (p.toNat * 2 ^ (32 - sh)))))

/-- R131–R133, R143 and R148: SEL, the bit-field instructions in terms of the bits they move (`len` of the word is one less than
the length), the literals of the L form, the generator, and NOP, which changes nothing. -/
def ScalarOther : Prop := ∀ (s : State) (stl : Stl) (d a b c : Reg) (len pos : BitVec 6) (lit : Word32),
  let x := reads s a
  let old := reads s d
  let n := len.toNat + 1
  let p := pos.toNat
  let G (k v : Word32) : Word32 :=
    let h := (v ^^^ k) * 0x6B2F4C95#32
    let h := (h ^^^ (h >>> 16)) * 0x3A8ED217#32
    h ^^^ (h >>> 15)
  let k : Word32 := x.setWidth 32
  let v : Word32 := (reads s b).setWidth 32
  Completes s (.nop stl) stl s ∧
  (NoUnderrun s [nx a, nx b, nx c] →
    Writes s (.sel stl d a b c) stl d (if (reads s c).toNat ≠ 0 then x else reads s b)) ∧
  (NoUnderrun s [nx a] → p + n ≤ 64 →
    Writes s (.bfx stl d a len pos) stl d (BitVec.ofNat 64 (x.toNat / 2 ^ p % 2 ^ n))) ∧
  (NoUnderrun s [nx d, nx a] → p + n ≤ 64 → ∃ r : Word, Writes s (.bfi stl d a len pos) stl d r ∧
    ∀ i < 64, r.getLsbD i = if p ≤ i ∧ i < p + n then x.getLsbD (i - p) else old.getLsbD i) ∧
  Writes s (.liw stl d lit) stl d (BitVec.ofInt 64 lit.toInt) ∧
  (NoUnderrun s [nx d] →
    Writes s (.liwh stl d lit) stl d (BitVec.ofNat 64 (lit.toNat * 2 ^ 32 + old.toNat % 2 ^ 32))) ∧
  Writes s (.addpc stl d lit) stl d (BitVec.ofInt 64 ((curCtx s).pc.addr.toNat + lit.toInt)) ∧
  (NoUnderrun s [nx a, nx b] → Writes s (.rng stl d a b) stl d
    (BitVec.ofNat 64 ((G (k ^^^ 0x5BD1E995#32) v).toNat * 2 ^ 32 + (G k v).toNat)))

/-- R62–R64 and R66: what each mode does with m × 2^e at a step of 2^q. A value on the grid is exact; otherwise RTZ truncates the
magnitude, RDN and RUP go down and up as signed numbers, RNE takes the nearer multiple and on a tie the even one, SR rounds the
magnitude up when the first 16 bits cut off and the draw carry out together. -/
def RoundingModes : Prop := ∀ (rand : Nat) (neg : Bool) (m : Nat) (e q : Int),
  (q ≤ e → ∀ rm, roundTo rm rand neg m e q = (m * 2 ^ (e - q).toNat, false)) ∧
  (e < q →
    let D := 2 ^ (q - e).toNat
    let down := m / D
    let up := if m % D = 0 then m / D else m / D + 1
    (∀ rm, (roundTo rm rand neg m e q).2 = decide (m % D ≠ 0)) ∧
    (roundTo .rtz rand neg m e q).1 = down ∧
    (roundTo .rdn rand neg m e q).1 = (if neg then up else down) ∧
    (roundTo .rup rand neg m e q).1 = (if neg then down else up) ∧
    (let t := (roundTo .rne rand neg m e q).1
     2 * t * D ≤ 2 * m + D ∧ 2 * m ≤ 2 * t * D + D ∧
      ((2 * t * D = 2 * m + D ∨ 2 * m = 2 * t * D + D) → t % 2 = 0)) ∧
    (roundTo .sr rand neg m e q).1 =
      (if m % D ≠ 0 ∧ 2 ^ 16 ≤ m % D * 2 ^ 16 / D + rand then m / D + 1 else m / D))

/-- R63 and Table 6.3: results that are no number are the canonical NaN, and NV says why: a signalling operand, ∞ − ∞, 0 × ∞. -/
def FloatInvalid : Prop := ∀ (rm : RMode) (a b c : Fl),
  ((flNan a || flNan b) = true →
    addFl fmtF32 rm a b = ⟨0x7FC00000, if flSig a || flSig b then 16#5 else 0#5, false⟩ ∧
    mulFl fmtF32 rm a b = ⟨0x7FC00000, if flSig a || flSig b then 16#5 else 0#5, false⟩) ∧
  (∀ n, addFl fmtF32 rm (.inf n) (.inf (!n)) = ⟨0x7FC00000, 16#5, false⟩) ∧
  (∀ n k e, mulFl fmtF32 rm (.inf n) (.fin k 0 e) = ⟨0x7FC00000, 16#5, false⟩ ∧
    mulFl fmtF32 rm (.fin k 0 e) (.inf n) = ⟨0x7FC00000, 16#5, false⟩ ∧
    fmaFl fmtF32 (.inf n) (.fin k 0 e) c = ⟨0x7FC00000, 16#5, false⟩ ∧
    fmaFl fmtF32 (.fin k 0 e) (.inf n) c = ⟨0x7FC00000, 16#5, false⟩) ∧
  (∀ x : Word32, flNan (f32 x) = true ↔ 0x7F800000 < x.toNat % 2 ^ 31) ∧
  (∀ x : Word32, flSig (f32 x) = true ↔ 0x7F800000 < x.toNat % 2 ^ 31 ∧ x.toNat % 2 ^ 31 < 0x7FC00000)

/-- R116 and R138 (Table 5.3): a branch whose condition holds loads NNPC with its target, which must be a header; one whose
condition fails checks no target and goes on, its .N form annulling the two instructions behind it. No branch writes a
register. A target whose header word cannot be fetched counts as none: the model's choice (log 91). -/
def Branches : Prop := ∀ (s : State) (stl : Stl) (n : Bool) (a : Reg) (off : BitVec 13), NoUnderrun s [nx a] →
  let x := (reads s a).toInt
  let T := targetAt s off.toInt
  BranchesOn s (.br stl n off) stl n T True ∧
  BranchesOn s (.beqz stl n a off) stl n T (x = 0) ∧
  BranchesOn s (.bnez stl n a off) stl n T (x ≠ 0) ∧
  BranchesOn s (.bltz stl n a off) stl n T (x < 0) ∧
  BranchesOn s (.bgez stl n a off) stl n T (0 ≤ x) ∧
  BranchesOn s (.bgtz stl n a off) stl n T (0 < x) ∧
  BranchesOn s (.blez stl n a off) stl n T (x ≤ 0)

/-- R117, R139 and R140: BAL and JAL link the header that follows their block, from the place R117 asks for, and raise Block
Format anywhere else, also with a d of 0, which discards the link: the model's choice (log 56). JR and JAL go to x[a]; JAL reads it
before it writes d. A target whose header word cannot be fetched counts as none: the model's choice (log 91). -/
def JumpsAndLinks : Prop := ∀ (s : State) (stl : Stl) (d a : Reg) (off : BitVec 17), NoUnderrun s [nx a] →
  let p := (curCtx s).pc.addr
  let T := reads s a
  let placed := (curCtx s).npc.addr = p + 4#64 ∧ (curCtx s).nnpc.addr = p + 8#64 ∧ endOfBlock s = p + 12#64
  (header s T = true → Transfers s (.jr stl a) stl s T) ∧
  (header s T = false → Raises s (.jr stl a) ⟨.branchTarget, 0#8, false, false, T⟩) ∧
  (placed → Links s (.bal stl d off) stl d (targetAt s off.toInt) ∧ Links s (.jal stl d a) stl d T) ∧
  (¬placed → Raises s (.bal stl d off) ⟨.blockFormat, 0#8, false, false, p⟩ ∧
    Raises s (.jal stl d a) ⟨.blockFormat, 0#8, false, false, p⟩)

/-- R120 and Table 15.3: under SCHK = 1 an instruction that reads a register before its result is due raises Stall Underrun with the
register's number and has no effect; here an ADD. Of several such registers the first source is named: the model's choice (log
50). -/
def StallUnderrun : Prop := ∀ (s : State) (stl : Stl) (d a b : Reg) (e : Inflight),
  (curCtx s).status.getLsbD 0 = true → a ≠ 0#5 → (curCtx s).inflight.find? (fun e => e.reg == a.toNat && decide ((curCtx s).cyc < e.due)) = some e →
  Raises s (.add stl d a b) ⟨.stallUnderrun, 0#8, false, false, BitVec.ofNat 64 a.toNat⟩

/-- R119 and R120: what reading a register gives. With no result outstanding it is the register; with one outstanding under
SCHK = 0 it is the old value or the new one, and nothing says which (log 7); x0 reads zero (R60). -/
def RegisterReads : Prop := ∀ (s : State) (r : Reg),
  reads s 0#5 = 0#64 ∧
  ((∀ e ∈ (curCtx s).inflight, e.reg = r.toNat → e.due ≤ (curCtx s).cyc) → reads s r = xreg (curCtx s) r) ∧
  (reads s r = xreg (curCtx s) r ∨ ∃ e ∈ (curCtx s).inflight, e.reg = r.toNat ∧ (curCtx s).cyc < e.due ∧ reads s r = e.old.setWidth 64) ∧
  (NoUnderrun s [nx r] → (curCtx s).status.getLsbD 0 = true → reads s r = xreg (curCtx s) r)

/-- R119 (Table 5.6): when a result is due. The register is written at once and the old value is kept until the latency has
passed, counted from the cycle of the issue: ADD 1, MUL and RNG 3, FADD 4, FRCP 8. -/
def Latencies : Prop := ∀ (s : State) (stl : Stl) (d a b : Reg), NoUnderrun s [nx a, nx b] → d ≠ 0#5 →
  let t := curCtx s
  let due (i : Instr) (lat : Nat) : Prop := ∃ u, exec i s = .next u ∧
    outstanding (curCtx u) d.toNat =
      if t.cyc + 1 + stl.toNat < t.cyc + lat then some ⟨d.toNat, (xreg t d).setWidth 512, t.cyc + lat⟩ else none
  due (.add stl d a b) 1 ∧ due (.mul stl d a b) 3 ∧ due (.mulh stl d a b) 3 ∧ due (.rng stl d a b) 3 ∧
    due (.div stl d a b) 1 ∧ due (.fadd stl .rne d a b) 4 ∧ due (.frcp stl d a) 8

/-- R146 and Table 6.7: SYSR delivers the register as it stands, in the modes that may name it; any other number is an Illegal
Instruction. BANKQ shows the selection and the states of its group. -/
def SysregReads : Prop := ∀ (s : State) (stl : Stl) (d : Reg) (n : BitVec 12),
  (∀ v, sysregValue s n.toNat = some v → (privilegedNumber n.toNat → sMode s = true) → Writes s (.sysr stl d n) stl d v) ∧
  (n = 0x032#12 → Writes s (.sysr stl d n) stl d
    (BitVec.ofNat 64 ((curCtx s).bankqSel.toNat + 2 ^ 8 * (bankStates s s.cur.1 (curCtx s).bankqSel).toNat))) ∧
  (n = 0x040#12 → Writes s (.sysr stl d n) stl d (energyOf s (coreAt s s.cur.1))) ∧
  ((privilegedNumber n.toNat ∧ sMode s = false) ∨ unlistedNumber s n.toNat →
    Raises s (.sysr stl d n) (wordFault .illegal (.sysr stl d n)))

/-- R146, R147, R262, R268 and R269: SYSW writes the fields that the mode reaches and ignores the others, and ends
discardability. A write to BMASKk waits while its channel has an arrival pending (R23). A write to KCFG in S mode also puts the circle
that it names under the configuration (R220). 0x812 and 0x813 read zero and ignore writes (T16.1). -/
def SysregWrites : Prop := ∀ (s : State) (stl : Stl) (a : Reg) (n : BitVec 12), NoUnderrun s [nx a] →
  let v := reads s a
  let legal := (sysregValue s n.toNat ≠ none ∨ n = 0x032#12 ∨ n = 0x040#12) ∧ (privilegedNumber n.toNat → sMode s = true)
  (legal → n ≠ 0x010#12 → n ≠ 0x011#12 →
    (∀ k : Fin 8, n.toNat = 0x028 + k.val → (coreAt s s.cur.1).arr.getLsbD k.val = false) →
    let e := onCtx (modCore s s.cur.1 (sysregCore (sMode s) n.toNat v)) fun t => endsDiscard (sysregContext (sMode s) n.toNat v t)
    Completes s (.sysw stl a n) stl (if n = 0x060#12 ∧ sMode s = true then reconfigure e (coreAt e s.cur.1).kcfg else e)) ∧
  (legal → ∀ k : Fin 8, n.toNat = 0x028 + k.val → (coreAt s s.cur.1).arr.getLsbD k.val = true → exec (.sysw stl a n) s = .next s) ∧
  ((privilegedNumber n.toNat ∧ sMode s = false) ∨ unlistedNumber s n.toNat →
    Raises s (.sysw stl a n) (wordFault .illegal (.sysw stl a n)))

/-- R147: a SYSW to LC or LBLK takes effect after the SEQ evaluation of its own step: the entry that follows the queue is found
with the old loop state. LBLK's bits 2:1 read as zero. -/
def LoopRegisterWrites : Prop := ∀ (s : State) (stl : Stl) (a : Reg), NoUnderrun s [nx a] →
  let v := reads s a
  let e := onCtx s endsDiscard
  (∃ u, exec (.sysw stl a 0x010#12) s = .next u ∧ (curCtx u).lc = v ∧
    (traced s s.cur.1 = false → ((curCtx u).nnpc, (curCtx u).lblk) =
      ((nextEntry e e.cur.1 e.cur.2 none).1, (nextEntry e e.cur.1 e.cur.2 none).2.2)) ∧
    Passed { curCtx e with lc := v } (curCtx u) stl ((curCtx s).nul >>> 1)) ∧
  (∃ u, exec (.sysw stl a 0x011#12) s = .next u ∧ (curCtx u).lblk = bitsOf v 0 0 + bitsOf v 3 63 ∧
    (traced s s.cur.1 = false → ((curCtx u).nnpc, (curCtx u).lc) =
      ((nextEntry e e.cur.1 e.cur.2 none).1, (nextEntry e e.cur.1 e.cur.2 none).2.1)) ∧
    (loopOn (curCtx s).lblk = false →
      Passed { curCtx e with lblk := bitsOf v 0 0 + bitsOf v 3 63 } (curCtx u) stl ((curCtx s).nul >>> 1)))

/-- R149 and R151 (Table 7.2): the plain loads, in every form: the address x[a] + SEXT(off) × size must be aligned to the size
(else Misaligned, which its checks name first); the bytes that R85 gives are extended into x[d]. A load may also be performed later
(R84, R85; log 4): then x[d] shows a value that no instruction reads until the load is performed. -/
def PlainLoads : Prop := ∀ (s : State) (stl : Stl) (d a : Reg) (off : BitVec 9), NoUnderrun s [nx a] →
  let at' (size : Nat) : Word := BitVec.ofInt 64 ((reads s a).toNat + off.toInt * size)
  let does (i : Instr) (size : Nat) (sg : Bool) : Prop :=
    Loads s i stl d (at' size) size (if sg then signed (8 * size) else plain)
      (fun w p => issueLoad w s.cur.1 s.cur.2 p size (.x d sg)) ∧
    ((at' size).toNat % size ≠ 0 → watched s s.cur.1 s.cur.2 true false (at' size) size = none →
      RaisesAfter s i .load (at' size) ⟨.misaligned, 0#8, false, false, at' size⟩)
  does (.ldB stl d a off) 1 true ∧ does (.ldBu stl d a off) 1 false ∧ does (.ldH stl d a off) 2 true ∧
  does (.ldHu stl d a off) 2 false ∧ does (.ldW stl d a off) 4 true ∧ does (.ldWu stl d a off) 4 false ∧
  does (.ldD stl d a off) 8 false

/-- R85 and R293: what a plain load sees when it is performed, and that it leaves the homes alone. The youngest buffered store to the
same bytes is forwarded; an uncached page shows its homes, whatever the core's own L1 holds; a cached one shows the byte that the
core's own L1 holds dirty; an array shows its owner's bytes; a home byte changes only where a line that some core holds dirty is
written back. A load is performed as it issues, or waits among the late loads of its context and is performed by what `performLoad`
does (R84; log 4), as it is wherever no byte is poisoned by then: `loadNow` is the load itself, without the fences that a load issuing
now comes after; an access to a byte that a late load reads comes after it. A page
walk reads entries at their homes and leaves them so (R294). -/
def PlainLoadSees : Prop := ∀ (s : State) (p : Place) (n : Nat), MapsInv s →
  (∀ sb bs rel sc cnt e pin, (curCtx s).sbuf = sb ++ [.store p bs rel sc cnt e pin] → (∀ d o, p ≠ .weight d o) →
    (loadPlain s s.cur.1 s.cur.2 p bs.length).2.1 = bs) ∧
  ((curCtx s).sbuf = [] → ∀ a, p = .mem a true → (∀ e ∈ s.owner, e.1 ≠ a / 256) →
    (loadPlain s s.cur.1 s.cur.2 p n).2.1 = (List.range n).map fun i => homeByte s (a + i)) ∧
  ((curCtx s).sbuf = [] → ∀ a, p = .mem a false → (∀ i < n, ∃ v st, l1Byte (curCore s) (a + i) = some ⟨v, some st⟩) →
    (loadPlain s s.cur.1 s.cur.2 p n).2.1 = (List.range n).map fun i => ((l1Byte (curCore s) (a + i)).map (·.val)).getD 0#8) ∧
  ((curCtx s).sbuf = [] → ∀ o off, p = .array o off →
    (loadPlain s s.cur.1 s.cur.2 p n).2.1 = (List.range n).map fun i => sGet 0#8 (coreAt s o).array (off + i)) ∧
  (NoFence s → HomesKept s (loadPlain s s.cur.1 s.cur.2 p n).1) ∧
  (∀ dest, let e := performOverlaps s s.cur.1 s.cur.2 p n
    let r := issueLoad s s.cur.1 s.cur.2 p n dest
    r = loadPlain e s.cur.1 s.cur.2 p n ∨
      (r.1 = onCtx (beforeRead e s.cur.1 s.cur.2) (fun t => { t with late := t.late ++ [⟨p, n, dest⟩] }) ∧ r.2.2 = false)) ∧
  ((∀ l ∈ (curCtx s).late, overlap p n l.place l.n = false) → performOverlaps s s.cur.1 s.cur.2 p n = s) ∧
  ((∃ l ∈ (curCtx s).late, overlap p n l.place l.n = true) → performOverlaps s s.cur.1 s.cur.2 p n = performAll s s.cur.1 s.cur.2) ∧
  (NoFence s → loadPlain s s.cur.1 s.cur.2 p n = loadNow s s.cur.1 s.cur.2 p n) ∧
  (n ∈ [1, 2, 4, 8] → ∀ d sg, let r := loadNow s s.cur.1 s.cur.2 p n
    r.2.2 = false → performLoad s s.cur.1 s.cur.2 ⟨p, n, .x d sg⟩ =
      onCtx r.1 fun t => putX t d (if sg then signed (8 * n) (leNat r.2.1) else plain (leNat r.2.1))) ∧
  (∀ kind ea, HomesKept s (walkedBy s kind ea) ∧ curCtx (walkedBy s kind ea) = curCtx s)

/-- R152: the acquire loads, in every form, at every scope. -/
def AcquireLoads : Prop := ∀ (s : State) (stl : Stl) (d a : Reg) (sc : Scope), NoUnderrun s [nx a] →
  let does (i : Instr) (size : Nat) (ext : Nat → Word) : Prop :=
    Loads s i stl d (reads s a) size ext
      (fun w p => loadAcquire (performOverlaps w s.cur.1 s.cur.2 p size) s.cur.1 s.cur.2 sc p size)
  does (.ldBAcq stl d a sc) 1 (signed 8) ∧ does (.ldBuAcq stl d a sc) 1 plain ∧ does (.ldHAcq stl d a sc) 2 (signed 16) ∧
  does (.ldHuAcq stl d a sc) 2 plain ∧ does (.ldWAcq stl d a sc) 4 (signed 32) ∧ does (.ldWuAcq stl d a sc) 4 plain ∧
  does (.ldDAcq stl d a sc) 8 plain

/-- R88 and R152: an acquire at .core is a plain load. One at .cl or wider leaves no clean byte in its core's L1. Its context's own
buffered store to the bytes drains first, so that it reads what that store wrote (deduced: log 47). Then a byte that its own core
holds dirty in its L1 is read there; any other at the home, after the write-back that the line's last-release record forces: a byte
that the releaser holds dirty with a stamp that the record covers is the one read, where each lies within the other's scope. An
uncached page is read at its home (R293), an array at its owner's. -/
def AcquireSees : Prop := ∀ (s : State) (sc : Scope) (p : Place) (n : Nat), MapsInv s →
  let r := loadAcquire s s.cur.1 s.cur.2 sc p n
  (sc = .core → r = loadPlain s s.cur.1 s.cur.2 p n) ∧
  (sc ≠ .core → ∀ l ∈ (coreAt r.1 s.cur.1).l1, ∀ e ∈ l.bytes, e.2.dirty ≠ none) ∧
  (sc ≠ .core → ∀ bs rs cnt e pin, (curCtx s).sbuf = [.store p bs false rs cnt e pin] → n = bs.length →
    ((∃ o off, p = .array o off) ∨ (∃ a, p = .mem a false ∧ a % 256 + n ≤ 256 ∧ (curCore s).l1k ≠ 0)) → r.2.1 = bs) ∧
  (sc ≠ .core → (curCtx s).sbuf = [] →
    (∀ a i v st, p = .mem a false → i < n → l1Byte (curCore s) (a + i) = some ⟨v, some st⟩ → r.2.1[i]? = some v) ∧
    (∀ a i, p = .mem a false → i < n → (∀ v st, l1Byte (curCore s) (a + i) ≠ some ⟨v, some st⟩) → (∀ e ∈ s.owner, e.1 ≠ a / 256) →
      ((∀ e ∈ s.lrr, e.1 ≠ a / 256) → r.2.1[i]? = some (homeByte s (a + i))) ∧
      (∀ x st rs v, s.lrr.find? (·.1 == a / 256) = some (a / 256, ⟨x, st, rs⟩) → x ≠ s.cur.1 → within s rs s.cur.1 x = true →
        within s sc x s.cur.1 = true → (a + i) / 256 = a / 256 → HoldsDirty s x (a + i) v st → r.2.1[i]? = some v)) ∧
    (∀ a, p = .mem a true → (∀ e ∈ s.lrr, e.1 ≠ a / 256) → (∀ e ∈ s.owner, e.1 ≠ a / 256) →
      r.2.1 = (List.range n).map fun i => homeByte s (a + i)) ∧
    (∀ o off, p = .array o off → r.2.1 = (List.range n).map fun i => sGet 0#8 (coreAt s o).array (off + i)) ∧
    HomesKept s r.1)

/-- R86, R153 and R155: a plain or counted store puts its bytes, at its address, into the context's store buffer as the youngest entry,
after the late loads of its context that read one of them (log 4), with the translation that it keeps until it drains (R298); no byte of
memory changes until the entry drains, and no other register changes. ST.Q takes its upper half from x[r + 1]. -/
def Stores : Prop := ∀ (s : State) (stl : Stl) (d a : Reg) (off : BitVec 9),
  let at' (size : Nat) : Word := BitVec.ofInt 64 ((reads s a).toNat + off.toInt * size)
  let x := (reads s d).toNat
  let does (i : Instr) (kind : AccKind) (size : Nat) (bs : List Byte) (cnt : Bool) : Prop :=
    (∀ p, Reaches s kind (at' size) size p →
      let w := performOverlaps (walkedBy s kind (at' size)) s.cur.1 s.cur.2 p size
      Completes s i stl (onCtx w (buffered p bs false .pkg cnt (if cnt then none else keeps s (at' size))))) ∧
    (∀ t, Faults s kind (at' size) size t → RaisesAfter s i kind (at' size) t)
  (NoUnderrun s [nx d, nx a] →
    does (.stB stl d a off) .store 1 (lowBytes 1 x) false ∧ does (.stH stl d a off) .store 2 (lowBytes 2 x) false ∧
    does (.stW stl d a off) .store 4 (lowBytes 4 x) false ∧ does (.stD stl d a off) .store 8 (lowBytes 8 x) false ∧
    does (.stBCnt stl d a off) .counted 1 (lowBytes 1 x) true ∧ does (.stHCnt stl d a off) .counted 2 (lowBytes 2 x) true ∧
    does (.stWCnt stl d a off) .counted 4 (lowBytes 4 x) true ∧ does (.stDCnt stl d a off) .counted 8 (lowBytes 8 x) true) ∧
  (NoUnderrun s [nx d, nx (d + 1#5), nx a] →
    does (.stQ stl d a off) .store 16 (lowBytes 8 x ++ lowBytes 8 (reads s (d + 1#5)).toNat) false)

/-- R154: a release store waits in the buffer with its scope; the .ar form also drains all that the context has buffered, itself
last, in its own step, and at .cl or wider leaves no clean byte in the L1. Both end discardability. -/
def OrderedStores : Prop := ∀ (s : State) (stl : Stl) (sc : Scope) (a b : Reg), PutsArrived s →
  let ea := reads s a
  let x := (reads s b).toNat
  let does (i : Bool → Instr) (size : Nat) (bs : List Byte) : Prop :=
    (∀ p, Reaches s .store ea size p →
      let w := performOverlaps (walkedBy s .store ea) s.cur.1 s.cur.2 p size
      let e := onCtx w fun t => endsDiscard (buffered p bs true sc false (keeps s ea) t)
      Completes s (i false) stl e ∧
      (Unheld e →
        let e' := drainAll e s.cur.1 s.cur.2
        Completes s (i true) stl (if sc = .core then e' else invalidateClean e' s.cur.1))) ∧
    (∀ t, Faults s .store ea size t → ∀ ar, RaisesAfter s (i ar) .store ea t)
  (NoUnderrun s [nx a, nx b] →
    does (fun ar => .stBRel stl ar sc a b) 1 (lowBytes 1 x) ∧ does (fun ar => .stHRel stl ar sc a b) 2 (lowBytes 2 x) ∧
    does (fun ar => .stWRel stl ar sc a b) 4 (lowBytes 4 x) ∧ does (fun ar => .stDRel stl ar sc a b) 8 (lowBytes 8 x)) ∧
  (NoUnderrun s [nx a, nx b, nx (b + 1#5)] →
    does (fun ar => .stQRel stl ar sc a b) 16 (lowBytes 8 x ++ lowBytes 8 (reads s (b + 1#5)).toNat))

/-- R86 and R293: the drain of a plain store. To an uncached page, or from a core whose L1 has no bank, its bytes reach their
homes, least significant first, and no other home byte changes but by the write-back of an owned line; to an array, the owner's
array; elsewhere the core's own L1, which then holds the drained bytes, dirty, at their addresses, and the homes keep what they hold
but for write-backs. A counted store writes the owner's array and, where sender and receiver are of one team, adds 1 to the sender's
QSENT and to the receiver's QRECV (R155); no other core's counters move. -/
def StoreDrains : Prop := ∀ (s : State) (c : CoreId) (bs : List Byte) (sc : Scope) (e : Nat) (pin : Option TlbEntry), MapsInv s →
  let drained (p : Place) : State := drainItem s c (.store p bs false sc false e pin)
  (∀ a u, (u = true ∨ (coreAt s c).l1k = 0) → (∀ o ∈ s.owner, o.1 ≠ a / 256) →
    ∀ x, homeByte (drained (.mem a u)) x = if a ≤ x ∧ x < a + bs.length then bs.getD (x - a) 0#8 else homeByte s x) ∧
  (∀ o off x, sGet 0#8 (coreAt (drained (.array o off)) o).array x =
    if off ≤ x ∧ x < off + bs.length then bs.getD (x - off) 0#8 else sGet 0#8 (coreAt s o).array x) ∧
  (∀ o off, (drained (.array o off)).mem = s.mem) ∧
  (∀ a, (coreAt s c).l1k ≠ 0 → a % 256 + bs.length ≤ 256 →
    (∀ i < bs.length, ∃ st, l1Byte (coreAt (drained (.mem a false)) c) (a + i) = some ⟨bs.getD i 0#8, some st⟩) ∧
    HomesKept s (drained (.mem a false))) ∧
  (∀ o off, let u := drainItem s c (.store (.array o off) bs false sc true e pin)
    let one : Word32 := if sameTeam s c o then 1#32 else 0#32
    (∀ x, sGet 0#8 (coreAt u o).array x =
      if off ≤ x ∧ x < off + bs.length then bs.getD (x - off) 0#8 else sGet 0#8 (coreAt s o).array x) ∧
    (∀ q, (coreAt u q).qsent = (coreAt s q).qsent + (if q = c then one else 0#32) ∧
      (coreAt u q).qrecv = (coreAt s q).qrecv + (if q = o then one else 0#32) ∧
      (q ≠ o → (coreAt u q).array = (coreAt s q).array)) ∧ u.mem = s.mem)

/-- R157 and R158 (Table 7.3): every atomic, at both widths, in every ordering, near and far: the value computed from the old one and x[b]
is written, the old one is delivered; a late load of its bytes comes before it (log 4). AMOCAS writes x[b] only where the old value equals
x[d]. -/
def Atomics : Prop := ∀ (s : State) (stl : Stl) (far dw : Bool) (ord : MemOrder) (d a b : Reg),
  NoUnderrun s [nx a, nx b] →
  let does (i : Instr) (f : (w : Nat) → BitVec w → BitVec w → BitVec w) : Prop :=
    Atomically s i stl dw ord d a (amoMade s far dw ord b f)
  does (.amoSwap stl far dw ord d a b) (fun _ _ y => y) ∧
  does (.amoAdd stl far dw ord d a b) (fun w x y => BitVec.ofNat w (x.toNat + y.toNat)) ∧
  does (.amoAnd stl far dw ord d a b) (fun _ x y => x &&& y) ∧
  does (.amoOr stl far dw ord d a b) (fun _ x y => x ||| y) ∧
  does (.amoXor stl far dw ord d a b) (fun _ x y => x ^^^ y) ∧
  does (.amoMin stl far dw ord d a b) (fun _ x y => pick (x.toInt ≤ y.toInt) x y) ∧
  does (.amoMax stl far dw ord d a b) (fun _ x y => pick (y.toInt ≤ x.toInt) x y) ∧
  does (.amoMinu stl far dw ord d a b) (fun _ x y => pick (x.toNat ≤ y.toNat) x y) ∧
  does (.amoMaxu stl far dw ord d a b) (fun _ x y => pick (y.toNat ≤ x.toNat) x y) ∧
  (NoUnderrun s [nx d, nx a, nx b] →
    Atomically s (.amocas stl far dw ord d a b) stl dw ord d a fun e p =>
      let n := if dw then 8 else 4
      atomicAt (performOverlaps e s.cur.1 s.cur.2 p n) s.cur.1 s.cur.2 p n far (ord = .acq ∨ ord = .ar) (ord = .rel ∨ ord = .ar) fun old =>
        if leNat old = (reads s d).toNat % 256 ^ n then some (lowBytes n (reads s b).toNat) else none)

/-- R89 and R93: an atomic performed at the home of a line that no L1 holds and nobody owns: it reads the home bytes, writes what
its function gives, whole, in its own step, and no other home byte changes; one that writes nothing changes no home byte. The same
at an array: it reads and writes the bytes of the window's owner, and no other byte of an array or home. -/
def AtomicAtHome : Prop := ∀ (s : State) (a n : Nat) (f : List Byte → Option (List Byte)),
  MapsInv s → (curCtx s).sbuf = [] → (∀ old new, f old = some new → new.length = n) →
  (a % 256 + n ≤ 256 → (∀ c, ∀ l ∈ (coreAt s c).l1, l.line ≠ a / 256) → (∀ o ∈ s.owner, o.1 ≠ a / 256) →
    poisoned s.poison a n = false →
    let old := (List.range n).map fun i => homeByte s (a + i)
    let r := atomicAt s s.cur.1 s.cur.2 (.mem a true) n true false false f
    r.2.1 = old ∧ r.2.2 = false ∧
    (∀ new, f old = some new → ∀ x, homeByte r.1 x = if a ≤ x ∧ x < a + n then new.getD (x - a) 0#8 else homeByte s x) ∧
    (f old = none → r.1.mem = s.mem)) ∧
  (∀ (o : CoreId) (far : Bool), poisoned (coreAt s o).arrayPoison a n = false →
    let old := (List.range n).map fun i => sGet 0#8 (coreAt s o).array (a + i)
    let r := atomicAt s s.cur.1 s.cur.2 (.array o a) n far false false f
    r.2.1 = old ∧ r.2.2 = false ∧ r.1.mem = s.mem ∧ (∀ q, q ≠ o → (coreAt r.1 q).array = (coreAt s q).array) ∧
    (∀ new, f old = some new → ∀ x, sGet 0#8 (coreAt r.1 o).array x =
      if a ≤ x ∧ x < a + n then new.getD (x - a) 0#8 else sGet 0#8 (coreAt s o).array x) ∧
    (f old = none → (coreAt r.1 o).array = (coreAt s o).array))

/-- R26 and R34: ARRIVE in U mode takes a credit, where one is held, and does nothing else (it stands for the arrival of the region
again, Table 1.7); else it waits while its core's arrival stands;
else it releases at the channel's scope, takes its vote from x[a][0] and counts one arrival of the region. On a channel whose group is
the core alone (R25) that completes the generation: READY is set and both results are the vote; on another channel ARR is set and
READY cleared (a group's generation completes in an event of its own, log 24). -/
def BarrierArrival : Prop := ∀ (s : State) (stl : Stl) (a : Reg) (k : BitVec 3), NoUnderrun s [nx a] →
  let i := Instr.arrive stl a k
  let q := curCore s
  let credit := (curCtx s).credit.get k.toFin
  let anew := sMode s = true ∨ credit = 0
  let made := (curCtx s).arrived.get k.toFin
  (sMode s = false → 0 < credit → Completes s i stl (onCtx s fun t =>
    { t with credit := vPut t.credit k.toFin (credit - 1), arrived := vPut t.arrived k.toFin (made + 1) })) ∧
  (anew → q.arr.getLsbD k.toNat = true → exec i s = .next s) ∧
  (anew → q.arr.getLsbD k.toNat = false → Unheld s → PutsArrived s → ∃ e, Completes s i stl e ∧
    let r := coreAt e s.cur.1
    let alone := groupOf s s.cur.1 k = [s.cur.1]
    (∀ n : BitVec 3, chan r.vote n = if n = k then (reads s a).toNat % 2 else chan q.vote n) ∧
    (¬alone → (∀ n : BitVec 3, chan r.arr n = if n = k then 1 else chan q.arr n) ∧
      (∀ n : BitVec 3, chan r.ready n = if n = k then 0 else chan q.ready n)) ∧
    (alone → q.dbg.halt = false → q.dbg.queued = [] → (∀ n : BitVec 3, chan r.arr n = chan q.arr n) ∧
      (∀ n : BitVec 3, chan r.ready n = if n = k then 1 else chan q.ready n) ∧
      chan r.resAnd k = (reads s a).toNat % 2 ∧ chan r.resOr k = (reads s a).toNat % 2) ∧
    (curCtx e).arrived.get k.toFin = (if sMode s then made else made + 1) ∧ (curCtx e).sbuf = [] ∧
    (curCtx e).x = (curCtx s).x ∧ (curCtx e).status = (curCtx s).status)

/-- R26: WAITB waits while the channel's arrival is not answered; then it delivers OR and AND, in bits 1 and 0, acquires at the
channel's scope, and clears READY. -/
def BarrierWait : Prop := ∀ (s : State) (stl : Stl) (d : Reg) (k : BitVec 3),
  let i := Instr.waitb stl d k
  let q := curCore s
  (q.arr.getLsbD k.toNat = true → Waits s i) ∧
  (q.arr.getLsbD k.toNat = false → Unheld s → ∃ e, Completes s i stl (onCtx e fun t =>
      putX t d (BitVec.ofNat 64 (chan q.resAnd k + 2 * chan q.resOr k))) ∧
    (∀ n : BitVec 3, chan (coreAt e s.cur.1).ready n = if n = k then 0 else chan q.ready n) ∧ (curCtx e).x = (curCtx s).x ∧
    ((q.bmask.get k.toFin).toNat % 4 ≠ 3 → ∀ l ∈ (coreAt e s.cur.1).l1, ∀ b ∈ l.bytes, b.2.dirty ≠ none))

/-- R26: WANY with an empty mask delivers 2^63; else it waits for a ready channel of the mask and takes the first in the order from
START, delivers its number, AND and OR, clears its READY and moves START behind it. -/
def BarrierAny : Prop := ∀ (s : State) (stl : Stl) (d : Reg) (mask : BitVec 8),
  let i := Instr.wany stl d mask
  let q := curCore s
  let ready (k : BitVec 3) : Prop := chan q.ready k = 1 ∧ chan mask k = 1
  (mask = 0#8 → Writes s i stl d (BitVec.ofNat 64 (2 ^ 63))) ∧
  (mask ≠ 0#8 → (∀ k, ¬ready k) → Waits s i) ∧
  (∀ k : BitVec 3, ready k → (∀ m : BitVec 3, (m - q.start).toNat < (k - q.start).toNat → ¬ready m) → Unheld s →
    ∃ e, Completes s i stl (onCtx e fun t => putX t d (BitVec.ofNat 64 (k.toNat + 8 * chan q.resAnd k + 16 * chan q.resOr k))) ∧
      (coreAt e s.cur.1).start = k + 1#3 ∧ (curCtx e).x = (curCtx s).x ∧
      (∀ n : BitVec 3, chan (coreAt e s.cur.1).ready n = if n = k then 0 else chan q.ready n))

/-- R24 and R34: PHASE, in ctx0: in U mode a credit is taken, where one is held, and nothing else (it stands for the advance of the
region again); else with every gate open the count advances by one, and a closed gate makes it wait. An advance of S mode is none of
the region (R261). -/
def PhaseAdvance : Prop := ∀ (s : State) (stl : Stl),
  let i := Instr.phase stl
  let t := curCtx s
  Ctx0Only s i ∧
  let anew := sMode s = true ∨ t.phaseCredit = 0
  (s.cur.2 = 0 → sMode s = false → 0 < t.phaseCredit → Completes s i stl (onCtx s fun t =>
    { t with phaseCredit := t.phaseCredit - 1, phased := t.phased + 1 })) ∧
  (s.cur.2 = 0 → anew → GatesOpen s s.cur.1 → Completes s i stl
    (onCtx (modCore s s.cur.1 fun q => { q with phase := BitVec.ofNat 32 (q.phase.toNat + 1) }) fun t =>
      { t with phased := if sMode s then t.phased else t.phased + 1 })) ∧
  (s.cur.2 = 0 → anew → ¬GatesOpen s s.cur.1 → Waits s i)

/-- R29 and R161: QWAIT waits until two successive waves have seen the same total, sent and received alike, and delivers it, having
acquired; a wave tells every context of the team that waits there. That a wave reads all cores of the team at one instant is deduced,
and unsafe (log 60). SLEEP waits x[a][31:0] nanoseconds or for a wake event, and not
at all for 0. -/
def QuiescenceAndSleep : Prop := ∀ (s : State) (stl : Stl) (d a : Reg) (c : CoreId),
  let t := curCtx s
  let n := (reads s a).toNat % 2 ^ 32
  let notYet := ¬Within t ∧ ∀ last told, t.wait ≠ .qwait last told
  (notYet → NoStop s → exec (.qwait stl d) s = .next (onCtx s fun t => { t with wait := .qwait none none })) ∧
  (∀ last, t.wait = .qwait last none → Waits s (.qwait stl d)) ∧
  (∀ last v, t.wait = .qwait last (some v) → Unheld s → ∃ e, Completes s (.qwait stl d) stl
      (onCtx e fun t => putX t d (BitVec.ofNat 64 v.toNat)) ∧ (curCtx e).x = t.x ∧
    ∀ l ∈ (coreAt e s.cur.1).l1, ∀ b ∈ l.bytes, b.2.dirty ≠ none) ∧
  (∀ m ∈ teamCores s c, ∀ j last, (ctxAt s m j).wait = .qwait last none →
    ∃ u, exec (.quiescenceWave c) s = .next u ∧ (ctxAt u m j).wait =
      (let sent := teamSum s c (·.qsent)
       if sent ≠ teamSum s c (·.qrecv) then .qwait none none else if last = some sent then .qwait last (some sent)
       else .qwait (some sent) none)) ∧
  (NoUnderrun s [nx a] → n = 0 → Completes s (.sleep stl a) stl s) ∧
  (NoUnderrun s [nx a] → 0 < n → (∀ dl w, t.wait ≠ .sleep dl w) → ¬Within t → NoStop s →
    exec (.sleep stl a) s = .next (onCtx s fun t => { t with wait := .sleep (s.ns + n) false })) ∧
  (NoUnderrun s [nx a] → 0 < n → ∀ dl w, t.wait = .sleep dl w →
    (w = true ∨ dl ≤ s.ns → Completes s (.sleep stl a) stl s) ∧ (w = false → s.ns < dl → Waits s (.sleep stl a)))

/-- R77 and R178: reductions into element 0. Float elements are widened to FP32 and combined by the pairwise tree, with the neutral
value at inactive elements; integers are exact, the sum wrapping at 32 bits. -/
def VectorReductions : Prop := ∀ (s : State) (stl : Stl) (t : VType) (d a b : Reg) (m : MReg),
  let w := widthOf t
  let n := if t = .bf16 then 5 else 4
  let one : VOps := ⟨[a], some d, false⟩
  let two : VOps := ⟨[a, b], some d, false⟩
  let wide (x : Nat) : Word32 := BitVec.ofNat 32 (if t = .bf16 then x * 2 ^ 16 else x)
  let xf (o : VOps) (r : Reg) (k : Nat) : Word32 := wide (lane w (vin s o r) k)
  let xi (o : VOps) (r : Reg) (k : Nat) : Int := asInt w (lane w (vin s o r) k)
  let float := t = .f32 ∨ t = .bf16
  (float →
    ReducesFloat s (.vred stl t d a .sum m) stl n one m (fun k => (xf one a k, 0#5)) 0#32 addF32 ∧
    ReducesFloat s (.vred stl t d a .min m) stl n one m (fun k => (xf one a k, 0#5)) 0x7F800000#32 (minMaxF32 false) ∧
    ReducesFloat s (.vred stl t d a .max m) stl n one m (fun k => (xf one a k, 0#5)) 0xFF800000#32 (minMaxF32 true) ∧
    ReducesFloat s (.vdot stl t d a b m) stl n two m (fun k => mulF32 (xf two a k) (xf two b k)) 0#32 addF32 ∧
    ReducesFloat s (.vsqsum stl t d a m) stl n one m (fun k => mulF32 (xf one a k) (xf one a k)) 0#32 addF32) ∧
  (¬float →
    ReducesInt s (.vred stl t d a .sum m) stl w one m (xi one a) 0 (· + ·) ∧
    ReducesInt s (.vred stl t d a .min m) stl w one m (xi one a) (2 ^ (w - 1) - 1) min ∧
    ReducesInt s (.vred stl t d a .max m) stl w one m (xi one a) (-2 ^ (w - 1)) max ∧
    ReducesInt s (.vdot stl t d a b m) stl w two m (fun k => xi two a k * xi two b k) 0 (· + ·))

/-- R179 and R180 (Table 8.2, Table 3.8): conversions between element types, with the rounding mode of the form and saturation where the
table says so, and the transcendentals, element by element. NX and UF of the transcendentals are deduced (log 54). -/
def VectorConversions : Prop := ∀ (s : State) (stl : Stl) (rm : RMode) (d a : Reg) (m : MReg),
  let o : VOps := ⟨[a], some d, false⟩
  let ints (lo hi : Int) (r x : Nat) : Int × FFlags := flToInt rm r lo hi (unpackFl fmtF32 x)
  let does (i : Instr) (ws wd n : Nat) (f : Nat → Nat → Int × FFlags) : Prop := Converts s i stl rm d a m ws wd n f
  does (.vcvtBf16F32 stl rm d a m) 32 16 16 (fun r x => ofFloat (convFl fmtBf16 rm r (unpackFl fmtF32 x))) ∧
  does (.vcvtF32Bf16 stl rm d a m) 16 32 16 (fun _ x => ofInt' (x * 2 ^ 16)) ∧
  does (.vcvtI32F32 stl rm d a m) 32 32 16 (ints (-2 ^ 31) (2 ^ 31 - 1)) ∧
  does (.vcvtF32I32 stl rm d a m) 32 32 16 (fun r x => ofFloat (intToFl fmtF32 rm r (asInt 32 x))) ∧
  does (.vcvtI16I32 stl rm d a m) 32 16 16 (fun _ x => ofInt' (clamp 16 (asInt 32 x))) ∧
  does (.vcvtI8I16 stl rm d a m) 16 8 32 (fun _ x => ofInt' (clamp 8 (asInt 16 x))) ∧
  does (.vcvtI32I16 stl rm d a m) 16 32 16 (fun _ x => ofInt' (asInt 16 x)) ∧
  does (.vcvtI16I8 stl rm d a m) 8 16 32 (fun _ x => ofInt' (asInt 8 x)) ∧
  (let trans (i : Instr) (k : Trans) : Prop :=
    Lanewise s i stl 32 [nm m] o m 8 fun x => ofFloat (transFl k (unpackFl fmtF32 (lane 32 (vin s o a) x)))
   trans (.vexp2 stl d a m) .exp2 ∧ trans (.vlog2 stl d a m) .log2 ∧ trans (.vrcp stl d a m) .rcp ∧ trans (.vrsq stl d a m) .rsq)

/-- R181 and R182: comparisons into a mask register and the mask instructions; m0 reads all ones and is never written (R174). -/
def VectorMasks : Prop := ∀ (s : State) (stl : Stl) (t : VType) (fr : FRel) (ir : IRel) (k : MReg) (a b : Reg) (m : MReg)
    (p q r : MReg),
  let w := widthOf t
  let fmt := if t = .bf16 then fmtBf16 else fmtF32
  let M (x : MReg) : Word := maskOf s s.cur.1 s.cur.2 x
  let goes (i : Instr) (rs : List Nat) (e : State) : Prop := VecGoes s i rs {} → Completes s i stl e
  let puts (v : Word) : State := writeM s s.cur.1 s.cur.2 p 2 v
  let gives (v : Nat) : State := writeX s s.cur.1 s.cur.2 a 2 (BitVec.ofNat 64 v)
  ((t = .f32 ∨ t = .bf16) → Compares s (.vcmpFloat stl t fr k a b m) stl w k a b m
    (fun x y => cmpFl fr (unpackFl fmt x) (unpackFl fmt y))) ∧
  (t ≠ .f32 → t ≠ .bf16 → Compares s (.vcmpInteger stl t ir k a b m) stl w k a b m (fun x y => (intRel w ir x y, 0#5))) ∧
  goes (.mand stl p q r) [nm q, nm r] (puts (M q &&& M r)) ∧ goes (.mor stl p q r) [nm q, nm r] (puts (M q ||| M r)) ∧
  goes (.mxor stl p q r) [nm q, nm r] (puts (M q ^^^ M r)) ∧ goes (.mnot stl p q) [nm q] (puts (~~~M q)) ∧
  goes (.mpop stl a q) [nm q] (gives ((List.range 64).countP (M q).getLsbD)) ∧
  (∃ n ≤ 64, (∀ i < n, (M q).getLsbD i = false) ∧ (n < 64 → (M q).getLsbD n = true) ∧ goes (.mfirst stl a q) [nm q] (gives n)) ∧
  M 0#3 = BitVec.allOnes 64 ∧ (∀ s' v, mreg (coreAt (writeM s' s'.cur.1 s'.cur.2 0#3 2 v) s'.cur.1) 0#3 = BitVec.allOnes 64)

/-- R183 (Table 8.3): the lane moves, at every width. VSEL takes each element of 32 bits by its mask bit; VBCAST, VMOV, VPERM and
VSLIDE write active elements; VEXT delivers one element, zero-extended. -/
def VectorMoves : Prop := ∀ (s : State) (stl : Stl) (d a b : Reg) (m : MReg),
  let none' : VOps := ⟨[], some d, false⟩
  let one : VOps := ⟨[a], some d, false⟩
  let two : VOps := ⟨[a, b], some d, false⟩
  let src : VOps := ⟨[a], none, false⟩
  let E (o : VOps) (w : Nat) (r : Reg) (k : Nat) : Nat := lane w (vin s o r) k
  let x (o : VOps) (r : Reg) : Word := reads (afterPops s o) r
  let bcast (i : Instr) (w : Nat) : Prop := Lanewise s i stl w [nm m, nx a] none' m 2 fun _ => ofInt' (x none' a).toNat
  let perm (i : Instr) (w : Nat) : Prop := Lanewise s i stl w [nm m] two m 2 fun k => ofInt' (E two w a (E two w b k % (512 / w)))
  let slide (i : Instr) (w : Nat) : Prop := Lanewise s i stl w [nm m, nx b] one m 2 fun k =>
    let n := (x one b).toInt + k
    ofInt' (if 0 ≤ n ∧ n < ((512 / w : Nat) : Int) then E one w a n.toNat else 0)
  let ext (i : Instr) (w : Nat) : Prop := VecGoes s i [nx b] src →
    VecDoes s i stl src 2 (writeX (afterPops s src) s.cur.1 s.cur.2 d 2
      (BitVec.ofNat 64 (E src w a ((x src b).toNat % (512 / w))))) 0#512
  (VecGoes s (.vsel stl d a b m) [nm m] two → ∃ v, (∀ k < 16, lane 32 v k =
      if (vmask s two m).getLsbD k then E two 32 a k else E two 32 b k) ∧ VecDoes s (.vsel stl d a b m) stl two 2 (afterPops s two) v) ∧
  bcast (.vbcast32 stl d a m) 32 ∧ bcast (.vbcast16 stl d a m) 16 ∧ bcast (.vbcast8 stl d a m) 8 ∧
  Lanewise s (.vmov stl d a m) stl 32 [nm m] one m 2 (fun k => ofInt' (E one 32 a k)) ∧
  perm (.vperm32 stl d a b m) 32 ∧ perm (.vperm16 stl d a b m) 16 ∧ perm (.vperm8 stl d a b m) 8 ∧
  slide (.vslide32 stl d a b m) 32 ∧ slide (.vslide16 stl d a b m) 16 ∧ slide (.vslide8 stl d a b m) 8 ∧
  ext (.vext32 stl d a b) 32 ∧ ext (.vext16 stl d a b) 16 ∧ ext (.vext8 stl d a b) 8

/-- R184–R186: vector loads and stores: 64 bytes at x[a] + SEXT(off) × 64, strided and indexed elements in ascending order. A store
that faults at an element leaves the elements before it stored; a load that faults at an element writes no register, and no stream
steps. Loads into a register may be performed later (R84; log 4). -/
def VectorMemory : Prop := ∀ (s : State) (stl : Stl) (d a b : Reg) (off : BitVec 12) (m : MReg),
  let at' (s : State) : Word := BitVec.ofInt 64 ((reads s a).toNat + off.toInt * 64)
  let into : VOps := ⟨[], some d, false⟩
  let idx : VOps := ⟨[b], some d, false⟩
  let out : VOps := ⟨[d], none, false⟩
  let outIdx : VOps := ⟨[d, b], none, false⟩
  (VecGoes s (.vld stl d a off) [nx a] into → Unheld s → ∀ p, Reaches s .load (at' s) 64 p →
    let r := loadsElement (walkedBy s .load (at' s)) d p 64 0
    (r.2.2 = false → VecDoes s (.vld stl d a off) stl into 1 r.1 (BitVec.ofNat 512 (leNat r.2.1)))) ∧
  (s.cur.2 = 0 → NoUnderrun s [nx a] → Unheld s → ∀ t, Faults s .load (at' s) 64 t → RaisesAfter s (.vld stl d a off) .load (at' s) t) ∧
  (s.cur.2 = 0 → NoUnderrun s ([nx a] ++ ([d].filter fun r => (boundStream s s.cur.1 r).isNone).map nv) →
    ∀ t, Faults s .store (at' s) 64 t → RaisesAfter s (.vst stl d a off) .store (at' s) t) ∧
  (VecGoes s (.vst stl d a off) [nx a] out → ∀ p q, Reaches s .store (at' s) 64 p →
    Reaches (afterPops s out) .store (at' (afterPops s out)) 64 q →
    let w := performOverlaps (walkedBy (afterPops s out) .store (at' (afterPops s out))) s.cur.1 s.cur.2 q 64
    VecDoes s (.vst stl d a off) stl out 1 (onCtx w (buffered q (lowBytes 64 (vin s out d).toNat) false .pkg false
      (keeps (afterPops s out) (at' (afterPops s out))))) 0#512) ∧
  (let ld (i : Instr) (w : Nat) : Prop := LoadsLanes s i stl w [nm m, nx a, nx b] into m (stridedAt s into a b)
   ld (.vlds32 stl d a b m) 32 ∧ ld (.vlds16 stl d a b m) 16 ∧ ld (.vlds8 stl d a b m) 8) ∧
  (let gth (i : Instr) (w : Nat) : Prop := LoadsLanes s i stl w [nm m, nx a] idx m (indexedAt s idx a b w)
   gth (.vgth32 stl d a b m) 32 ∧ gth (.vgth16 stl d a b m) 16 ∧ gth (.vgth8 stl d a b m) 8) ∧
  (let st (i : Instr) (w : Nat) : Prop := StoresLanes s i stl w [nm m, nx a, nx b] out m d (stridedAt s out a b)
   st (.vsts32 stl d a b m) 32 ∧ st (.vsts16 stl d a b m) 16 ∧ st (.vsts8 stl d a b m) 8) ∧
  (let sct (i : Instr) (w : Nat) : Prop := StoresLanes s i stl w [nm m, nx a] outIdx m d (indexedAt s outIdx a b w)
   sct (.vsct32 stl d a b m) 32 ∧ sct (.vsct16 stl d a b m) 16 ∧ sct (.vsct8 stl d a b m) 8)

/-- R20, R60, R119 and R189: what a vector result does. Into a register it changes that register alone; into a bound stream it enters the
store buffer as 64 bytes at the stream's place, with the translation of an address stream (R298), after late loads of its context that
read one of them (log 4), and no vector register changes otherwise; a vector instruction in a charm raises Context Class. -/
def VectorResults : Prop := ∀ (s : State) (stl : Stl) (t : VType) (d a b : Reg) (m : MReg) (srcs : List Reg) (upd : Bool)
    (lat : Nat) (v : VWord),
  let c := s.cur.1
  let u := vResult s c s.cur.2 ⟨srcs, some d, upd⟩ lat v
  (boundStream s c d = none → (∀ r, vreg (coreAt u c) r = if r = d then v else vreg (coreAt s c) r) ∧ u.mem = s.mem ∧
    (curCtx u).x = (curCtx s).x ∧ (curCtx u).sbuf = (curCtx s).sbuf ∧ (coreAt u c).m = (coreAt s c).m) ∧
  (∀ k p, boundStream s c d = some k →
    let b := streamAt s c k
    let e := if b.kind = .addr then walkedBy s .store (streamEa b) else s
    streamPlace e c s.cur.2 k (if upd then .update else .sink) = .ok p →
    u = onCtx (performOverlaps e c s.cur.2 p 64)
      (buffered p (lowBytes 64 v.toNat) false .pkg false (if b.kind = .addr then keeps s (streamEa b) else none))) ∧
  (s.cur.2 ≠ 0 → NoUnderrun s ([nm m] ++ ([a, b].filter fun r => (boundStream s c r).isNone).map nv) →
    Raises s (.vadd stl t d a b m) (wordFault .contextClass (.vadd stl t d a b m)))

/-- R212: RACQ waits for a slot on the core's side, takes it, having acquired, and delivers its SELF address; the context that holds
the slot since its RSTART gets it again; no count or index changes. -/
def RingAcquire : Prop := ∀ (s : State) (stl : Stl) (d : Reg) (ring : BitVec 3),
  let i := Instr.racq stl d ring
  let r := ringAt s s.cur.1 ring
  let va := BitVec.ofNat 64 (2 * 2 ^ 56 + r.base + slotNumber r * r.slot)
  let usable := r.bound = true ∧ r.strm = false
  let mine := ∃ e ∈ (curCtx s).ringsHeld, e = (ring.toNat, true)
  let ready := if r.side then 0 < r.free ∧ r.prod = none else 0 < r.filled ∧ r.cons = none
  (¬usable ∨ (r.held = true ∧ ¬mine) → Raises s i (wordFault .ringMisuse i)) ∧
  (usable → r.held = true → mine → Writes s i stl d va) ∧
  (usable → r.held = false → ¬ready → Waits s i) ∧
  (usable → r.held = false → ready → Unheld s → ∃ e, Completes s i stl (onCtx e fun t => putX t d va) ∧
    ringAt e s.cur.1 ring = { r with held := true } ∧ (∀ q, q ≠ ring → ringAt e s.cur.1 q = ringAt s s.cur.1 q) ∧
    (ring.toNat, true) ∈ (curCtx e).ringsHeld ∧ (curCtx e).x = (curCtx s).x ∧
    (∀ l ∈ (coreAt e s.cur.1).l1, ∀ b ∈ l.bytes, b.2.dirty ≠ none))

/-- R212 (Table 9.6): RREL gives the held slot back at .cl, delivers its index, moves HEAD or TAIL on and the counts with it, and
ends discardability; RSTAT delivers the ring's word. -/
def RingRelease : Prop := ∀ (s : State) (stl : Stl) (d : Reg) (ring : BitVec 3),
  let i := Instr.rrel stl d ring
  let r := ringAt s s.cur.1 ring
  let usable := r.bound = true ∧ r.strm = false ∧ r.held = true
  (¬usable → Raises s i (wordFault .ringMisuse i)) ∧
  (usable → Unheld s → PutsArrived s → ∃ e, Completes s i stl (onCtx e fun t => putX t d (BitVec.ofNat 64 (slotNumber r))) ∧
    Returned r (ringAt e s.cur.1 ring) ∧ (∀ q, q ≠ ring → ringAt e s.cur.1 q = ringAt s s.cur.1 q) ∧ (curCtx e).sbuf = [] ∧
    (curCtx e).status = (endsDiscard (curCtx s)).status ∧ (curCtx e).x = (curCtx s).x) ∧
  (r.bound = false → Writes s (.rstat stl d ring) stl d 0#64) ∧
  (r.bound = true → r.free < 2 ^ 13 → r.filled < 2 ^ 13 → r.head < 2 ^ 12 → r.tail < 2 ^ 12 →
    Writes s (.rstat stl d ring) stl d (BitVec.ofNat 64 (r.free + r.filled * 2 ^ 16 + r.head * 2 ^ 32 + r.tail * 2 ^ 48 +
      r.held.toNat * 2 ^ 60 + r.side.toNat * 2 ^ 61 + r.strm.toNat * 2 ^ 62 + 2 ^ 63)))

/-- R187 and R188: SBIND binds v28–v31 to a ring or an address stream at position 0, with no direction yet, and zeroes the register;
the old binding goes first, as by SUNBIND. The binding remembers the region in which it was made, so that a discard tells it from an
older one (R190). Both are for ctx0. -/
def StreamBinding : Prop := ∀ (s : State) (stl : Stl) (k : BitVec 2) (ring : BitVec 3) (a b c : Reg),
  let q := s.cur.1
  let r := ringAt s q ring
  let old := streamAt s q k
  let free := s.cur.2 = 0 ∧ unbindHeld s q s.cur.2 k = false
  let usable := r.bound = true ∧ r.slot % 64 = 0 ∧ (r.strm = true → old.kind = .ring ∧ old.ring = ring)
  (free → usable → Completes s (.sbindRing stl k ring) stl (modRing (modCore (unbound s k) q
      (boundAs k ⟨.ring, .unset, 0#32, 0#32, 0#64, 0#64, ring, 0, false, false, (curCtx s).epoch + 1⟩)) q ring fun r => { r with strm := true })) ∧
  (s.cur.2 = 0 → ¬usable → Raises s (.sbindRing stl k ring) (wordFault .ringMisuse (.sbindRing stl k ring))) ∧
  (free → NoUnderrun s [nx a, nx b, nx c] → Completes s (.sbindAddr stl k a b c) stl (modCore (unbound s k) q
      (boundAs k ⟨.addr, .unset, 0#32, BitVec.ofNat 32 (reads s c).toNat, reads s a, reads s b, 0#3, 0, false, false, (curCtx s).epoch + 1⟩))) ∧
  (free → Completes s (.sunbind stl k) stl (unbound s k)) ∧
  Ctx0Only s (.sunbind stl k) ∧ Ctx0Only s (.sbindRing stl k ring) ∧
  (NoUnderrun s [nx a, nx b, nx c] → Ctx0Only s (.sbindAddr stl k a b c))

/-- R188: what unbinding does: an address stream goes, with its register zeroed, and no older result of that register is outstanding any
more (R120); a ring slot that is untouched is handed back with no count changed; a partly used one is released as it stands, on the
side that it was taken for. -/
def StreamUnbinding : Prop := ∀ (s : State) (c : CoreId) (j : CtxId) (k : BitVec 2),
  let b := streamAt s c k
  let u := unbindStream s c j k
  let gone := boundAs k ⟨.unbound, .unset, 0#32, 0#32, 0#64, 0#64, 0#3, 0, false, false, 0⟩
  let r := ringAt s c b.ring
  (b.kind = .unbound → u = (s, false)) ∧ (b.kind = .addr → u.2 = false ∧ ∃ l, u.1 = modCtx (modCore s c gone) c j (fun t => { t with inflight := l })) ∧
  (b.kind ≠ .unbound → ∀ e ∈ (ctxAt u.1 c j).inflight, e.reg ≠ 60 + k.toNat) ∧
  (b.kind = .ring → streamAt u.1 c k = Stream.none ∧ vreg (coreAt u.1 c) (streamReg k) = 0#512 ∧
    (ringAt u.1 c b.ring).strm = false) ∧
  (b.kind = .ring → b.holds = false → ringAt u.1 c b.ring = { r with strm := false } ∧ u.2 = false) ∧
  (b.kind = .ring → b.holds = true → b.off = 0 → ringAt u.1 c b.ring = { r with strm := false, held := false } ∧ u.2 = false) ∧
  (b.kind = .ring → b.holds = true → b.off ≠ 0 → u.2 = true ∧
    ringAt u.1 c b.ring = { giveSlot b.out { r with strm := false } with held := false, rel := (ringAt u.1 c b.ring).rel })

/-- R189 and R190: what one pop, push or update does to its binding: its direction is fixed and its position advances by one; on a
ring the offset moves 64 bytes on within the slot, and at the slot's end the slot goes back and discardability ends. An access whose
binding holds no slot of its side waits until one is available. SIDE is not checked: deduced (log 61). -/
def StreamSteps : Prop := ∀ (s : State) (c : CoreId) (j : CtxId) (k : BitVec 2) (dir : StreamDir),
  let b := streamAt s c k
  let b' := streamAt (streamStep s c j k dir) c k
  let r := ringAt s c b.ring
  let r' := ringAt (streamStep s c j k dir) c b.ring
  b'.dir = dir ∧ b'.pos.toNat = (b.pos.toNat + 1) % 2 ^ 32 ∧ b'.kind = b.kind ∧ b'.ring = b.ring ∧ b'.base = b.base ∧
  (b.kind ≠ .ring → streamStep s c j k dir = putStream s c k b') ∧
  (b.kind = .ring → ¬(b.holds = true ∧ b.out = (dir == .sink)) →
    ¬(if dir = .sink then 0 < r.free ∧ r.prod = none else 0 < r.filled ∧ r.cons = none) →
    streamPlace s c j k dir = .error (.wait s true)) ∧
  (b.kind = .ring → b.off + 64 < r.slot → b'.off = b.off + 64 ∧ b'.holds = true ∧ b'.out = (dir == .sink) ∧
    r' = { r with held := if b.holds = true ∧ b.out = (dir == .sink) then r.held else true }) ∧
  (b.kind = .ring → r.slot ≤ b.off + 64 → b'.off = 0 ∧ b'.holds = false ∧ r'.held = false ∧
    (stPriv (ctxAt s c j) = false → (ctxAt (streamStep s c j k dir) c j).status.getLsbD 6 = true) ∧
    (dir = .sink → r'.filled = r.filled + 1 ∧ r'.free = r.free - 1 ∧ r'.head = (r.head + 1) % r.count) ∧
    (dir ≠ .sink → r'.free = r.free + 1 ∧ r'.filled = r.filled - 1 ∧ r'.tail = (r.tail + 1) % r.count))

/-- R192: the lease. MLEASE waits for it, in ctx0, and sets its count once it is held and unused; MREL ends it; a grant passes a free
lease to the waiting core that follows the last holder in the rotation. The grant is an event of its own: deduced (log 68). -/
def MatrixLease : Prop := ∀ (s : State) (stl : Stl) (n : BitVec 12) (g : ClusterId),
  let here := clusterOf s s.cur.1
  let e := engineOf s
  let legal := 1 ≤ n.toNat ∧ n.toNat ≤ 64
  (¬legal → Raises s (.mlease stl n) (wordFault .illegal (.mlease stl n))) ∧
  (legal → Ctx0Only s (.mlease stl n)) ∧
  (legal → s.cur.2 = 0 → e.holder = some s.cur.1 → e.used = 0 →
    Completes s (.mlease stl n) stl (modEngine s here fun e => { e with count := n.toNat })) ∧
  (legal → s.cur.2 = 0 → e.holder = some s.cur.1 → e.used ≠ 0 →
    Raises s (.mlease stl n) (wordFault .leaseState (.mlease stl n))) ∧
  (legal → s.cur.2 = 0 → e.holder ≠ some s.cur.1 → NoStop s → ∃ u, exec (.mlease stl n) s = .next u ∧
    s.cur.1.val ∈ (engineAt u here).waiting ∧ (engineAt u here).holder = e.holder ∧ curCtx u = curCtx s) ∧
  (s.cur.2 = 0 → Completes s (.mrel stl) stl (modEngine s here fun e =>
    if e.holder = some s.cur.1 then { e with holder := none, count := 0, used := 0, joining := false } else e)) ∧
  ((engineAt s g).holder = none → ∀ c : CoreId, c.val ∈ (engineAt s g).waiting →
    (∀ m ∈ (engineAt s g).waiting, m ≠ c.val →
      (cicOf (coreAt s c) + 15 - (engineAt s g).lastGrant) % 8 < (cicOf (coreAt s (coreId m)) + 15 - (engineAt s g).lastGrant) % 8) →
    (∀ m ∈ (engineAt s g).waiting, m < 1024) →
    ∃ u, exec (.leaseGrant g) s = .next u ∧ (engineAt u g).holder = some c ∧
      (engineAt u g).count = ((coreAt s c).leaseSaved.getD (0, 0)).1)

/-- R193 and R197–R199: MSWAP exchanges the banks of every engine it applies to once their queues are empty; MGANG joins when all four
engines have joined, and leaves by a command, which notes the gang's commands accepted before it; MWAIT waits for a job number; MRD reads
sixteen words of the visible bank; all are for ctx0 alone (R20). A join by a member completes as a command without effect, and so does a
leave outside a gang: the model's choice (log 104). That a join waits for the engine's own queue to be empty is the model's choice (log
96). -/
def MatrixImmediate : Prop := ∀ (s : State) (stl : Stl) (d a b : Reg),
  let here := clusterOf s s.cur.1
  let e := engineOf s
  let gs := if e.strip = some 0#2 then gangOf here else [here]
  let free := s.cur.2 = 0 ∧ Leased s ∧ Unheld s ∧ PutsArrived s
  let id := reads s a
  let row := (reads s a).toNat
  let grp := (reads s b).toNat
  let mrd := Instr.mrd stl d a b
  (free → lead e.strip → (∀ x ∈ gs, (engineAt s x).queue = []) → ∃ u, Completes s (.mswap stl) stl u ∧
    (∀ x ∈ gs, (engineAt u x).wb = (engineAt s x).vb ∧ (engineAt u x).vb = (engineAt s x).wb) ∧
    (engineAt u here).cseq = e.seq + 1#32 ∧ Spent s.cur.1 e (engineAt u here)) ∧
  (free → NoUnderrun s [nx a] → id.getLsbD 0 = true → e.queue = [] → e.strip ≠ none → ∃ u, Completes s (.mgang stl a) stl u ∧
    (∀ x, (engineAt u x).strip = (engineAt s x).strip) ∧ Spent s.cur.1 e (engineAt u here)) ∧
  (free → NoUnderrun s [nx a] → id.getLsbD 0 = true → e.queue = [] → e.strip = none →
    (∀ x ∈ gangOf here, x ≠ here → (engineAt s x).joining = true) → ∃ u, Completes s (.mgang stl a) stl u ∧
    (∀ x ∈ gangOf here, (engineAt u x).strip = some (BitVec.ofNat 2 x.val)) ∧ Spent s.cur.1 e (engineAt u here)) ∧
  (id.getLsbD 0 = false → Commands s (.mgang stl a) stl [nx a] (fun _ => True) none 0#5 (.leave (pendingIn s here))) ∧
  (s.cur.2 = 0 → NoUnderrun s [nx a] → ∀ g, namedEngine s s.cur.1 id = some g →
    (((engineAt s g).cseq - BitVec.ofNat 32 id.toNat).toNat < 2 ^ 31 → Unheld s →
      Completes s (.mwaitMatrix stl a) stl (invalidateClean (beforeRead s s.cur.1 s.cur.2) s.cur.1)) ∧
    (2 ^ 31 ≤ ((engineAt s g).cseq - BitVec.ofNat 32 id.toNat).toNat → Waits s (.mwaitMatrix stl a))) ∧
  (let o : VOps := ⟨[], some d, false⟩
   (VecGoes s mrd [nx a, nx b] o → row < 512 → grp < 8 → e.vbPoison.contains (row * 8 + grp) = false → ∃ v,
     (∀ k < 16, lane 32 v k = (bankWord e.vb row (16 * grp + k)).toNat) ∧ VecDoes s mrd stl o 1 s v) ∧
   (s.cur.2 = 0 → NoUnderrun s [nx a, nx b] → (512 ≤ row ∨ 8 ≤ grp) → Raises s mrd ⟨.access, 0#8, false, false, reads s a⟩) ∧
   (s.cur.2 = 0 → NoUnderrun s [nx a, nx b] → row < 512 → grp < 8 → e.vbPoison.contains (row * 8 + grp) = true →
     Raises s mrd ⟨.access, 0#8, false, true, reads s a⟩) ∧
   (NoUnderrun s [nx a, nx b] → Ctx0Only s mrd)) ∧
  Ctx0Only s (.mswap stl) ∧ (NoUnderrun s [nx a] → Ctx0Only s (.mgang stl a) ∧ Ctx0Only s (.mwaitMatrix stl a))

/-- R78, R194–R196: what the engine makes of a product whose stream it has read: INT8 sums wrap at 32 bits, BF16 sums are the fused chain;
the forward product runs over K = 32 × bands rows of the weights into 128 words, the backward one over 128 words into K; the form with
accumulation adds to the working bank, the other overwrites. Nothing else of the bank changes: no row outside the product's, and no word
from K on of a row that a backward product writes. In a gang K and FMT are those of strip 0: the model's choice (log 66). -/
def MatrixProducts : Prop := ∀ (bands row0 rows : Nat) (acc : Bool) (bs : List Byte) (e : Engine),
  bands ≤ 4 → sWf 0#32 e.wb = true →
  let K := 32 * bands
  let W (k n : Nat) : BitVec 16 := sGet 0#16 e.w (k * 128 + n)
  let Wi (k n : Nat) : Int := (BitVec.ofNat 8 (W k n).toNat).toInt
  let old (r n : Nat) : Word32 := bankWord e.wb (row0 + r) n
  let new (i8 back : Bool) (r n : Nat) : Word32 := bankWord (multiply i8 bands back acc row0 rows bs.toArray e).wb (row0 + r) n
  let total (k : Nat) (f : Nat → Int) : Int := ((List.range k).map f).sum
  let addF (x t : Word32) : Word32 := if acc then (addF32 x t).1 else t
  (∀ r < rows, ∀ n < 128, new true false r n =
    BitVec.ofInt 32 ((if acc then (old r n).toNat else 0) + total K fun k => byteAt bs (r * K + k) * Wi k n)) ∧
  (∀ r < rows, ∀ k < K, new true true r k =
    BitVec.ofInt 32 ((if acc then (old r k).toNat else 0) + total 128 fun n => byteAt bs (r * 128 + n) * Wi k n)) ∧
  (∀ r < rows, ∀ n < 128, new false false r n = addF (old r n) (fmaChain (fun k => bf16At bs (r * K + k)) (fun k => W k n) K)) ∧
  (∀ r < rows, ∀ k < K, new false true r k = addF (old r k) (fmaChain (fun n => bf16At bs (r * 128 + n)) (fun n => W k n) 128)) ∧
  (∀ i8, ∀ r < rows, ∀ k, K ≤ k → k < 128 → new i8 true r k = old r k) ∧
  (∀ i8 back x, (x < row0 * 128 ∨ (row0 + rows) * 128 ≤ x) →
    sGet 0#32 (multiply i8 bands back acc row0 rows bs.toArray e).wb x = sGet 0#32 e.wb x)

/-- R92, R193–R199, R284 and R330: the engine completes its head command, in order: MSHAPE, MZACC, MLDW and the products when their
streams have been read, no band wakes and nothing they read is poisoned; CSEQ passes it. A beat of an MST, the acquire of its kick
made, stores sixteen words of its row, at once or after a while in the engine's store buffer (log 4); a gang dissolves once the
commands accepted before its MGANG have completed. In a gang a command that all four engines carry out waits for the commands of
every member accepted before it, and a member's own command for those accepted before it at strip 0. -/
def MatrixEngineSteps : Prop := ∀ (s : State) (g : ClusterId) (q : MCmd) (rest : List MCmd),
  let e := engineAt s g
  (e.queue = q :: rest → q.suspended = false → enginePaused s q.who = false → e.strip = none → opRing q.op = none ∨
      streamBytes e q.op ≤ q.buf.length →
    let completes (P : Engine → Prop) : Prop := ∃ u, exec (.matrixCommandComplete g) s = .next u ∧
      P (engineAt u g) ∧ (engineAt u g).queue = rest ∧ (engineAt u g).cseq = q.seq ∧ (engineAt u g).holder = e.holder
    (∀ b, q.op = .shape b → completes fun e' => e'.bands = b ∧ e'.wb = e.wb) ∧
    (q.op = .zacc → completes fun e' => e'.wb = [] ∧ e'.vb = e.vb ∧ e'.w = e.w) ∧
    (∀ i8 r, q.op = .ldw i8 r → e.wakingBands = false → completes fun e' => e'.int8 = i8 ∧ e'.w = (latchWeights i8 q.buf.toArray e).w ∧
      e'.wb = e.wb) ∧
    (∀ back acc r row0 rows, q.op = .mul back acc r row0 rows → e.wakingBands = false → (∀ x ∈ e.wPoison, 128 * e.bands ≤ x) →
      (acc = true → ∀ x ∈ e.wbPoison, x / 8 < row0 ∨ row0 + rows ≤ x / 8) → completes fun e' =>
      e'.wb = (multiply e.int8 e.bands back acc row0 rows q.buf.toArray e).wb ∧ e'.vb = e.vb ∧ e'.w = e.w)) ∧
  (e.queue = q :: rest → q.suspended = false → enginePaused s q.who = false → e.strip = none → ∀ ea row beat p, q.op = .st ea row beat →
    beat < 8 → e.vbPoison.contains (row * 8 + beat) = false →
    let va := ea + BitVec.ofNat 64 (64 * beat)
    let w := walkedAt (begunCmd s g q) (dieId (g.val / 32)) q.who .store va
    placeAt w (dieId (g.val / 32)) q.who .store va 64 64 = .ok p →
    exec (.mstBeat g) s = .next (modEngine
      (hartWrite w (.matrix g) p ((List.range 16).flatMap fun i => lowBytes 4 (bankWord e.vb row (16 * beat + i)).toNat)) g
      fun e => { e with queue := { q with started := true, op := .st ea row (beat + 1) } :: e.queue.tail })) ∧
  (e.queue = q :: rest → ∀ before, q.op = .leave before → e.strip ≠ none →
    (∀ x ∈ gangOf g, ∀ y ∈ (engineAt s x).queue, (x.val, y.seq) ∉ before) →
    (∀ x ∈ gangOf g, ∀ y ∈ (engineAt s x).queue, ∀ b', y.op = .leave b' → ¬(x = g ∧ y.seq = q.seq) → (g.val, q.seq) ∈ b') →
    ∃ u, exec (.gangDissolve g) s = .next u ∧ (∀ x ∈ gangOf g, (engineAt u x).strip = none) ∧ (engineAt u g).queue = rest) ∧
  (e.queue = q :: rest → ∀ strip, e.strip = some strip →
    (strip = 0#2 → isGanged q.op = true → (∃ x ∈ pendingIn s g, x ∈ q.ahead) → exec (.matrixCommandComplete g) s = .next s) ∧
    (strip ≠ 0#2 → (∃ l ∈ (engineAt s (leadOf g)).queue, isGanged l.op = true ∧ (g.val, q.seq) ∉ l.ahead) →
      exec (.matrixCommandComplete g) s = .next s)) ∧
  exec (.bandWake g) s = .next (modEngine s g fun e => { e with wakingBands := false })

/-- R201–R203 and R67: submission. CPY carries destination, source and a 40-bit count; the descriptor forms carry the descriptor's
address, which must be aligned to 64; CENC.sr reads ROWS and RLEN at issue and advances SRCTR by their product. A full unit makes
the instruction wait, in every form. -/
def CopySubmission : Prop := ∀ (s : State) (stl : Stl) (rm : RMode) (d a b c : Reg),
  let va := reads s a
  let x (r : Reg) : Nat := (reads s r).toNat
  let ctr := (curCtx s).srctr
  let desc (i : Instr) (form : CopyForm) (mode : RMode) : Prop :=
    (va.toNat % 64 = 0 → Room s → Submits s i stl d form mode none va 0#512 ctr) ∧
    (va.toNat % 64 = 0 → 64 ≤ (copyUnit s).jobs.length → exec i s = .next s) ∧
    (va.toNat % 64 ≠ 0 → Raises s i ⟨.misaligned, 0#8, false, false, va⟩)
  (NoUnderrun s [nx a, nx b, nx c] → Room s → Submits s (.cpy stl d a b c) stl d .cpy .rne none 0#64
    (BitVec.ofNat 512 (x a + x b * 2 ^ 64 + x c % 2 ^ 40 * 2 ^ 128)) ctr) ∧
  (NoUnderrun s [nx a, nx b, nx c] → 64 ≤ (copyUnit s).jobs.length → exec (.cpy stl d a b c) s = .next s) ∧
  (NoUnderrun s [nx a] →
    desc (.cpy2 stl d a) .cpy2 .rne ∧ desc (.cpyt stl d a) .cpyt .rne ∧ desc (.cgth stl d a) .cgth .rne ∧
    desc (.cdec stl d a) .cdec .rne ∧ (rm ≠ .sr → desc (.cenc stl rm d a) .cenc rm) ∧
    (va.toNat % 64 = 0 → 64 ≤ (copyUnit s).jobs.length → exec (.cenc stl .sr d a) s = .next s) ∧
    (va.toNat % 64 ≠ 0 → Raises s (.cenc stl .sr d a) ⟨.misaligned, 0#8, false, false, va⟩)) ∧
  (NoUnderrun s [nx a] → va.toNat % 64 = 0 → Room s → ∀ p, Reaches s .load (va + 16#64) 8 p →
    let r := loadPlain (walkedBy s .load (va + 16#64)) s.cur.1 s.cur.2 p 8
    r.2.2 = false →
      let rows := leNat (r.2.1.take 4)
      let rlen := leNat (r.2.1.drop 4)
      Submits s (.cenc stl .sr d a) stl d .cenc .sr (some (BitVec.ofNat 32 rows, BitVec.ofNat 32 rlen)) va 0#512
        (BitVec.ofNat 32 (ctr.toNat + rows * rlen)))

/-- R209 and R210: CSEAL closes the open batch, and waits while 256 batches are unfinished; CWAIT n waits until at most n are, and
acquires; CSTAGE submits what the schedule has due at the core's stage and moves to the next. What is due is free: the spec gives
no layout (log 22). -/
def CopyBatches : Prop := ∀ (s : State) (stl : Stl) (n : BitVec 12),
  let t := curCtx s
  let sealed := openBatches s (t.batches ++ [t.openJobs])
  let left := openBatches s t.batches
  (sealed.length ≤ 255 → Unheld s → PutsArrived s → ∃ e, Completes s (.cseal stl) stl e ∧ (curCtx e).batches = sealed ∧
    (curCtx e).openJobs = [] ∧ (curCtx e).x = t.x ∧ (curCtx e).sbuf = [] ∧ (curCtx e).status = (endsDiscard t).status) ∧
  (255 < sealed.length → exec (.cseal stl) s = .next s) ∧
  (n.toNat < 2048 → n.toNat < left.length → Waits s (.cwait stl n)) ∧
  (n.toNat < 2048 → left.length ≤ n.toNat → Unheld s → ∃ e, Completes s (.cwait stl n) stl e ∧ (curCtx e).batches = left ∧
    (curCtx e).x = t.x ∧ ∀ l ∈ (coreAt e s.cur.1).l1, ∀ b ∈ l.bytes, b.2.dirty ≠ none) ∧
  (2048 ≤ n.toNat → Raises s (.cwait stl n) (wordFault .illegal (.cwait stl n))) ∧
  (Unheld s → PutsArrived s → ∀ e, submitAll s.cur.1 s.cur.2 ((dueEntries s s.cur.1).drop (curCore s).stageDone) s = .ok e →
    Completes s (.cstage stl) stl (onCtx (modCore e s.cur.1 fun k => { k with stage := k.stage + 1, stageDone := 0 }) endsDiscard)) ∧
  (dueEntries s s.cur.1 = [] → submitAll s.cur.1 s.cur.2 ((dueEntries s s.cur.1).drop (curCore s).stageDone) s = .ok s)

/-- R92, R161, R201, R202 and R213: the copy unit starts a CPY, and each of its beats stores the bytes it has read from the source at the
same distance from the destination, up to the end of the 64-byte group, at once or after a while in the unit's store buffer (log 4), and
moves the job on; no beat of a job reads before its previous beat's write has been performed; with the last beat every write of the unit
has been performed, the job ends and its core's sleepers wake. A ring slot taken for a job is marked as its own, and what the core's last
release of a slot covers has been written back. A beat is as large as it can be: deduced (log 69). -/
def CopySteps : Prop := ∀ (s : State) (g : ClusterId) (b : CopyJob) (c : CoreId) (ring : BitVec 3),
  JobIs s g b → enginePaused s b.who = false →
  let total := b.desc.toNat / 2 ^ 128 % 2 ^ 40
  let dst := BitVec.ofNat 64 (b.desc.toNat + b.idx)
  let src := BitVec.ofNat 64 (b.desc.toNat / 2 ^ 64 + b.idx)
  let n := max 1 (min (total - b.idx) (64 - dst.toNat % 64))
  let with' (s : State) (b' : CopyJob) : State :=
    modCluster s g fun k => { k with jobs := k.jobs.map fun x => if x.seq == b.seq then b' else x }
  (b.form = .cpy → b.started = false → b.suspended = false → total ≠ 0 →
    exec (.engineJobStart g b.seq) s = .next (with' (writeBackAll s b.who.core (some b.stamp)) { b with started := true })) ∧
  (b.form = .cpy → b.started = true → b.suspended = false → b.status = 0 → ∀ s1 bs p, loadFor (hartOrder s g b.seq) (.copy g) b.who src n = .ok (s1, bs) →
    placeAt s1 (dieId (g.val / 32)) b.who .store dst n 1 = .ok p →
    let e := hartWrite (walkedAt s1 (dieId (g.val / 32)) b.who .store dst) (.copy g) p bs b.seq
    bs.length = n ∧
    (b.idx + n < total → exec (.copyBeat g b.seq) s = .next (with' e { b with idx := b.idx + n, buffer := [] })) ∧
    (b.row = 0 → total ≤ b.idx + n → ∃ u, exec (.copyBeat g b.seq) s = .next u ∧
      (clusterAt u g).jobs = (clusterAt s g).jobs.filter (·.seq != b.seq) ∧ u.mem = (hartFlush e (.copy g)).mem ∧
      (∀ j dl w, (ctxAt s b.who.core j).wait = .sleep dl w → (ctxAt u b.who.core j).wait = .sleep dl true))) ∧
  (∀ x ∈ hartBuf (hartOrder s g b.seq) (.copy g), x.job ≠ b.seq) ∧
  (let r := ringAt s c ring
   r.bound = true → r.prod = none → r.cons = none → r.held = false → (coreAt s c).frozen = false → 0 < r.free → (engineAt s (clusterOf s c)).queue = [] →
   producerOf s c ring = some b → ∃ u, exec (.engineRingTake c ring) s = .next u ∧ (ringAt u c ring).prod = some (b.seq, 0) ∧
     (ringAt u c ring).free = r.free ∧ (ringAt u c ring).head = r.head ∧
     ∀ line o v st, l1Entry u c line o ⟨v, some st⟩ → r.rel < st)

/-- R165: MOPEN reads the object at the window's home and answers 3 for a window that is open, 2 for an object that breaks a rule, 1 where
staging is short; otherwise it opens the window in its first generation's OPEN state, with the object's fields, as the context that issued
it (log 98), and answers 0. The unit acquires as a hart of its own die (R82). -/
def MergeOpen : Prop := ∀ (s : State) (stl : Stl) (d a : Reg) (pa : Nat),
  NoUnderrun s [nx a] → WindowAt s a pa → Unheld s → PutsArrived s →
  let i := Instr.mopen stl d a
  let die := paDie s pa
  let s1 := touchSlice (recallLine (engineAcquire (toUnit s a) (.die die) (pa / 256)) (pa / 256)) pa
  let v := homeNat s1 pa 64
  let n := v / 2 ^ 96 % 2 ^ 9
  let g := v / 2 ^ 128 % 2 ^ 32
  let lim : Word32 := BitVec.ofNat 32 (v / 2 ^ 64)
  let bad := n = 0 ∨ 256 < n ∨ g = 0 ∨ 2 ^ 24 < n * g * 4 ∨ flNan (f32 lim) = true ∨ ltFl (.fin false 0 0) (f32 lim) = false ∨
    v / 2 ^ 192 % 2 ^ 6 ≠ 0 ∨ winReserved (BitVec.ofNat 512 v) = true
  let room := ((dieAt s die).wins.map fun w => w.n * w.g * 4).sum + n * g * 4 ≤ 2 ^ 24
  (winAt s die pa ≠ none → beingZeroed s die pa = false → Merges s i stl (toUnit s a) d 3) ∧
  (winAt s die pa = none → bad → Merges s i stl s1 d 2) ∧
  (winAt s die pa = none → ¬bad → ¬room → Merges s i stl s1 d 1) ∧
  (winAt s die pa = none → ¬bad → room → ∃ u w, Merges s i stl u d 0 ∧ winAt u die pa = some w ∧
    w.who = whoOf s s.cur.1 s.cur.2 ∧ w.n = n ∧ w.g = g ∧ w.lim = lim ∧ w.total = BitVec.ofNat 64 (v / 2 ^ 192) ∧ w.gen = BitVec.ofNat 32 v ∧ w.state = 1#2 ∧
    w.clasped = [] ∧ w.bezel = [] ∧ w.late = 0#32 ∧ w.rej = 0#32 ∧ w.commits = 0#32)

/-- R90, R166 and R169–R171: MPUT, whose source passes the checks as one load and is read as plain loads of its elements (log 70), sends
them to the unit, after every fence that orders an access after it (log 94), and is done; MWAIT waits until the generation it found has
ended, at the latest with the window's launch, and reads the object's first words, acquiring; MSTAT delivers the counters; MZERO, as it
first issues, writes +0 to the first element of the total, pinning the window's translation (R298), and answers the new generation where
that is the only one; or all ones where no window is open; it waits for a commit or another MZERO in progress. An element that cannot be
reached stays as it is (log 23). MSTAT waits for no travelling put: deduced (log 71). -/
def MergeInstructions : Prop := ∀ (s : State) (stl : Stl) (d a b c : Reg) (pa : Nat), WindowAt s a pa →
  let die := paDie s pa
  let win := winAt s die pa
  let here := atWindow s a
  let acquired := loadAcquire here s.cur.1 s.cur.2 .pkg (.mem pa false) 8
  let ended := ∀ w, win = some w → w.state = 3#2 ∨ w.ended = true
  (NoUnderrun s [nx a, nx b, nx c] → Unheld s → ∀ t vs,
    ((putCount (reads s c) = 0 ∧ t = here ∧ vs = []) ∨
      (0 < putCount (reads s c) ∧ ∃ ps, SourceAt here (reads s b) (putCount (reads s c)) ps ∧
        ReadsInTurn s.cur.1 s.cur.2 ps (walkedBy here .load (reads s b)) t vs)) →
    let f := settle t s.cur.1 s.cur.2 fencesPut
    Completes s (.mput stl a b c) stl (onCtx (modDie f die fun k => { k with puts := k.puts ++
      [⟨whoOf s s.cur.1 s.cur.2, pa, pinOf s (whoOf s s.cur.1 s.cur.2) .merge (reads s a), reads s c, vs⟩] }) endsDiscard) ∧
    (NoFence t → f = t) ∧ ∀ pr sc n st, .fence pr sc n st ∈ (curCtx f).sbuf → sc = 0#2) ∧
  (NoUnderrun s [nx a, nx b, nx c] → Unheld s → ∀ f, 0 < putCount (reads s c) →
    watched here s.cur.1 s.cur.2 true false (reads s b) (4 * putCount (reads s c)) = none →
    place here (whoOf s s.cur.1 s.cur.2) .load (reads s b) (4 * putCount (reads s c)) 4 = .fault f →
    exec (.mput stl a b c) s = .next (raiseTrap (walkedBy here .load (reads s b)) s.cur.1 s.cur.2 f)) ∧
  (NoUnderrun s [nx a] → ended → Unheld s →
    Completes s (.mwaitMerge stl d a) stl (onCtx acquired.1 fun t => putX t d (BitVec.ofNat 64 (leNat acquired.2.1)))) ∧
  (NoUnderrun s [nx a] → ∀ w, win = some w → w.state ≠ 3#2 → w.ended = false → NoStop s →
    ((curCtx s).wait = .none → exec (.mwaitMerge stl d a) s = .next (onCtx here fun x => { x with wait := .merge pa w.gen w.born })) ∧
    ((curCtx s).wait = .merge pa w.gen w.born → exec (.mwaitMerge stl d a) s = .next here)) ∧
  (NoUnderrun s [nx a] → Unheld s → ∀ w gen born, win = some w → (curCtx s).wait = .merge pa gen born → (gen, born) ≠ (w.gen, w.born) →
    Completes s (.mwaitMerge stl d a) stl (onCtx acquired.1 fun t => putX t d (BitVec.ofNat 64 (leNat acquired.2.1)))) ∧
  (NoUnderrun s [nx a] → win = none → Completes s (.mstat stl d a) stl (onCtx here fun t => putX t d 0#64)) ∧
  (NoUnderrun s [nx a] → ∀ w, win = some w → Completes s (.mstat stl d a) stl (onCtx here fun t => putX t d (BitVec.ofNat 64
    (w.late.toNat + w.rej.toNat % 2 ^ 16 * 2 ^ 32 + w.clasped.length % 2 ^ 9 * 2 ^ 48 + w.state.toNat * 2 ^ 62)))) ∧
  (NoUnderrun s [nx a] → Unheld s → PutsArrived s → win = none → Merges s (.mzero stl d a) stl (toUnit s a) d (2 ^ 64 - 1)) ∧
  (NoUnderrun s [nx a] → Unheld s → PutsArrived s → ∀ w, win = some w → (∀ p i, (curCtx s).wait ≠ .zero p i) →
    (w.state = 2#2 ∨ zeroing s w = true → exec (.mzero stl d a) s = .next here) ∧
    (w.state ≠ 2#2 → zeroing s w = false → ∀ t, ZeroesElement die w 0 (onCtx (toUnit s a) endsDiscard) t →
      (1 < w.g → exec (.mzero stl d a) s = .next (onCtx
        (putWin t die { w with zeroer := some s.cur, zeroPin := pinOf s (whoOf s s.cur.1 s.cur.2) .merge (reads s a) })
        fun x => { x with wait := .zero pa 1 })) ∧
      (w.g ≤ 1 → Merges s (.mzero stl d a) stl (zeroedState die w t) d ((w.gen.toNat + 1) % 2 ^ 32))))

/-- R33, R170, R266 and R298: an MZERO at its unit: each issue writes +0 to one more element of the total, with no further translation
of the window's address, whose translation it has pinned; the last leaves the window in its next generation and answers its number. A
context within it is not at a boundary: no stop, trap or interrupt finds it there, for an MZERO is none of the waiting instructions of
R33 and R266. The unit acts as the context that opened the window and leaves an element that it cannot reach: the model's choices
(logs 23, 98). -/
def ZeroProgress : Prop := ∀ (s : State) (stl : Stl) (d a : Reg) (w : MWin) (i : Nat), ZeroStands s w i →
  let die := paDie s w.pa
  (NoUnderrun s [nx a] → ∀ t, ZeroesElement die w i s t →
    (i + 1 < w.g → exec (.mzero stl d a) s = .next (onCtx (putWin t die w) fun x => { x with wait := .zero w.pa (i + 1) })) ∧
    (w.g ≤ i + 1 → Completes s (.mzero stl d a) stl (onCtx (zeroedState die w t) fun t =>
      putX t d (BitVec.ofNat 64 ((w.gen.toNat + 1) % 2 ^ 32))))) ∧
  stopDue s s.cur.1 s.cur.2 = false ∧ boundary s s.cur.1 s.cur.2 = none ∧ (s.cur.2 = 0 → exec (.interrupt s.cur.1) s = .next s) ∧
  (∀ f, exec (.trapEntry s.cur.1 s.cur.2 f) s = .next s)

/-- R163 and R167: MCLASP, and a clasp at its unit: 3 with no window, 1 and LATE for another generation, 2 and REJ for a contributor
that is out of range or has clasped, or a reserved bit; otherwise the group is bounded by LIM, element by element with one
rounding, the contributor has clasped, and the last clasp starts the commit. -/
def MergeClasp : Prop := ∀ (s : State) (stl : Stl) (d a b : Reg) (pa : Nat) (die : DieId) (v : Word), MapsInv s →
  let r := claspAtUnit s die pa v
  let u := r.1
  let c := contributor v
  (beingZeroed s die pa = false → exec (.mergeClaspAtUnit die pa v) s = .next u) ∧
  (beingZeroed s die pa = true → exec (.mergeClaspAtUnit die pa v) s = .next s) ∧
  (WindowAt s a pa → NoUnderrun s [nx a, nx b] → Unheld s → PutsArrived s → beingZeroed s (paDie s pa) pa = false →
    ∀ r', claspAtUnit (toUnit s a) (paDie s pa) pa (reads s b) = r' → Merges s (.mclasp stl d a b) stl r'.1 d r'.2) ∧
  (winAt s die pa = none → u = s ∧ r.2 = 3) ∧
  (∀ w, winAt s die pa = some w → w.pa = pa →
    let bad := w.n ≤ c ∨ c ∈ w.clasped ∨ ¬wellPut v
    (¬current w v → r.2 = 1 ∧ winAt u die pa = some { w with late := BitVec.ofNat 32 (w.late.toNat + 1) }) ∧
    (current w v → bad → r.2 = 2 ∧ winAt u die pa = some { w with rej := BitVec.ofNat 32 (w.rej.toNat + 1) }) ∧
    (current w v → ¬bad → r.2 = 0 ∧ ∃ w', winAt u die pa = some w' ∧
      (∀ i < w.g, bezelAt w' c i = (mulF32 (bezelAt w c i) (groupFactor w c)).1) ∧
      (∀ c' i, c' ≠ c → i < w.g → bezelAt w' c' i = bezelAt w c' i) ∧
      (∀ x, x ∈ w'.clasped ↔ x = c ∨ x ∈ w.clasped) ∧ w'.scaled = (w.scaled || groupScaled w c) ∧
      w'.nan = (w.nan || flNan (f32 (groupSquares w c))) ∧ w'.late = w.late ∧ w'.rej = w.rej ∧ w'.n = w.n ∧ w'.g = w.g ∧ w'.gen = w.gen ∧
      w'.state = if w.clasped.length + 1 = w.n then 2#2 else w.state))

/-- R166, R168 and R170: a put at its unit adds its elements into its contributor's group, or counts as LATE or REJ; a step of a commit
adds every contributor into the next element of the total, one rounding each, in order, and writes it; the step after the last
element, when every write of the commit has been performed, leaves the window COMMITTED; a unit zeroes the total of a window that is not
in the middle of a commit or of another MZERO, and does nothing while an element is held. The unit acts as the context that opened the
window, and leaves elements of the total that cannot be zeroed: the model's choices (logs 23, 98). -/
def MergeUnitSteps : Prop := ∀ (s : State) (die : DieId) (w : MWin), MapsInv s → winAt s die w.pa = some w →
  (∀ p, (dieAt s die).puts = [p] → p.pa = w.pa →
    let c := contributor p.desc
    let o := putOffset p.desc
    let n := putCount p.desc
    let bad := w.n ≤ c ∨ n = 0 ∨ 16 < n ∨ w.g < o + n ∨ ¬wellPut p.desc ∨ c ∈ w.clasped
    ∃ u, exec (.mergePutAtUnit die 0) s = .next u ∧ (dieAt u die).puts = [] ∧
      (¬current w p.desc → winAt u die w.pa = some { w with late := BitVec.ofNat 32 (w.late.toNat + 1) }) ∧
      (current w p.desc → bad → winAt u die w.pa = some { w with rej := BitVec.ofNat 32 (w.rej.toNat + 1) }) ∧
      (current w p.desc → ¬bad → ∃ b, winAt u die w.pa = some { w with bezel := b } ∧
        (∀ i < p.vals.length, sGet 0#32 b (c * w.g + o + i) = (addF32 (bezelAt w c (o + i)) (p.vals.getD i 0#32)).1) ∧
        (∀ x, (x < c * w.g + o ∨ c * w.g + o + p.vals.length ≤ x) → sGet 0#32 b x = sGet 0#32 w.bezel x))) ∧
  (w.state = 2#2 → w.suspended = false → enginePaused s w.who = false → w.elem < w.g →
    (∀ c < w.n, (c * w.g + w.elem) / 16 ∉ w.bezelPoison) → ∀ s1 bs, loadFor s (.merge die) w.who (totalVa w w.elem) 4 = .ok (s1, bs) →
    let s2 := walkedAt s1 die w.who .store (totalVa w w.elem)
    ∀ p, placeAt s2 die w.who .store (totalVa w w.elem) 4 1 = .ok p →
    exec (.mergeCommit die w.pa) s = .next (putWin (hartWrite s2 (.merge die) p (lowBytes 4 (committed w w.elem bs).toNat)) die
      { w with elem := w.elem + 1 })) ∧
  (w.state = 2#2 → w.suspended = false → enginePaused s w.who = false → w.g ≤ w.elem →
    let w' := { w with state := 3#2, commits := BitVec.ofNat 32 (w.commits.toNat + 1), elem := 0 }
    exec (.mergeCommit die w.pa) s = .next (hartRelease (setWin (hartFlush s (.merge die)) die w') (.merge die) (.mem (w.pa + 4) false)
      (lowBytes 4 (winStatus w').toNat))) ∧
  ((w.state = 2#2 ∨ zeroing s w = true) → exec (.mzeroAtUnit die w.pa) s = .next s) ∧
  (w.state ≠ 2#2 → zeroing s w = false →
    (∀ t, ZeroesTotal die w w.g 0 s t → exec (.mzeroAtUnit die w.pa) s = .next (zeroedState die w t)) ∧
    (∀ i t, i < w.g → ZeroesTotal die w i 0 s t →
      placeAt (walkedAt t die w.who .store (totalVa w i)) die w.who .store (totalVa w i) 4 1 = .held →
      exec (.mzeroAtUnit die w.pa) s = .next s))

/-- R236, R238 and R240 (Table 10.9): every bus operation, in every width and form: submission as a job of the port that KCFG names. -/
def BusSubmission : Prop := ∀ (s : State) (stl : Stl) (d a b c : Reg), NoUnderrun s [nx a, nx b, nx c] →
  (∀ wd, SubmitsBus s (.kred stl wd d a b c) stl (.kred wd) d a b c) ∧ (∀ wd, SubmitsBus s (.kmax stl wd d a b c) stl (.kmax wd) d a b c) ∧
  (∀ form, SubmitsBus s (.krbs stl form d a b c) stl (.krbs form) d a b c)

/-- R238 and R239: KWAIT waits for an outstanding job, acquires and delivers the word of one that has ended, and delivers 0 for a
ticket that names no job; KSTAT delivers its counters at once. A number that has not been given yet is waited for; once the numbers
have passed 2^32, one less than 2^31 ahead counts as such, and KSTAT delivers 0 for a ticket that names no job: the model's choices
(logs 108, 116). -/
def BusTickets : Prop := ∀ (s : State) (stl : Stl) (d a : Reg), NoUnderrun s [nx a] →
  let v := (reads s a).toNat
  let p : PortId := Fin.ofNat 2 (v / 2 ^ 32)
  let P := portAt s p
  let mine (b : BusJob) : Prop := b.seq.toNat = v % 2 ^ 32
  let running := ∃ b ∈ P.jobs, mine b ∧ b.ghost = false
  let none' := ¬running ∧ ∀ b ∈ P.ended, ¬mine b
  let later := if P.wrapped then (BitVec.ofNat 32 v - P.seq).toNat < 2 ^ 31 else P.seq.toNat ≤ v % 2 ^ 32
  let stat (b : BusJob) (st : Nat) : Word := BitVec.ofNat 64 (min 65535 b.resent + min 65535 b.holds * 2 ^ 16 + min 65535 b.guardf * 2 ^ 32 +
    min 255 b.ovf * 2 ^ 48 + st % 2 ^ 4 * 2 ^ 56 + b.scaled.toNat * 2 ^ 60)
  (2 ^ 33 ≤ v → Writes s (.kwait stl d a) stl d 0#64 ∧ Writes s (.kstat stl d a) stl d 0#64) ∧
  (v < 2 ^ 33 → running → Waits s (.kwait stl d a)) ∧
  (v < 2 ^ 33 → none' → later → Waits s (.kwait stl d a)) ∧
  (v < 2 ^ 33 → none' → ¬later → Writes s (.kwait stl d a) stl d 0#64) ∧
  (v < 2 ^ 33 → none' → Writes s (.kstat stl d a) stl d 0#64) ∧
  (v < 2 ^ 33 → ¬running → Unheld s → ∀ b, P.ended.find? (fun b => b.seq == BitVec.ofNat 32 v) = some b →
    Completes s (.kwait stl d a) stl (onCtx (invalidateClean (beforeRead s s.cur.1 s.cur.2) s.cur.1) fun t =>
      putX t d (BitVec.ofNat 64 (b.status % 2 ^ 4 + b.reason % 2 ^ 4 * 2 ^ 4 + b.elems % 2 ^ 32 * 2 ^ 8))) ∧
    Writes s (.kstat stl d a) stl d (stat b b.status)) ∧
  (v < 2 ^ 33 → ∀ b, P.jobs.find? (fun b => b.seq == BitVec.ofNat 32 v && !b.ghost) = some b →
    Writes s (.kstat stl d a) stl d (stat b 0))

/-- R224–R226: the bus sums. When every writer lights its bead, the counts at the positions of the planes make, for each element, the
exact sum of the writers' signed patterns, whatever their number; and the guard of that bead passes. -/
def BusSums : Prop := ∀ (b n hdr : Nat) (ws : List (List Nat)), 1 ≤ b → 1 ≤ n → hdr < 2 ^ 16 →
  (∀ xs ∈ ws, xs.length = n ∧ ∀ x ∈ xs, x < 2 ^ b) →
  let cnt := beadCounts b n hdr ws
  (∀ i < n, beadSum b n cnt i = (ws.map fun xs => if xs.getD i 0 < 2 ^ (b - 1) then (xs.getD i 0 : Int) else xs.getD i 0 - 2 ^ b).sum) ∧
  beadGuard ws.length b n hdr cnt = true

/-- R229: a verdict is accepted exactly where three of its four symbols agree; a symbol with a count above 1 is unreadable. -/
def BusVerdicts : Prop := ∀ (cnt : List Nat) (v : BitVec 2),
  acceptedVerdict cnt = some v ↔ 3 ≤ ((List.range 4).filter fun k => readSymbol cnt k = some v.toNat).length

/-- R219–R222, R236, R237 and R242: a port starts the next of its jobs, an older job of another circle that has to wait notwithstanding:
ABORT with reason 1 for a configuration that is not valid, OK at once for no elements, else the next operation number of its circle,
which counts from 0, with the windows, where the circle takes a new configuration. A window of a circle in which the port takes part
passes only in the circle's own frames; it moves the circle on by one window and by the window's positions. With no unit to send it
lights HOLD; that it does so also while all units await their verdicts is deduced, and unsafe (log 90). A writer that leaves is
remembered. What is left of an operation whose writer has left is deduced (log 74). An event that cannot arise leaves the state as it is:
the model's choice (log 3). -/
def BusSteps : Prop := ∀ (s : State) (p : PortId) (b : BusJob) (ci : CircleId) (rd : WindowReading) (idx : BitVec 5),
  let first := StartsNext s p b
  let own := circleAt s p (kCircle b.cfg)
  let good := goodConfig b.cfg.toNat (portAt s p).limit
  (first → ¬good → b.num = none → ∃ u r, exec (.busJobStart p) s = .next u ∧ (portAt u p).ended.head? = some r ∧ r.seq = b.seq ∧ r.status = 4 ∧
    r.reason = 1 ∧ (portAt u p).jobs = (portAt s p).jobs.filter (·.seq != b.seq)) ∧
  (first → good → b.n = 0 → b.ghost = false → b.pendingOut = [] → ∃ u r, exec (.busJobStart p) s = .next u ∧ (portAt u p).ended.head? = some r ∧
    r.seq = b.seq ∧ r.status = 1) ∧
  (first → good → 0 < b.n → b.n ≤ 2 ^ 24 → (∀ f, b.op ≠ .krbs f) → ∃ u k, exec (.busJobStart p) s = .next u ∧
    (¬TakesAnew own b.cfg → k = own.nextOp ∧ (circleAt u p (kCircle b.cfg)).win = own.win) ∧
    (TakesAnew own b.cfg → k = 0 ∧ (circleAt u p (kCircle b.cfg)).win = 0 ∧ sGet 0#32 (portAt u p).members (kCircle b.cfg).toNat = 0#32) ∧
    (portAt u p).jobs.find? (·.seq == b.seq) = some { b with started := true, num := some k, desc := some (0#64, 0#64, 0#32) } ∧
    (circleAt u p (kCircle b.cfg)).nextOp = k + 1) ∧
  (TakesPart s p ci → WindowEnds s p ci → ∃ u, exec (.kwemanWindow p ci rd) s = .next u ∧
    (circleAt u p ci).win = (circleAt s p ci).win + 1 ∧ (circleAt u p ci).pos = (circleAt s p ci).pos + nextWindowLength s p ci) ∧
  (TakesPart s p ci → ¬WindowEnds s p ci → exec (.kwemanWindow p ci rd) s = .next s) ∧
  (TakesPart s p ci → WindowEnds s p ci → (circleAt s p ci).lost = false →
    (let t := stageNext (flushPort s p) p ci
     nameUnit t p ci = none ∧ ∀ x, lowestOp t p ci = some x → x.ghost = false) →
    ∃ u, exec (.kwemanWindow p ci rd) s = .next u ∧ (circleAt u p ci).lit.hold = true) ∧
  (memberOf s p ci = none → exec (.kwemanWindow p ci rd) s = .next s) ∧
  (∃ u, exec (.writerLeavesSegment p ci idx) s = .next u ∧ (sGet 0#32 (portAt u p).members ci.toNat).getLsbD idx.toNat = true ∧
    (portAt u p).jobs = (portAt s p).jobs ∧ u.mem = s.mem)

/-- R115, R161, R263, R264, R266–R268, R357 and T21.5: what happens at a context's boundary. An annulled word moves the queue with no
effect; where no Trap is due, a breakpoint at PC raises Breakpoint, or halts a core with a debugger, and an interrupt of ctx0 is taken
in U mode, or in S mode with IE, when an enabled source is pending, the lowest source in SUB and IPEND in EVAL; a trap entry is R264's
in U mode, and for an Interrupt of ctx0 in S mode with IE = 1, and a double trap in S mode for anything else but a Power Stop, which
is held there (R326); WSTIME comes to TCMP; a sleep's time is up. An event that
cannot arise leaves the state as it is: the model's choice (log 3). -/
def BoundaryEvents : Prop := ∀ (s : State) (c : CoreId) (j : CtxId),
  let t := ctxAt s c j
  let k := coreAt s c
  let z := ctxAt s c 0
  let timer := k.ienab.getLsbD 0 = true ∧ k.tcmp.toNat ≤ s.ns
  let door := k.ienab.getLsbD 1 = true ∧ k.door = true
  let takes := ¬Within z ∧ z.trapDue = none ∧ (z.status.getLsbD 2 = false ∨ z.status.getLsbD 4 = true) ∧ (timer ∨ door)
  (∀ stl : Stl, (curCtx s).run = .on → ((curCtx s).nul.getLsbD 0 = true → Completes s (.annulledStep stl) stl s) ∧
    ((curCtx s).nul.getLsbD 0 = false → exec (.annulledStep stl) s = .next s)) ∧
  (∀ i : Fin 4, Alive s c j → ¬Within t → t.trapDue = none → t.nul.getLsbD 0 = false → t.bpPass = false → (k.dbg.bp.get i).getLsbD 0 = true →
    t.pc.addr = bitsOf (k.dbg.bp.get i) 2 63 →
    (k.dbg.attach = false → exec (.breakpointMatch c j i) s =
      .next (raiseTrap s c j ⟨.breakpoint, BitVec.ofNat 8 (1 + i.val), false, false, t.pc.addr⟩)) ∧
    (k.dbg.attach = true → ∃ u, exec (.breakpointMatch c j i) s = .next u ∧ (coreAt u c).dbg.halt = true ∧
      (ctxAt u c j).pc = t.pc ∧ (ctxAt u c j).bpPass = true ∧ FilesKept s u)) ∧
  (∀ i : TrapInfo,
    let irq := i.cause = .interrupt
    let S := t.status.getLsbD 2 = true
    let IE := t.status.getLsbD 4 = true
    (t.run = .on → ¬Within t → ¬StopsFirst s c j →
      ((¬S ∧ (irq → j = 0)) ∨ (S ∧ irq ∧ j = 0 ∧ IE) → exec (.trapEntry c j i) s = .next (takeTrap s c j i)) ∧
      (S → ¬irq → i.cause ≠ .powerStop → exec (.trapEntry c j i) s = .next (doubleTrap s c j i))) ∧
    ((t.run ≠ .on ∨ Within t ∨ (S ∧ i.cause = .powerStop) ∨ (irq ∧ (j ≠ 0 ∨ (S ∧ ¬IE)))) →
      exec (.trapEntry c j i) s = .next s)) ∧
  (Alive s c 0 → takes → ∃ e, exec (.interrupt c) s = .next (raiseTrap e c 0
      ⟨.interrupt, BitVec.ofNat 8 (if timer then 0 else 1), false, false, BitVec.ofNat 64 (ipendNumber s c)⟩) ∧
    ctxAt e c 0 = (match z.wait with | .sleep dl _ => { z with wait := .sleep dl true } | _ => z) ∧ FilesKept s e ∧ e.mem = s.mem) ∧
  (Alive s c 0 → ¬takes → exec (.interrupt c) s = .next s) ∧
  (∃ u, exec (.timerMatch c) s = .next u ∧ u.ns = max s.ns k.tcmp.toNat ∧ u.cores = s.cores ∧ u.mem = s.mem) ∧
  (∀ dl w, t.wait = .sleep dl w → exec (.sleepTimeout c j) s =
    .next (inCtx s c j fun t => { t with wait := .sleep dl true }))

/-- R33, R313, R332, R336, R337, R352 and R358: a doorbell sets IPEND.DOOR of a bound core and is dropped at an unbound one; a stop
request reaches every core of the team; a halted core is told when it resumes. A discardable context stops at once, discarded, or as it
stands where its region has just begun, by a header that ended a non-discardable stretch (log 87); a non-discardable one stops where it
waits; one in S mode, or within an MZERO or a WFI, does not stop, nor any once the supply has failed. Loads that have issued are performed
before: the model's choice (log 4). A migration is asked for within a die, from a core that reads 95 °C or more to an unbound core that
reads 85 °C or less (readings in steps of 0.5 °C); from 105 °C on a core's clock is held down, and no longer from the first reading below:
the model's choice (log 75). An event that cannot arise leaves the state as it is: the model's choice (log 3). -/
def StopEvents : Prop := ∀ (s : State) (c target : CoreId) (j : CtxId) (deg tdeg : Nat),
  let k := coreAt s c
  let t := ctxAt s c j
  let due := Alive s c j ∧ ¬Within t ∧ k.stopReq ≠ .none ∧ t.status.getLsbD 2 = false ∧ s.hub.stopped = false
  let justBegun := t.stopHere = true ∨ t.rsDue = true
  let t0 := ctxAt (performAll s c j) c j
  let heat (n : Nat) (k : Core) : Core := { k with temp := n, hot := decide (210 ≤ n) }
  let read := modCore (modCore s c (heat deg)) target (heat tdeg)
  (k.team = none → exec (.doorbellWrite c) s = .next s) ∧
  (k.team ≠ none → k.dbg.halt = false → exec (.doorbellWrite c) s = .next (modCore s c fun k => { k with door := true })) ∧
  (k.team ≠ none → k.dbg.halt = true → ∃ u, exec (.doorbellWrite c) s = .next u ∧ (coreAt u c).door = k.door ∧
    (coreAt u c).dbg.queued = k.dbg.queued ++ [.door]) ∧
  (mayPreempt s c = true → ∃ u, exec (.preemptionRequest c) s = .next u ∧ FilesKept s u ∧ ∀ m ∈ teamCores s c,
    (coreAt s m).dbg.halt = false → (coreAt u m).stopReq = .preempt) ∧
  (mayPreempt s c = false → exec (.preemptionRequest c) s = .next s) ∧
  (due → t.status.getLsbD 6 = false → ¬justBegun → ∃ u, exec (.contextStop c j) s = .next u ∧
    (ctxAt u c j).run = .discarded ∧ Discarded t0 (ctxAt u c j)) ∧
  (due → t.status.getLsbD 6 = false → justBegun → ∃ u, exec (.contextStop c j) s = .next u ∧
    (ctxAt u c j).run = .atHeader ∧ (ctxAt u c j).x = t0.x ∧ (ctxAt u c j).pc = t.pc) ∧
  (due → t.status.getLsbD 6 = true → t.wait ≠ .none → ∃ u, exec (.contextStop c j) s = .next u ∧
    (ctxAt u c j).run = .atWait ∧ (ctxAt u c j).x = t0.x ∧ (ctxAt u c j).pc = t.pc) ∧
  (due → t.status.getLsbD 6 = true → t.wait = .none → exec (.contextStop c j) s = .next s) ∧
  (¬due → exec (.contextStop c j) s = .next s) ∧
  (k.team ≠ none → (coreAt s target).team = none → coreDie c = coreDie target → k.stopReq = .none → k.dbg.halt = false →
    190 ≤ deg → tdeg ≤ 170 →
    exec (.migrationRequest ⟨c, deg⟩ ⟨target, tdeg⟩) s = .next (modCore read c fun k => { k with stopReq := .migrate target })) ∧
  (c ≠ target → (k.team = none ∨ (coreAt s target).team ≠ none ∨ coreDie c ≠ coreDie target ∨ k.stopReq ≠ .none ∨ deg < 190 ∨ 170 < tdeg) →
    exec (.migrationRequest ⟨c, deg⟩ ⟨target, tdeg⟩) s = .next read) ∧
  exec (.thermalClockLimit ⟨c, deg⟩) s = .next (modCore s c (heat deg))

/-- R14, R18, R48, R279, R281, R288, R313, R317, R318, R332, R336, R337 and T21.8: binding, saving, moving and finishing a team. A write
of DISPATCH waits while the die is BUSY; then it is taken, and once every die on which the team has cores has been given the record (log
101), all the slots that name it are bound together, their banks ON or DARK by role, and their ctx0 started with the registers of Table
1.3, at ENTRY without its low three bits (log 113), or, where the record says RESTORE, their registers and grant banks loaded from the
team's save image (R281); a stopped team is saved, unbound and joins the pool; a stopped core moves to another physical core with its
registers and resumes there, and the two cores' slot entries are exchanged; a finished team is unbound and counted in its launch, which
ends OK with its last team, and the partition's management core is rung. Nothing is saved or moved once the supply has failed. The packing
of the image, the engine of a shared cluster and the record's place are the model's (logs 28, 31, 45). Accesses accepted before are
performed first (log 4). An event that cannot arise leaves the state as it is: the model's choice (log 3). -/
def TeamEvents : Prop := ∀ (s : State) (c target : CoreId) (d : DieId) (pa : Nat),
  let k := coreAt s c
  let at_ := pa % 2 ^ 52 / 128 * 128
  let there := backed s at_ = true ∧ backed s (at_ + 127) = true
  let r := BitVec.ofNat 1024 (homeNat s at_ 128)
  let field (lo n : Nat) : Nat := r.toNat / 2 ^ lo % 2 ^ n
  let given (e : DieId) : Prop := e = d ∨ (e ∈ partDies s d ∧ (dieAt s e).busy = true ∧ (dieAt s e).dispatch.toNat = at_)
  let idle := (dieAt s d).busy = false
  let s0 := settleAccesses s
  ((dieAt s d).busy = true → exec (.dispatchWrite d pa) s =
    .next (modDie s d fun k => { k with dispatchWaits := k.dispatchWaits ++ [at_] })) ∧
  (idle → ¬there → exec (.dispatchWrite d pa) s = .fault (.unbacked at_)) ∧
  (idle → there → dispatchCores s d at_ = [] → ∃ u, exec (.dispatchWrite d pa) s = .next u ∧
    (dieAt u d).dispatch = BitVec.ofNat 64 at_ ∧ (dieAt u d).busy = false ∧ ∀ m, (coreAt u m).team = (coreAt s m).team) ∧
  (idle → there → (∀ o ∈ s.owner, o.1 ≠ at_ / 256) → dispatchCores s d at_ ≠ [] → d ∈ partDies s d → (partDies s d).Nodup →
    ∀ cs : List CoreId, cs.Nodup → (∀ m, m ∈ cs ↔ ∃ e, given e ∧ m ∈ dispatchCores s e at_) → ∃ u, exec (.dispatchWrite d pa) s = .next u ∧
    (dieAt u d).dispatch = BitVec.ofNat 64 at_ ∧
    (cs.length ≠ field 74 10 + 1 → (dieAt u d).busy = true ∧ ∀ m, (coreAt u m).team = (coreAt s m).team) ∧
    (cs.length = field 74 10 + 1 → ∀ e, given e → (dieAt u e).busy = false) ∧
    ∀ m ∈ cs, cs.length = field 74 10 + 1 →
      let q := coreAt u m
      let t := ctxAt u m 0
      let slot := (coreAt s m).slot.toNat
      let entry := bitsOf (BitVec.ofNat 64 (field 128 64)) 3 63
      (∃ b, q.team = some b ∧ b.lid.toNat = field 0 32 ∧ b.team = field 32 24 ∧ b.tci = slot / 2 ^ 11 % 2 ^ 10 ∧ b.n = field 74 10 + 1 ∧
        b.bindAt = s.ns ∧ b.save.toNat = field 384 64 ∧ b.asid.toNat = field 256 9 ∧ b.root.toNat = field 265 35) ∧
      q.lcore.toNat = slot / 2 % 2 ^ 10 ∧ q.grant = field 84 6 ∧ q.l1k = field 90 6 ∧
      (field 104 1 = 1 → Quiet s → (∀ n ∈ cs, (coreAt s n).team = none) → ∃ w b, (coreAt w m).team = some b ∧ q.team = some b ∧
        (coreAt w m).grant = field 84 6 ∧ HomesKept s w ∧ CoreRestored (blockRead w m b) u m) ∧
      (field 104 1 = 0 →
      (∀ a, sGet 0#8 q.array a = 0#8) ∧ (∀ i : Fin 32, q.v.get i = 0#512) ∧
      (∀ b < 40, two q.power b = if b < field 84 6 ∨ 40 - field 90 6 ≤ b then 0#2 else 3#2) ∧
      q.phase = 0#32 ∧ q.arr = 0#8 ∧ q.qsent = 0#32 ∧ q.qrecv = 0#32 ∧ q.peermask = 1#64 ∧ q.kretry = 3#3 ∧
      t.run = .on ∧ t.pc = ⟨entry + 8#64, entry⟩ ∧ t.nul = 0#2 ∧
      t.status.toNat = max (field 106 1) (field 105 1) + 2 * field 105 1 ∧
      (t.x.get 2).toNat = field 32 24 ∧ (t.x.get 3).toNat = slot / 2 ^ 11 % 2 ^ 10 ∧ (t.x.get 4).toNat = field 192 64 ∧
      (t.x.get 5).toNat = field 74 10 + 1 ∧ (t.x.get 6).toNat = field 448 24 + 1 ∧
      (∀ i : Fin 32, (i.val < 2 ∨ 6 < i.val) → t.x.get i = 0#64) ∧
      t.asid.toNat = field 256 9 ∧ t.root.toNat = field 265 35 ∧ t.tvec = bitsOf (BitVec.ofNat 64 (field 320 64)) 3 63 ∧
      ∀ j : CtxId, 0 < j.val → (ctxAt u m j).run = .off ∧ (ctxAt u m j).asid = t.asid ∧ (ctxAt u m j).root = t.root)) ∧
  (∀ b, k.team = some b → (teamCores s c).length = b.n → engineJobsOf s b = false → s.hub.stopped = false →
    (∀ m ∈ teamCores s c, (coreAt s m).stopReq = .preempt ∧ ∀ j, (ctxAt s m j).run ≠ .on ∧ (ctxAt s m j).run ≠ .dead ∧
      buffersHeld s m j = false) →
    ∃ u kept, exec (.teamSave c) s = .next u ∧ (∀ m ∈ teamCores s c, (coreAt u m).team = none ∧ (coreAt u m).stopReq = .none) ∧
      u.hub.pool = s.hub.pool ++ [⟨b.lid, b.team, s.ns, k.lcore.toNat - b.tci, kept⟩]) ∧
  (s.hub.stopped = true → exec (.teamSave c) s = .next s ∧ exec (.migrateCore c target) s = .next s) ∧
  (k.team = none ∨ (∃ j, (ctxAt s c j).run = .on) → c ∈ teamCores s c ∨ k.team = none → exec (.teamSave c) s = .next s) ∧
  (∀ b, k.team = some b → k.stopReq = .migrate target → k.dbg.halt = false → (coreAt s target).team = none → s.hub.stopped = false →
    (∀ j, (ctxAt s c j).run ≠ .on ∧ (ctxAt s c j).run ≠ .dead ∧ buffersHeld s c j = false) →
    ∃ u, exec (.migrateCore c target) s = .next u ∧ (coreAt u c).team = none ∧ (coreAt u target).team = some b ∧
      (coreAt u target).lcore = k.lcore ∧ (coreAt u target).v = (coreAt s0 c).v ∧ (coreAt u target).m = k.m ∧
      (coreAt u target).stopReq = .none ∧ (coreAt u target).frozen = false ∧ (coreAt u target).bmask = k.bmask ∧
      (coreAt u target).slot = k.slot ∧ (coreAt u c).slot = (coreAt s target).slot ∧
      ∀ j, (ctxAt u target j).x = (ctxAt s0 c j).x ∧ (ctxAt u target j).pc = (ctxAt s c j).pc ∧
        (ctxAt u target j).npc = (ctxAt s c j).npc ∧ (ctxAt u target j).nnpc = (ctxAt s c j).nnpc ∧
        (ctxAt u target j).status = (ctxAt s c j).status ∧ (ctxAt u target j).lc = (ctxAt s c j).lc ∧
        (ctxAt u target j).run = if (ctxAt s c j).run = .off then .off else .on) ∧
  (k.stopReq ≠ .migrate target → exec (.migrateCore c target) s = .next s) ∧
  (∀ b, k.team = some b → (teamCores s c).length = b.n → (∀ m ∈ teamCores s c, (coreAt s m).finished = true) →
    ∃ u, exec (.teamFinish c) s = .next u ∧ (∀ m ∈ teamCores s c, (coreAt u m).team = none) ∧ (dieAt u (physDie s (coreDie c) 0)).mgmtDoor = true ∧
      ∀ l ∈ s.hub.launches, l.lid = b.lid → ∃ l' ∈ u.hub.launches, l'.lid = l.lid ∧ l'.teams = l.teams + 1 ∧ l'.exitOr = l.exitOr ∧
        (l.teams + 1 = (l.rec_.toNat / 2 ^ 64 % 2 ^ 24) + 1 → l.status = 0 → l.ending = 0 → l'.status = 1)) ∧
  (k.finished = false → c ∈ teamCores s c ∨ k.team = none → exec (.teamFinish c) s = .next s)

/-- R312 and R320: the scheduler places the first team of the pool for which a slot is free, in a slot free for it: the team leaves
the pool, its launch has begun, and a team of one core is bound on the core that presents the slot's logical core. No team is bound
while a die of the slot is busy with another dispatch (T21.8), nor before the record of an ended launch is written (R340). That core and
the place of the bind record are the model's choice, and an area without memory stops the machine (logs 31, 43, 84). An event that
cannot arise leaves the state as it is: the model's choice (log 3). -/
def ScheduleBind : Prop := ∀ (s : State) (p : PartId) (slot : Nat) (c : Cand) (l : Launch),
  p.val < s.parts.length → firstBindable s p = some c → launchOf s c.lid = some l →
  let place := slotCores (partAt s p).ndies l.rec_ slot
  let at_ := bindRecordPa s p place.1
  let h := hostCore s p 1024 place.1
  let busy := dispatchBusy s p place
  ((slotFits s p c slot = false ∨ busy = true) → exec (.scheduleBind p slot) s = .next s) ∧
  (slotFits s p c slot = true → busy = false → ¬(backed s at_ = true ∧ backed s (at_ + 127) = true) →
    exec (.scheduleBind p slot) s = .fault (.unbacked at_)) ∧
  (slotFits s p c slot = true → busy = false → backed s at_ = true → backed s (at_ + 127) = true →
    ∃ u, exec (.scheduleBind p slot) s = .next u ∧ (∃ l' ∈ u.hub.launches, l'.lid = l.lid ∧ l'.begun = true) ∧
      (∀ e ∈ u.hub.pool, ¬(e.lid = c.lid ∧ e.team = c.team)) ∧
      (place.2 = 1 → place.1 < 1024 → c.team < 2 ^ 24 → (coreAt u h).lcore.toNat = place.1 ∧
        ∃ b, (coreAt u h).team = some b ∧ b.lid = l.lid ∧ b.team = c.team ∧ b.tci = 0 ∧ b.n = 1))

/-- R309 and T17.2: the status of a record is that of the first check that fails: RECORD, SHAPE, SCRATCH, or none. GHDR without GRAPH
is not looked at, and an ENTRY or TVEC off 8 bytes is a RECORD fault: deduced (logs 40, 113). -/
def RecordChecks : Prop := ∀ (ndies : Nat) (r : BitVec 2048),
  (badRecord r → recStatus ndies r = 4) ∧
  (¬badRecord r → kernelRecord r → rfield r 20 2 ≠ 0 → rfield r 20 2 ≠ partShape ndies → recStatus ndies r = 3) ∧
  (¬badRecord r → kernelRecord r → (rfield r 20 2 = 0 ∨ rfield r 20 2 = partShape ndies) → 311296 < rfield r 88 20 → recStatus ndies r = 2) ∧
  (¬badRecord r → kernelRecord r → (rfield r 20 2 = 0 ∨ rfield r 20 2 = partShape ndies) → rfield r 88 20 ≤ 311296 → recStatus ndies r = 0) ∧
  (¬badRecord r → ¬kernelRecord r → recStatus ndies r = 0)

/-- R305, R306 and R308: a write of QHEAD is the doorbell and restarts a poll; QCTL keeps EN and a size in its range; a HEAD too far
ahead or a misplaced ring stops the queue. A record at TAIL is read from the ring and checked: rejected, TAIL moves past it, or
its first poll is due. A poll that fails, or that a frozen window holds up, backs off; one that holds hands the record on, or starts
its action; while its queue is stopped a front-end reads nothing. The front-end reads
in U mode with the launch's ASID and ROOT: the model's choice (log 29); so is that a record due at an address without memory stops the
machine (log 84). An event that cannot arise leaves the state as it is: the
model's choice (log 3). -/
def QueueEvents : Prop := ∀ (s : State) (p : PartId) (q : QueueId) (v : Word),
  let k := queueAt s p q
  let headed := { k with head := v.setWidth 32, front := (match k.front with
    | .wait lid _ _ => FrontEnd.wait lid 0 s.ns | .lock lid _ _ => .lock lid 0 s.ns | f => f) }
  let sized := { k with en := v.getLsbD 0, sz := BitVec.ofNat 4 (ranged 4 12 4 (fieldOf v 1 4)) }
  let pa := k.base.toNat + 256 * (k.tail.toNat % 2 ^ k.sz.toNat)
  let due := p.val < s.parts.length ∧ k.en = true ∧ k.front = .idle ∧ k.graph = none ∧ k.head ≠ k.tail ∧ ¬stops k
  (¬stops headed → exec (.qheadWrite p q v) s = .next (modQueue s p q fun _ => headed)) ∧
  (stops headed → exec (.qheadWrite p q v) s = .next (modQueue s p q fun _ => { headed with en := false })) ∧
  (¬stops sized → exec (.qctlWrite p q v) s = .next (modQueue s p q fun _ => sized)) ∧
  (stops sized → exec (.qctlWrite p q v) s = .next (modQueue s p q fun _ => { sized with en := false })) ∧
  (stops k → exec (.queueRecordRead p q) s = .next (modQueue s p q fun k => { k with en := false })) ∧
  (¬due → ¬stops k → exec (.queueRecordRead p q) s = .next s) ∧
  (due → ¬(backed s pa = true ∧ backed s (pa + 255) = true) → exec (.queueRecordRead p q) s = .fault (.unbacked pa)) ∧
  (due → backed s pa = true → backed s (pa + 255) = true → (∀ o ∈ s.owner, o.1 ≠ pa / 256) → (∀ o ∈ s.lrr, o.1 ≠ pa / 256) →
    ∃ u l, exec (.queueRecordRead p q) s = .next u ∧ u.hub.launches = s.hub.launches ++ [l] ∧ l.lid = s.hub.nextLid ∧
      u.hub.nextLid = s.hub.nextLid + 1#32 ∧ l.part = p ∧ l.queue = q ∧ l.index = k.tail ∧ l.rec_ = BitVec.ofNat 2048 (homeNat s pa 256) ∧
      l.status = recStatus (partAt s p).ndies l.rec_ ∧ FilesKept s u ∧ (l.status ≠ 0 → l.endAt = some s.ns) ∧
      (l.status ≠ 0 → (queueAt u p q).tail = k.tail + 1#32 ∧ (queueAt u p q).front = .idle) ∧
      (l.status = 0 → (queueAt u p q).tail = k.tail ∧ (queueAt u p q).front = .wait l.lid 0 s.ns)) ∧
  ((∀ lid j a, k.front ≠ .wait lid j a) → exec (.waitPoll p q) s = .next s) ∧
  (∀ lid j a, k.front = .wait lid j a → (s.ns < a ∨ k.en = false) → exec (.waitPoll p q) s = .next s) ∧
  (∀ lid j a l, k.front = .wait lid j a → a ≤ s.ns → k.en = true → launchOf s lid = some l → l.part = p → l.queue = q →
    let va := BitVec.ofNat 64 (rfield l.rec_ 512 64)
    let read := frontLoad s (frontWho s l) va 8
    let passes (e : State) : Prop :=
      (rfield l.rec_ 6 2 ≠ 0 → exec (.waitPoll p q) s = .next (modQueue e p q fun k => { k with front := .action lid 0 0 })) ∧
      (rfield l.rec_ 6 2 = 0 → kernelRecord l.rec_ → ∃ u, exec (.waitPoll p q) s = .next u ∧ (queueAt u p q).front = .idle ∧
        launchIs u lid (fun l' => l'.ready = true ∧ l'.readyAt = s.ns ∧ l'.rec_ = l.rec_) ∧
        (k.graph = none → (queueAt u p q).tail = k.tail + 1#32)) ∧
      (rfield l.rec_ 6 2 = 0 → rfield l.rec_ 128 64 = 0 → rfield l.rec_ 11 1 = 0 → ∃ u, exec (.waitPoll p q) s = .next u ∧
        launchIs u lid (fun l' => l'.status = if l.status = 0 then 1 else l.status))
    (va = 0#64 → passes s) ∧
    (∀ t a', va ≠ 0#64 → read = .error (.fault t a') → ∃ u, exec (.waitPoll p q) s = .next u ∧ (queueAt u p q).front = .idle ∧
      launchIs u lid (fun l' => l'.status = if l.status = 0 then 9 else l.status)) ∧
    (va ≠ 0#64 → read = .error .held → exec (.waitPoll p q) s =
      .next (modQueue s p q fun k => { k with front := .wait lid (j + 1) (s.ns + pollGap j) })) ∧
    (∀ e bs, va ≠ 0#64 → read = .ok (e, bs) →
      let w := BitVec.ofNat 64 (leNat bs)
      let wval := BitVec.ofNat 64 (rfield l.rec_ 576 64)
      (waitMet (rfield l.rec_ 640 3) w wval → passes e) ∧
      (¬waitMet (rfield l.rec_ 640 3) w wval → exec (.waitPoll p q) s =
        .next (modQueue e p q fun k => { k with front := .wait lid (j + 1) (s.ns + pollGap j) }))))

/-- R220, R321, R329, R355 and R356: a frame begins and belongs to one circle of the wheel: a wheel that was sent is taken at every
sixteenth, the port lights the lowest PHASE of that circle's submitters, and step lock moves the clock by a step within [1.6, 2.0]
GHz, never while a DET launch runs; a package that stopped lights nothing. A calibration sets the limit, lag and turn from what it
measured, in the port and in the KCFGs that name it, whose circles begin anew, once no bus job is outstanding. The KCFGs, the moment
and the beacons of the frame before are deduced (logs 78, 79, 80). An event that cannot arise leaves the state as it is: the model's
choice (log 3). -/
def SegmentEvents : Prop := ∀ (s : State) (p : PortId) (v : Word) (lowest : Option Word32) (cal : Calibration),
  let q := portAt s p
  let ci := frameCircle q
  (q.attached = true → exec (.kwheelWrite p v) s = .next (modPort s p fun q => { q with wheelNext := some v })) ∧
  (q.attached = false → exec (.kwheelWrite p v) s = .next s) ∧
  (q.attached = false ∨ s.hub.stopped = true → exec (.frameStart p lowest) s = .next s) ∧
  (q.attached = true → s.hub.stopped = false → ∃ u, exec (.frameStart p lowest) s = .next u ∧ u.cores = s.cores ∧ u.mem = s.mem ∧
    (portAt u p).frame = q.frame + 1 ∧ (portAt u p).lowest = lowest ∧ BeaconIs s p ci (portAt u p).beacon ∧
    (portAt u p).wheel = frameWheel q ∧ (q.frame % 16 = 0 → (portAt u p).wheelNext = none) ∧
    (q.frame % 16 ≠ 0 → (portAt u p).wheelNext = q.wheelNext) ∧
    (∀ cj, (circleAt u p cj).frames = (circleAt s p cj).frames + if cj = ci ∧ (circleAt s p cj).cfg ≠ none then 1 else 0) ∧
    (∀ own low, q.beacon = some own → lowest = some low → ¬Locked s →
      (low.toNat + 2 ≤ own.toNat → u.hub.clock = max 16 (s.hub.clock - 1)) ∧
      (own.toNat = low.toNat + 1 → u.hub.clock = s.hub.clock) ∧
      (own.toNat ≤ low.toNat → u.hub.clock = s.hub.clock ∨ u.hub.clock = min 20 (s.hub.clock + 1))) ∧
    (Locked s ∨ q.beacon = none ∨ lowest = none → u.hub.clock = s.hub.clock)) ∧
  (q.jobs = [] → ∃ u, exec (.segmentCalibration p cal) s = .next u ∧ Calibrated s p cal u ∧ FilesKept s u ∧ u.mem = s.mem) ∧
  (q.jobs ≠ [] → exec (.segmentCalibration p cal) s = .next (modPort s p fun q => { q with recal := some cal })) ∧
  (q.attached = true → q.jobs = [] → ∃ u, exec (.recalibrationRequest p cal) s = .next u ∧ Calibrated s p cal u ∧ FilesKept s u) ∧
  (q.attached = true → q.jobs ≠ [] → exec (.recalibrationRequest p cal) s = .next (modPort s p fun q => { q with recal := some cal })) ∧
  (q.attached = false → exec (.recalibrationRequest p cal) s = .next s)

/-- R3, R276, R304, R316, R332, R349–R351, R354 and T21.4: a replay is counted, a link halves its lanes down to 16 or returns to 64; the
host reads and writes homes within BAR2 and nothing else, and its atomic writes only over the bytes it expects; the package leaves
reset with every core and cluster as State.reset has them, held where no firmware slot is good, after step 1 where no die is whole,
else with its defective dies mapped around, its partitions, each with its quantum, and its fault queues. What memory keeps over a
reset, a host access outside BAR2 and a die with a failing channel are the model's (logs 38, 81, 100). -/
def PackageEvents : Prop := ∀ (s : State) (d : DieId) (l pa n : Nat) (bs : List Byte) (plan : BootPlan),
  let link := sGet (⟨64, 0⟩ : Link) (dieAt s d).links l
  let linked (k : Link) : State := modDie s d fun e => { e with links := sPut ⟨64, 0⟩ e.links l k }
  let alone (n : Nat) : Prop := ∀ o ∈ s.owner, o.1 * 256 + 256 ≤ pa ∨ pa + n ≤ o.1 * 256
  exec (.linkCrcReplay d l) s = .next (linked { link with replays := link.replays + 1 }) ∧
  exec (.laneShed d l) s = .next (linked { link with width := if 16 < link.width then link.width / 2 else link.width }) ∧
  exec (.laneRestore d l) s = .next (linked { link with width := 64 }) ∧
  (pa + n ≤ lpddrEnd → alone n → ∃ u, exec (.hostRead pa n) s = .next u ∧
    FilesKept s u ∧ u.mem = s.mem ∧ u.hub.hostData.length = n ∧ ∀ i, i < n → u.hub.hostData[i]? = some (homeByte s (pa + i))) ∧
  (lpddrEnd < pa + n → pa < 0xF000000000000 ∨ 0xF000004000000 ≤ pa → exec (.hostRead pa n) s = .next s) ∧
  (pa + bs.length ≤ lpddrEnd → MapsInv s → ∃ u, exec (.hostWrite pa ⟨none, bs⟩) s = .next u ∧ FilesKept s u ∧
    (∀ i, i < bs.length → homeByte u (pa + i) = bs.getD i 0#8) ∧
    (alone bs.length → ∀ a, (a < pa ∨ pa + bs.length ≤ a) → homeByte u a = homeByte s a)) ∧
  (∀ old, pa + bs.length ≤ lpddrEnd → MapsInv s → alone bs.length → ∃ u, exec (.hostWrite pa ⟨some old, bs⟩) s = .next u ∧ FilesKept s u ∧
    u.hub.hostData = homeBytes s pa bs.length ∧
    (old = homeBytes s pa bs.length → (∀ i, i < bs.length → homeByte u (pa + i) = bs.getD i 0#8) ∧
      ∀ a, (a < pa ∨ pa + bs.length ≤ a) → homeByte u a = homeByte s a) ∧
    (old ≠ homeBytes s pa bs.length → u.mem = s.mem)) ∧
  (∀ e, lpddrEnd < pa + bs.length → exec (.hostWrite pa ⟨e, bs⟩) s = .next s) ∧
  ∃ u, exec (.packageReset plan) s = .next u ∧ u.cores = State.reset.cores ∧ u.clusters = State.reset.clusters ∧ u.ns = 0 ∧
    (s.hub.stopped = false → u.mem = s.mem) ∧ (s.hub.stopped = true → MapsInv s → ∀ a, isLpddr a = true → homeByte u a = 0#8) ∧
    (plan.slot0Ok = false → plan.slot1Ok = false → u.held = true ∧ packageRuns u = false) ∧
    (plan.slot0Ok = true ∨ plan.slot1Ok = true →
      u.held = false ∧ (∀ x, ((dieAt u x).defective = false ↔ Whole plan x) ∧
        (dieAt u x).badChannels.toNat = plan.badChannels.toNat / 2 ^ (12 * x.val) % 4096) ∧
      ∃ m : Nat, (∀ x, Whole plan x ↔ ∃ i : DieId, i.val < m ∧ u.dieMap.get i = x) ∧
        (∀ i j : DieId, i.val < j.val → j.val < m → (u.dieMap.get i).val < (u.dieMap.get j).val) ∧
        (m = 0 → u.boot = 1 ∧ u.parts = []) ∧
        (m ≠ 0 → u.boot = 6 ∧
          (∀ p : Part, p ∈ u.parts → p.base.val + p.ndies ≤ m) ∧
          u.parts.map (fun p => (p.base, p.ndies)) = ((match plan.division with
            | .s1024 => [(0, 4)] | .s512x2 => [(0, 2), (2, 2)] | .s512s256x2 => [(0, 2), (2, 1), (3, 1)]
            | .s256x4 => [(0, 1), (1, 1), (2, 1), (3, 1)] : List (DieId × Nat)).filter fun x => decide (x.1.val + x.2 ≤ m)) ∧
          (∀ i (p : Part), u.parts[i]? = some p → let us := plan.quantaUs.getD i 0
            p.quantum = if 50 ≤ us ∧ us ≤ 100000 then 1000 * us else 1000000) ∧
          (∀ (x : DieId) (base : Word) (sz : Nat), plan.faultQueues[x.val]? = some (base, sz) →
            (dieAt u x).fqbase = paBits 5 base ∧ (dieAt u x).fqsz.toNat = ranged 4 16 8 sz) ∧
          ∀ i : Fin 4, u.cxl.get i = min (plan.cxlBytes.getD i.val 0) (2 ^ 48)))

/-- A step runs the decoded instruction: where the next context's boundary holds nothing else, the bytes at its PC decode to `i` and no line
of them is poisoned, the step is exec of `i` there, the words kept in the instruction path (R275) and the context's late loads performed
that `i` does not let wait (R85, R120; log 4), but for the end of a debugger's step (R358). A second word is fetched for an L form
alone, and lies in the body of the same block (R108, R109). -/
def StepRunsInstruction : Prop := ∀ (s : State) (c : CoreId) (j : CtxId) (pa : Nat) (w : Word32) (i : Instr) (rest : List Byte),
  Issues s c j →
  let before := { tick s with turn := .background }
  let s2 := fetchState s c j
  let q := (ctxAt s2 c j).pc
  HeaderGood s2 c j → ¬AtHeader s2 c j → fetchAt s2 c j q.addr = .ok (pa, w) → codePoisoned s2 c pa = false →
  (isLForm w = false → decode (bytesOfWord w) = .ok (i, rest) →
    step s = settleOut before (exec i (interlock (fillCode s2 c pa w) c j w)) ∧
    ((∀ x, (coreAt s x).dbg.halt = false) → step s = exec i (interlock (fillCode s2 c pa w) c j w))) ∧
  (∀ pa' lit, isLForm w = true → (q.addr + 4#64).toNat < (bodyEnd s2 c j q.hdr).toNat → fetchAt s2 c j (q.addr + 4#64) = .ok (pa', lit) →
    codePoisoned s2 c pa' = false → decode (bytesOfWord w ++ bytesOfWord lit) = .ok (i, rest) →
    step s = settleOut before (exec i (interlock (fillCode (fillCode s2 c pa w) c pa' lit) c j w)))

/-- An event of the agenda is the step, whatever else could act; the agenda loses it (log 2). -/
def StepRunsEvent : Prop := ∀ (s : State) (e : Instr) (rest : List Instr), (tick s).agenda = e :: rest →
  (encode e = [] → step s = exec e { tick s with agenda := rest }) ∧
  (encode e ≠ [] → step s = .next { tick s with agenda := rest })

end Sys2Proof.Claims

open Sys2Proof Sys2Proof.Machine Sys2Proof.Claims

/-- R127, the 64-bit column of Table 6.1, operation by operation in terms of numbers: x[d] receives the result and nothing else of
the machine changes but by the queue step; no flag is set and no value traps. R127, the 32-bit forms of Table 6.1: computed from the low words, delivered sign-extended. R127: the counts of Table 6.1 at both widths. CLZ gives the n for which the operand fills all but its n upper bits, CTZ the
n for which its n lower bits are zero and the next is one, both the width for zero; POPC the number of ones. The .w forms deliver
their count zero-extended. -/
def Obligations.ScalarRegister : Prop := ScalarRegister64 ∧ ScalarRegister32 ∧ ScalarCounts

/-- R128 and Table 6.2: products and quotients as numbers, with the fixed results for a zero divisor; signed overflow gives what
the number wraps to, −2^63 with remainder 0 and their .w likes. -/
def Obligations.ScalarMulDiv : Prop := ∀ (s : State) (stl : Stl) (d a b : Reg), NoUnderrun s [nx a, nx b] →
  let x := reads s a
  let y := reads s b
  let p : Word32 := x.setWidth 32
  let q : Word32 := y.setWidth 32
  Writes s (.mul stl d a b) stl d (BitVec.ofInt 64 (x.toInt * y.toInt)) ∧
  Writes s (.mulh stl d a b) stl d (BitVec.ofInt 64 (x.toInt * y.toInt / 2 ^ 64)) ∧
  Writes s (.mulhu stl d a b) stl d (BitVec.ofNat 64 (x.toNat * y.toNat / 2 ^ 64)) ∧
  Writes s (.div stl d a b) stl d (if y.toNat = 0 then BitVec.ofInt 64 (-1) else BitVec.ofInt 64 (x.toInt.tdiv y.toInt)) ∧
  Writes s (.divu stl d a b) stl d (BitVec.ofNat 64 (if y.toNat = 0 then 2 ^ 64 - 1 else x.toNat / y.toNat)) ∧
  Writes s (.rem stl d a b) stl d (if y.toNat = 0 then x else BitVec.ofInt 64 (x.toInt.tmod y.toInt)) ∧
  Writes s (.remu stl d a b) stl d (if y.toNat = 0 then x else BitVec.ofNat 64 (x.toNat % y.toNat)) ∧
  Writes s (.mulW stl d a b) stl d (sext (BitVec.ofInt 32 (p.toInt * q.toInt))) ∧
  Writes s (.divW stl d a b) stl d
    (if q.toNat = 0 then BitVec.ofInt 64 (-1) else sext (BitVec.ofInt 32 (p.toInt.tdiv q.toInt))) ∧
  Writes s (.divuW stl d a b) stl d
    (if q.toNat = 0 then BitVec.ofInt 64 (-1) else sext (BitVec.ofNat 32 (p.toNat / q.toNat))) ∧
  Writes s (.remW stl d a b) stl d (sext (if q.toNat = 0 then p else BitVec.ofInt 32 (p.toInt.tmod q.toInt))) ∧
  Writes s (.remuW stl d a b) stl d (sext (if q.toNat = 0 then p else BitVec.ofNat 32 (p.toNat % q.toNat)))

/-- R129 and R130: x[a] with SEXT(imm12), and shifts by a constant at the width that w selects. R131–R133, R143 and R148: SEL, the bit-field instructions in terms of the bits they move (`len` of the word is one less than
the length), the literals of the L form, the generator, and NOP, which changes nothing. -/
def Obligations.ScalarImmediateAndOther : Prop := ScalarImmediate ∧ ScalarOther

/-- R134–R136 (Table 6.3): the scalar FP operations read FP32 values, round once by their mode, and only set flags. FFMS negates
the product; FCMP delivers 1 or 0; FMIN, FMAX and FSGN give codes. That FEXP2, FLOG2, FRCP and FRSQ raise NX and UF as their results say
is deduced (log 54). -/
def Obligations.FloatArithmetic : Prop :=
  ∀ (s : State) (stl : Stl) (rm : RMode) (rel : FRel) (d a b c : Reg), NoUnderrun s [nx a, nx b, nx c] →
  let x := readsF s a
  let y := readsF s b
  let z := readsF s c
  let p : Word32 := (reads s a).setWidth 32
  let q : Word32 := (reads s b).setWidth 32
  FloatWrites s (.fadd stl rm d a b) stl d (addFl fmtF32 rm x y) id ∧
  FloatWrites s (.fsub stl rm d a b) stl d (addFl fmtF32 rm x (flNeg y)) id ∧
  FloatWrites s (.fmul stl rm d a b) stl d (mulFl fmtF32 rm x y) id ∧
  FloatWrites s (.fmin stl d a b) stl d (minMaxFl fmtF32 false p.toNat q.toNat) id ∧
  FloatWrites s (.fmax stl d a b) stl d (minMaxFl fmtF32 true p.toNat q.toNat) id ∧
  FloatWrites s (.fsgn stl d a b) stl d (if flNan x then ⟨0x7FC00000, if flSig x then 16#5 else 0#5, false⟩
    else ⟨p.toNat % 2 ^ 31 + q.toNat / 2 ^ 31 * 2 ^ 31, 0#5, false⟩) id ∧
  FloatWrites s (.fexp2 stl d a) stl d (exp2Fl x) id ∧
  FloatWrites s (.flog2 stl d a) stl d (log2Fl x) id ∧
  FloatWrites s (.frcp stl d a) stl d (rcpFl x) id ∧
  FloatWrites s (.frsq stl d a) stl d (rsqFl x) id ∧
  FloatWrites s (.ffma stl d a b c) stl d (fmaFl fmtF32 x y z) id ∧
  FloatWrites s (.ffms stl d a b c) stl d (fmaFl fmtF32 (flNeg x) y z) id ∧
  FloatWrites s (.fcmp stl rel d a b) stl d ⟨if (cmpFl rel x y).1 then 1 else 0, (cmpFl rel x y).2, false⟩ id

/-- R137 (Table 6.4): the conversions. Integer destinations round and saturate under R64 and are extended from their own width,
FP sources and destinations round once by the mode, FP8 codes widen exactly; .sr draws once and advances SRCTR by one. That a
conversion to FP8 raises UF is deduced (log 53). -/
def Obligations.FloatConversions : Prop := ∀ (s : State) (stl : Stl) (rm : RMode) (d a : Reg), NoUnderrun s [nx a] →
  let x := readsF s a
  let w := reads s a
  let r := drawNow s
  let toInt (lo hi : Int) : FRes :=
    ⟨(BitVec.ofInt 64 (flToInt rm r lo hi x).1).toNat, (flToInt rm r lo hi x).2, false⟩
  let ofInt (v : Int) : FRes := roundFl fmtF32 rm r (decide (v < 0)) v.natAbs 0
  let plain (i : Instr) (v : FRes) : Prop := FloatWrites s i stl d v (convMore rm false v)
  let fp8 (i : Instr) (v : FRes) : Prop := FloatWrites s i stl d v (convMore rm true v)
  plain (.fcvtI32F32 stl rm d a) (toInt (-2 ^ 31) (2 ^ 31 - 1)) ∧
  plain (.fcvtUint32F32 stl rm d a) (toInt 0 (2 ^ 32 - 1)) ∧
  plain (.fcvtI64F32 stl rm d a) (toInt (-2 ^ 63) (2 ^ 63 - 1)) ∧
  plain (.fcvtUint64F32 stl rm d a) (toInt 0 (2 ^ 64 - 1)) ∧
  plain (.fcvtF32I32 stl rm d a) (ofInt ((w.setWidth 32 : Word32).toInt)) ∧
  plain (.fcvtF32Uint32 stl rm d a) (ofInt (w.toNat % 2 ^ 32 : Nat)) ∧
  plain (.fcvtF32I64 stl rm d a) (ofInt w.toInt) ∧
  plain (.fcvtF32Uint64 stl rm d a) (ofInt w.toNat) ∧
  plain (.fcvtBf16F32 stl rm d a) (convFl fmtBf16 rm r x) ∧
  FloatWrites s (.fcvtF32Bf16 stl d a) stl d ⟨w.toNat % 2 ^ 16 * 2 ^ 16, 0#5, false⟩ id ∧
  fp8 (.fcvtE4m3F32 stl rm d a) (convFl fmtE4m3 rm r x) ∧
  fp8 (.fcvtE5m2F32 stl rm d a) (convFl fmtE5m2 rm r x) ∧
  FloatWrites s (.fcvtF32E4m3 stl d a) stl d (convFl fmtF32 .rne 0 (unpackFl fmtE4m3 (w.toNat % 2 ^ 8))) id ∧
  FloatWrites s (.fcvtF32E5m2 stl d a) stl d (convFl fmtF32 .rne 0 (unpackFl fmtE5m2 (w.toNat % 2 ^ 8))) id

/-- R62–R64 and R66: what each mode does with m × 2^e at a step of 2^q. A value on the grid is exact; otherwise RTZ truncates the
magnitude, RDN and RUP go down and up as signed numbers, RNE takes the nearer multiple and on a tie the even one, SR rounds the
magnitude up when the first 16 bits cut off and the draw carry out together. R63 and Table 6.3: results that are no number are the canonical NaN, and NV says why: a signalling operand, ∞ − ∞, 0 × ∞. -/
def Obligations.FloatRoundingAndInvalid : Prop := RoundingModes ∧ FloatInvalid

/-- R116 and R138 (Table 5.3): a branch whose condition holds loads NNPC with its target, which must be a header; one whose
condition fails checks no target and goes on, its .N form annulling the two instructions behind it. No branch writes a
register. A target whose header word cannot be fetched counts as none: the model's choice (log 91). R117, R139 and R140: BAL and JAL link the header that follows their block, from the place R117 asks for, and raise Block
Format anywhere else, also with a d of 0, which discards the link: the model's choice (log 56). JR and JAL go to x[a]; JAL reads it
before it writes d. A target whose header word cannot be fetched counts as none: the model's choice (log 91). -/
def Obligations.BranchesAndJumps : Prop := Branches ∧ JumpsAndLinks

/-- R141: LOOP arms the loop whose body is the block that follows, in its own step, where two body words follow it in its block;
anywhere else it raises Block Format. -/
def Obligations.HardwareLoop : Prop := ∀ (s : State) (stl : Stl) (a : Reg), NoUnderrun s [nx a] →
  let p := (curCtx s).pc.addr
  (p.toNat + 12 ≤ (endOfBlock s).toNat →
    Completes s (.loop stl a) stl (onCtx s fun t => { t with lc := reads s a, lblk := followingHeader s ||| 1#64 })) ∧
  ((endOfBlock s).toNat < p.toNat + 12 → Raises s (.loop stl a) ⟨.blockFormat, 0#8, false, false, p⟩)

/-- R114: the sequential successor of a queue entry, with the loop state it leaves, as the rule's own program gives it. That a word which
cannot be fetched counts as one word long, and a header which cannot be fetched as one without a body, is the model's choice (log 9). -/
def Obligations.SequentialSuccessor : Prop := ∀ (s : State) (c : CoreId) (j : CtxId) (lc lblk : Word) (q : QSlot),
  let word := peek s c j q.addr
  let long := match word with | some w => decide (w.toNat % 2 ^ 7 = 0x0F) | none => false
  let n := q.addr + (if long then 8#64 else 4#64)
  let len := lenAt s c j q.hdr
  let nh := q.hdr + BitVec.ofNat 64 (8 + 8 * ((len + 1) / 2))
  let after := nh + BitVec.ofNat 64 (8 + 8 * ((lenAt s c j nh + 1) / 2))
  let act := lblk.getLsbD 0
  let body := lblk &&& ~~~7#64
  let idle := lblk &&& ~~~1#64
  seqOf s c j lc lblk q =
    (if n.toNat < (q.hdr + BitVec.ofNat 64 (8 + 4 * len)).toNat then (⟨n, q.hdr⟩, lc, lblk)
    else if act ∧ q.hdr = body ∧ 1 < lc.toNat then (⟨q.hdr + 8#64, q.hdr⟩, lc - 1#64, lblk)
    else if act ∧ q.hdr = body then (⟨nh + 8#64, nh⟩, 0#64, idle)
    else if act ∧ nh = body ∧ lc = 0#64 then (⟨after + 8#64, after⟩, lc, idle)
    else (⟨nh + 8#64, nh⟩, lc, lblk))

/-- R264: a trap taken at the boundary before the instruction at PC. Every register of the rule holds what the rule gives it; the
handler's block is read as S mode sees it; a TVEC that names no header makes a double trap, and one whose header word cannot be fetched
counts as none: the model's choice (log 91); nothing else of the package changes but that loads of the context which have issued and are
not yet performed are performed first: the model's choice (log 4). (The marks of a wait or of a trap or region start about to be taken and
the headers of the saved queue are the model's own: any value.) -/
def Obligations.TrapEntry : Prop := ∀ (s : State) (c : CoreId) (j : CtxId) (i : TrapInfo), ∃ q n d r h b,
  let s0 := performAll s c j
  let t := ctxAt s0 c j
  let hdr := bitsOf t.tvec 3 63
  let idle := t.lblk &&& ~~~1#64
  let saved : Ctx := { t with
    epc := t.pc.addr, enpc := t.npc.addr, ennpc := t.nnpc.addr, enul := t.nul
    elc := t.lc, elblk := t.lblk, erst := t.rstart, lblk := idle
    ecause := BitVec.ofNat 64 (ecauseNumber i j), eval := i.eval
    status := trapStatus t.status
    inflight := [], savedQ := q, wait := n, trapDue := d, rsDue := r, stopHere := h, bpPass := b }
  let s1 := modCtx s0 c j fun _ => saved
  let pc : QSlot := ⟨hdr + 8#64, hdr⟩
  let npc := (seqOf s1 c j t.lc idle pc).1
  let nnpc := (seqOf s1 c j t.lc idle npc).1
  ((ctxAt s c j).late = [] → s0 = s) ∧
  takeTrap s c j i =
    if isHeader s1 c j hdr then modCtx s0 c j fun _ => { saved with pc := pc, npc := npc, nnpc := nnpc, nul := 0#2 }
    else doubleTrap s1 c j i

/-- R267, R33 and R326: in U mode a fault is the trap of R264, but for a discardable context with a stop pending, which stops first; in
S mode everything but an Interrupt and a Power Stop is a double trap: the context stops for good and its die has a record of kind 7,
cause 5, with the ECAUSE of the trap that could not be taken, to post. That the trap registers stay in S mode is deduced (log 44). A
Power Stop that is due is taken at the boundary in U mode, with the team's ENERGY in EVAL; in S mode it is held, no trap is taken, and
the context stops at its ERET. -/
def Obligations.TrapsAndDoubleTraps : Prop := ∀ (s : State) (c : CoreId) (j : CtxId) (i : TrapInfo),
  let t := ctxAt s c j
  let power : TrapInfo := ⟨.powerStop, 0#8, false, false, energyOf s (coreAt s c)⟩
  (¬StopsFirst s c j → (t.status.getLsbD 2 = false ∨ i.cause = .interrupt) → raiseTrap s c j i = takeTrap s c j i) ∧
  (t.status.getLsbD 2 = true → i.cause ≠ .interrupt → i.cause ≠ .powerStop →
    raiseTrap s c j i = doubleTrap s c j i ∧
    (ctxAt (raiseTrap s c j i) c j).run = .dead ∧
    ∃ r, (dieAt (raiseTrap s c j i) (coreDie c)).faults = (dieAt s (coreDie c)).faults ++ [r] ∧
      r.kind = 7#3 ∧ r.cause = 5#4 ∧ r.va = 0#64 ∧ r.seq = BitVec.ofNat 32 (ecauseNumber i j) ∧ r.lc = (coreAt s c).lcore) ∧
  (¬StopsFirst s c j → ¬Within t → t.trapDue = none → t.powerStop = true → t.powerDone = false → (coreAt s c).dbg.halt = false →
    (j.val = 0 → interruptible s c = false) →
    boundary s c j = some (modCtx (if t.status.getLsbD 2 then s else takeTrap s c j power) c j fun t => { t with powerDone := true })) ∧
  (∀ stl, t.status.getLsbD 2 = true → t.powerDone = true → s.cur = (c, j) →
    ∃ u, exec (.eret stl) s = .next u ∧ (ctxAt u c j).run = .dead)

/-- R271: ERET in S mode restores the queue's addresses, the pending nullifications, the loop state, the region start and the
status from the saved registers; every other register of the context stays, no SEQ is evaluated and no target is checked. An
untraced core changes in nothing else. -/
def Obligations.TrapReturn : Prop := ∀ (s : State) (stl : Stl), sMode s = true →
  let t := curCtx s
  ∃ u, exec (.eret stl) s = .next u ∧ u.cur = s.cur ∧
    let w := curCtx u
    w.pc.addr = t.epc ∧ w.npc.addr = t.enpc ∧ w.nnpc.addr = t.ennpc ∧ w.nul = t.enul ∧
    w.lc = t.elc ∧ w.lblk = t.elblk ∧ w.rstart = t.erst ∧ w.status = eretStatus t.status ∧ w.inflight = [] ∧
    w.run = (if t.powerDone then .dead else t.run) ∧
    w = { t with pc := w.pc, npc := w.npc, nnpc := w.nnpc, nul := w.nul, lc := w.lc, lblk := w.lblk, rstart := w.rstart
                 status := w.status, inflight := w.inflight, run := w.run, wait := w.wait, rsDue := w.rsDue, stopHere := w.stopHere
                 bpPass := w.bpPass, lastPc := w.lastPc } ∧
    (traced s s.cur.1 = false → u = onCtx s fun _ => w)

/-- R120 and Table 15.3: under SCHK = 1 an instruction that reads a register before its result is due raises Stall Underrun with the
register's number and has no effect; here an ADD. Of several such registers the first source is named: the model's choice (log
50). R119 and R120: what reading a register gives. With no result outstanding it is the register; with one outstanding under
SCHK = 0 it is the old value or the new one, and nothing says which (log 7); x0 reads zero (R60). R119 (Table 5.6): when a result is due. The register is written at once and the old value is kept until the latency has
passed, counted from the cycle of the issue: ADD 1, MUL and RNG 3, FADD 4, FRCP 8. -/
def Obligations.RegisterTiming : Prop := StallUnderrun ∧ RegisterReads ∧ Latencies

/-- R146 and Table 6.7: SYSR delivers the register as it stands, in the modes that may name it; any other number is an Illegal
Instruction. BANKQ shows the selection and the states of its group. R146, R147, R262, R268 and R269: SYSW writes the fields that the mode reaches and ignores the others, and ends
discardability. A write to BMASKk waits while its channel has an arrival pending (R23). A write to KCFG in S mode also puts the circle
that it names under the configuration (R220). 0x812 and 0x813 read zero and ignore writes (T16.1). R147: a SYSW to LC or LBLK takes effect after the SEQ evaluation of its own step: the entry that follows the queue is found
with the old loop state. LBLK's bits 2:1 read as zero. -/
def Obligations.SpecialRegisters : Prop := SysregReads ∧ SysregWrites ∧ LoopRegisterWrites

/-- R261, R270 and R272–R275: TRAP completes its step and leaves its Trap due; WFI completes when an enabled interrupt or a pre-emption is
pending, at once or after a wait, within which no trap, stop or interrupt finds the context; BKPT raises Breakpoint where no debugger is
attached; ERET, WFI, TLBINV and CINV are illegal in U mode. -/
def Obligations.SystemInstructions : Prop := ∀ (s : State) (stl : Stl) (k : BitVec 5) (a b : Reg),
  let core := coreAt s s.cur.1
  let pc := (curCtx s).pc.addr
  let pending := (core.ienab.getLsbD 0 = true ∧ core.tcmp.toNat ≤ s.ns) ∨ (core.ienab.getLsbD 1 = true ∧ core.door = true) ∨
    core.stopReq ≠ .none
  Completes s (.trap stl k) stl (onCtx s fun t => { t with trapDue := some t.pc.addr, trapLit := k }) ∧
  (∀ c j t a', t = ctxAt s c j → t.trapDue = some a' → ¬StopsFirst s c j → ¬Within t →
    boundary s c j = some (raiseTrap s c j ⟨.trap, BitVec.ofNat 8 t.trapLit.toNat, false, false, a'⟩)) ∧
  (sMode s = true → pending → Completes s (.wfi stl) stl s) ∧
  (sMode s = true → ¬pending → exec (.wfi stl) s = .next (onCtx s fun t => { t with wait := .wfi })) ∧
  (∀ c j, Within (ctxAt s c j) → boundary s c j = none) ∧
  (core.dbg.attach = false → Raises s (.bkpt stl) ⟨.breakpoint, 0#8, false, false, pc⟩) ∧
  (sMode s = false → Raises s (.eret stl) (wordFault .illegal (.eret stl)) ∧ Raises s (.wfi stl) (wordFault .illegal (.wfi stl)) ∧
    Raises s (.tlbinv stl a b) (wordFault .illegal (.tlbinv stl a b)) ∧ Raises s (.cinv stl a) (wordFault .illegal (.cinv stl a)))

/-- R149 and R151 (Table 7.2): the plain loads, in every form: the address x[a] + SEXT(off) × size must be aligned to the size
(else Misaligned, which its checks name first); the bytes that R85 gives are extended into x[d]. A load may also be performed later
(R84, R85; log 4): then x[d] shows a value that no instruction reads until the load is performed. R85 and R293: what a plain load sees when it is performed, and that it leaves the homes alone. The youngest buffered store to the
same bytes is forwarded; an uncached page shows its homes, whatever the core's own L1 holds; a cached one shows the byte that the
core's own L1 holds dirty; an array shows its owner's bytes; a home byte changes only where a line that some core holds dirty is
written back. A load is performed as it issues, or waits among the late loads of its context and is performed by what `performLoad`
does (R84; log 4), as it is wherever no byte is poisoned by then: `loadNow` is the load itself, without the fences that a load issuing
now comes after; an access to a byte that a late load reads comes after it. A page
walk reads entries at their homes and leaves them so (R294). -/
def Obligations.PlainLoadsAndTheirBytes : Prop := PlainLoads ∧ PlainLoadSees

/-- R152: the acquire loads, in every form, at every scope. R88 and R152: an acquire at .core is a plain load. One at .cl or wider leaves no clean byte in its core's L1. Its context's own
buffered store to the bytes drains first, so that it reads what that store wrote (deduced: log 47). Then a byte that its own core
holds dirty in its L1 is read there; any other at the home, after the write-back that the line's last-release record forces: a byte
that the releaser holds dirty with a stamp that the record covers is the one read, where each lies within the other's scope. An
uncached page is read at its home (R293), an array at its owner's. -/
def Obligations.AcquireLoadsAndTheirBytes : Prop := AcquireLoads ∧ AcquireSees

/-- R86, R153 and R155: a plain or counted store puts its bytes, at its address, into the context's store buffer as the youngest entry,
after the late loads of its context that read one of them (log 4), with the translation that it keeps until it drains (R298); no byte of
memory changes until the entry drains, and no other register changes. ST.Q takes its upper half from x[r + 1]. R154: a release store waits in the buffer with its scope; the .ar form also drains all that the context has buffered, itself
last, in its own step, and at .cl or wider leaves no clean byte in the L1. Both end discardability. R86 and R293: the drain of a plain store. To an uncached page, or from a core whose L1 has no bank, its bytes reach their
homes, least significant first, and no other home byte changes but by the write-back of an owned line; to an array, the owner's
array; elsewhere the core's own L1, which then holds the drained bytes, dirty, at their addresses, and the homes keep what they hold
but for write-backs. A counted store writes the owner's array and, where sender and receiver are of one team, adds 1 to the sender's
QSENT and to the receiver's QRECV (R155); no other core's counters move. -/
def Obligations.StoresAndDrains : Prop := Stores ∧ OrderedStores ∧ StoreDrains

/-- R156, R159, R273–R275: prefetch may fill a sector or not (log 13) and changes no register; a fence with W in its predecessor set
leaves a marker in the store buffer, which later accesses of its successor set wait for (R90; deduced: log 64), one without drops the
clean bytes where R is in its successor set and its scope is .cl or wider; TLBINV, CFLUSH, CINV and IFENCE complete with the effects
their rules give, and TLBINV waits for a put, or an MZERO in progress, that pins a
translation it removes (R298). TLBINV flushes whole L1s and CFLUSH drains
buffered stores to its line first: deduced (logs 58, 59). -/
def Obligations.CacheInstructions : Prop := ∀ (s : State) (stl : Stl) (a b : Reg) (off : BitVec 12) (sc : Scope) (succ pred : BitVec 2),
  let c := s.cur.1
  let j := s.cur.2
  let line (kind : AccKind) (l : Option Nat) : Prop := lineOf s c j kind (reads s a) = .ok l
  (NoUnderrun s [nx a] → MapsInv s → ∃ e, Completes s (.pfch stl a off) stl e ∧ HomesKept s e ∧ curCtx e = curCtx s) ∧
  (pred.getLsbD 1 = true → PutsArrived s → Completes s (.fence stl sc succ pred) stl
    (onCtx s fun t => { t with sbuf := t.sbuf ++ [.fence pred succ sc (entryEpoch t)] })) ∧
  (pred.getLsbD 1 = false → Completes s (.fence stl sc succ pred) stl
    (if sc ≠ .core ∧ succ.getLsbD 0 = true then invalidateClean s c else s)) ∧
  (NoUnderrun s [nx a] → line .load none → Completes s (.cflush stl a) stl s) ∧
  (NoUnderrun s [nx a] → Unheld s → ∀ l, line .load (some l) →
    Completes s (.cflush stl a) stl (writeBackLine (settle (walkedBy s .load (reads s a)) c j (inLine l)) c l none)) ∧
  (NoUnderrun s [nx a] → ∀ e t, lineOf s c j .load (reads s a) = .error (.faultIn e t) → RaisesAfter s (.cflush stl a) .load (reads s a) t) ∧
  (NoUnderrun s [nx a] → sMode s = true → line .store none → Completes s (.cinv stl a) stl s) ∧
  (NoUnderrun s [nx a] → sMode s = true → Unheld s → ∀ l, line .store (some l) →
    Completes s (.cinv stl a) stl (modCore (settle (walkedBy s .store (reads s a)) c j (inLine l)) c fun k => dropLine k l)) ∧
  (NoUnderrun s [nx a] → sMode s = true → ∀ e t, lineOf s c j .store (reads s a) = .error (.faultIn e t) →
    RaisesAfter s (.cinv stl a) .store (reads s a) t) ∧
  (Unheld s → Completes s (.ifence stl) stl
    (modCore (writeBackAll (drainAll s c j) c none) c fun k => { k with icache := [], fetchPoison := [] })) ∧
  (NoUnderrun s [nx a, nx b] → sMode s = true → (∀ q i, buffersHeld s q i = false) → PutsArrived s →
    let va := reads s a
    let mode := (reads s b).toNat / 2 ^ 9 % 4
    let asid : BitVec 9 := BitVec.ofNat 9 (reads s b).toNat
    let ds := partDies s (coreDie c)
    (pinned s ds mode asid va = true → exec (.tlbinv stl a b) s = .next s) ∧
    (pinned s ds mode asid va = false → ∃ e, Completes s (.tlbinv stl a b) stl e ∧
      (mode = 3 → ∀ d, (dieAt e d).tlb = (dieAt s d).tlb) ∧
      (mode < 3 → ∀ d ∈ ds, ∀ x ∈ (dieAt e d).tlb, mode ≠ 2 ∧
        ¬((x.asid = asid ∨ (x.entry.getLsbD 1 = true ∧ x.entry.getLsbD 6 = true)) ∧
          (mode = 1 ∨ (x.vbase ≤ va.toNat % 2 ^ 56 ∧ va.toNat % 2 ^ 56 < x.vbase + x.size)))) ∧
      (mode < 3 → ∀ q ∈ partCores s (coreDie c), (coreAt e q).l1 = [])))

/-- R157 and R158 (Table 7.3): every atomic, at both widths, in every ordering, near and far: the value computed from the old one and x[b]
is written, the old one is delivered; a late load of its bytes comes before it (log 4). AMOCAS writes x[b] only where the old value equals
x[d]. R89 and R93: an atomic performed at the home of a line that no L1 holds and nobody owns: it reads the home bytes, writes what
its function gives, whole, in its own step, and no other home byte changes; one that writes nothing changes no home byte. The same
at an array: it reads and writes the bytes of the window's owner, and no other byte of an array or home. -/
def Obligations.AtomicsAndHome : Prop := Atomics ∧ AtomicAtHome

/-- R26 and R34: ARRIVE in U mode takes a credit, where one is held, and does nothing else (it stands for the arrival of the region
again, Table 1.7); else it waits while its core's arrival stands;
else it releases at the channel's scope, takes its vote from x[a][0] and counts one arrival of the region. On a channel whose group is
the core alone (R25) that completes the generation: READY is set and both results are the vote; on another channel ARR is set and
READY cleared (a group's generation completes in an event of its own, log 24). R26: WAITB waits while the channel's arrival is not answered; then it delivers OR and AND, in bits 1 and 0, acquires at the
channel's scope, and clears READY. R26: WANY with an empty mask delivers 2^63; else it waits for a ready channel of the mask and takes the first in the order from
START, delivers its number, AND and OR, clears its READY and moves START behind it. -/
def Obligations.ClusterBarriers : Prop := BarrierArrival ∧ BarrierWait ∧ BarrierAny

/-- R24 and R34: PHASE, in ctx0: in U mode a credit is taken, where one is held, and nothing else (it stands for the advance of the
region again); else with every gate open the count advances by one, and a closed gate makes it wait. An advance of S mode is none of
the region (R261). R29 and R161: QWAIT waits until two successive waves have seen the same total, sent and received alike, and delivers it, having
acquired; a wave tells every context of the team that waits there. That a wave reads all cores of the team at one instant is deduced,
and unsafe (log 60). SLEEP waits x[a][31:0] nanoseconds or for a wake event, and not
at all for 0. -/
def Obligations.PhaseAndQuiescence : Prop := PhaseAdvance ∧ QuiescenceAndSleep

/-- R177 (Table 8.1): the element operations on floats, .f32 and .bf16, by RNE, and on integers of every width, modulo 2^w; VFMA
also takes its accumulator from its destination. -/
def Obligations.VectorElements : Prop := ∀ (s : State) (stl : Stl) (t : VType) (d a b : Reg) (m : MReg),
  let w := widthOf t
  let fmt := if t = .bf16 then fmtBf16 else fmtF32
  let o : VOps := ⟨[a, b], some d, false⟩
  let u : VOps := ⟨[a, b], some d, true⟩
  let x (o : VOps) (k : Nat) : Nat := lane w (vin s o a) k
  let y (o : VOps) (k : Nat) : Nat := lane w (vin s o b) k
  let z (k : Nat) : Nat := lane w (vbefore s u) k
  let F (n : Nat) : Fl := unpackFl fmt n
  let I (n : Nat) : Int := asInt w n
  let isInt := t ≠ .f32 ∧ t ≠ .bf16
  let does (i : Instr) (o : VOps) (float : Nat → Option FRes) (int : Nat → Int) : Prop :=
    (isInt → Lanewise s i stl w [nm m] o m 4 fun k => ofInt' (int k)) ∧
    (¬isInt → (∀ k, float k ≠ none) → Lanewise s i stl w [nm m] o m 4 fun k => ofFloat ((float k).getD ⟨0, 0#5, false⟩))
  does (.vadd stl t d a b m) o (fun k => some (addFl fmt .rne (F (x o k)) (F (y o k)))) (fun k => x o k + y o k) ∧
  does (.vsub stl t d a b m) o (fun k => some (subFl fmt .rne (F (x o k)) (F (y o k)))) (fun k => x o k - y o k) ∧
  does (.vmul stl t d a b m) o (fun k => some (mulFl fmt .rne (F (x o k)) (F (y o k)))) (fun k => x o k * y o k) ∧
  does (.vfma stl t d a b m) u (fun k => some (fmaFl fmt (F (x u k)) (F (y u k)) (F (z k)))) (fun k => z k + x u k * y u k) ∧
  does (.vmin stl t d a b m) o (fun k => some (minMaxFl fmt false (x o k) (y o k))) (fun k => min (I (x o k)) (I (y o k))) ∧
  does (.vmax stl t d a b m) o (fun k => some (minMaxFl fmt true (x o k) (y o k))) (fun k => max (I (x o k)) (I (y o k))) ∧
  does (.vaddSs stl t d a b m) o (fun _ => none) (fun k => clamp w (I (x o k) + I (y o k))) ∧
  does (.vsubSs stl t d a b m) o (fun _ => none) (fun k => clamp w (I (x o k) - I (y o k))) ∧
  does (.vand stl t d a b m) o (fun _ => none) (fun k => ((x o k &&& y o k : Nat) : Int)) ∧
  does (.vor stl t d a b m) o (fun _ => none) (fun k => ((x o k ||| y o k : Nat) : Int)) ∧
  does (.vxor stl t d a b m) o (fun _ => none) (fun k => ((x o k ^^^ y o k : Nat) : Int)) ∧
  does (.vshl stl t d a b m) o (fun _ => none) (fun k => x o k * 2 ^ (y o k % w)) ∧
  does (.vshr stl t d a b m) o (fun _ => none) (fun k => x o k / 2 ^ (y o k % w)) ∧
  does (.vsra stl t d a b m) o (fun _ => none) (fun k => I (x o k) / 2 ^ (y o k % w))

/-- R77 and R178: reductions into element 0. Float elements are widened to FP32 and combined by the pairwise tree, with the neutral
value at inactive elements; integers are exact, the sum wrapping at 32 bits. R179 and R180 (Table 8.2, Table 3.8): conversions between element types, with the rounding mode of the form and saturation where the
table says so, and the transcendentals, element by element. NX and UF of the transcendentals are deduced (log 54). -/
def Obligations.VectorReductionsAndConversions : Prop := VectorReductions ∧ VectorConversions

/-- R181 and R182: comparisons into a mask register and the mask instructions; m0 reads all ones and is never written (R174). R183 (Table 8.3): the lane moves, at every width. VSEL takes each element of 32 bits by its mask bit; VBCAST, VMOV, VPERM and
VSLIDE write active elements; VEXT delivers one element, zero-extended. -/
def Obligations.VectorMasksAndMoves : Prop := VectorMasks ∧ VectorMoves

/-- R184–R186: vector loads and stores: 64 bytes at x[a] + SEXT(off) × 64, strided and indexed elements in ascending order. A store
that faults at an element leaves the elements before it stored; a load that faults at an element writes no register, and no stream
steps. Loads into a register may be performed later (R84; log 4). R20, R60, R119 and R189: what a vector result does. Into a register it changes that register alone; into a bound stream it enters the
store buffer as 64 bytes at the stream's place, with the translation of an address stream (R298), after late loads of its context that
read one of them (log 4), and no vector register changes otherwise; a vector instruction in a charm raises Context Class. -/
def Obligations.VectorMemoryAndResults : Prop := VectorMemory ∧ VectorResults

/-- R211: RBIND. A count of 0 unbinds; other operands bind a ring with every slot free; operands that break a rule, and a ring that
a stream, a held slot or an accepted engine job uses, raise Ring Misuse. No other ring changes. -/
def Obligations.RingBinding : Prop := ∀ (s : State) (stl : Stl) (ring : BitVec 3) (a b c : Reg), NoUnderrun s [nx a, nx b, nx c] →
  let i := Instr.rbind stl ring a b c
  let old := ringAt s s.cur.1 ring
  let n := (reads s c).toNat % 2 ^ 16
  let slot := (reads s b).toNat % 2 ^ 32
  let quiet := old.strm = false ∧ old.held = false ∧ ringBusy s s.cur.1 ring = false
  let becomes (r : Ring) : Prop := Completes s i stl (modRing s s.cur.1 ring fun _ => r)
  let none' : Ring := ⟨false, 0, 0, 0, false, 0, 0, 0, 0, false, false, 0, none, none⟩
  (n = 0 → quiet → becomes none') ∧
  (∀ off, n ≠ 0 → Bindable s (reads s a) (reads s b) (reads s c) off → quiet →
    becomes { none' with bound := true, base := off, slot := slot, count := n, side := (reads s c).getLsbD 16, free := n }) ∧
  (¬quiet ∨ (n ≠ 0 ∧ ∀ off, ¬Bindable s (reads s a) (reads s b) (reads s c) off) → Raises s i (wordFault .ringMisuse i)) ∧
  (∀ r r' f, r' ≠ r → ringAt (modRing s s.cur.1 r f) s.cur.1 r' = ringAt s s.cur.1 r')

/-- R212: RACQ waits for a slot on the core's side, takes it, having acquired, and delivers its SELF address; the context that holds
the slot since its RSTART gets it again; no count or index changes. R212 (Table 9.6): RREL gives the held slot back at .cl, delivers its index, moves HEAD or TAIL on and the counts with it, and
ends discardability; RSTAT delivers the ring's word. -/
def Obligations.RingAcquireAndRelease : Prop := RingAcquire ∧ RingRelease

/-- R187 and R188: SBIND binds v28–v31 to a ring or an address stream at position 0, with no direction yet, and zeroes the register;
the old binding goes first, as by SUNBIND. The binding remembers the region in which it was made, so that a discard tells it from an
older one (R190). Both are for ctx0. R188: what unbinding does: an address stream goes, with its register zeroed, and no older result of that register is outstanding any
more (R120); a ring slot that is untouched is handed back with no count changed; a partly used one is released as it stands, on the
side that it was taken for. R189 and R190: what one pop, push or update does to its binding: its direction is fixed and its position advances by one; on a
ring the offset moves 64 bytes on within the slot, and at the slot's end the slot goes back and discardability ends. An access whose
binding holds no slot of its side waits until one is available. SIDE is not checked: deduced (log 61). -/
def Obligations.Streams : Prop := StreamBinding ∧ StreamUnbinding ∧ StreamSteps

/-- R192: the lease. MLEASE waits for it, in ctx0, and sets its count once it is held and unused; MREL ends it; a grant passes a free
lease to the waiting core that follows the last holder in the rotation. The grant is an event of its own: deduced (log 68). R193 and R197–R199: MSWAP exchanges the banks of every engine it applies to once their queues are empty; MGANG joins when all four
engines have joined, and leaves by a command, which notes the gang's commands accepted before it; MWAIT waits for a job number; MRD reads
sixteen words of the visible bank; all are for ctx0 alone (R20). A join by a member completes as a command without effect, and so does a
leave outside a gang: the model's choice (log 104). That a join waits for the engine's own queue to be empty is the model's choice (log
96). -/
def Obligations.MatrixLeaseAndImmediate : Prop := MatrixLease ∧ MatrixImmediate

/-- R193–R198: the matrix commands, each accepted under the lease, with its own checks: MSHAPE's bands, the rows of a product, the
address and the row of a row store. In a charm each raises Context Class (R20). -/
def Obligations.MatrixCommands : Prop := ∀ (s : State) (stl : Stl) (i8 acc : Bool) (d : Reg) (ring : BitVec 3) (a b c : Reg) (n : BitVec 5),
  let row := (reads s b).toNat
  let m := (reads s c).toNat
  let inBank := 1 ≤ m ∧ m ≤ 512 ∧ row + m ≤ 512
  let ea := reads s a
  let st := Instr.mst stl d a b
  (1 ≤ n.toNat → n.toNat ≤ 4 → Commands s (.mshape stl n) stl [] lead none 0#5 (.shape n.toNat)) ∧
  ((n = 0#5 ∨ 4 < n.toNat) → Raises s (.mshape stl n) (wordFault .illegal (.mshape stl n))) ∧
  Commands s (.mzacc stl) stl [] lead none 0#5 .zacc ∧
  Commands s (.mldw stl i8 d ring) stl [] (fun _ => True) (some ring) d (.ldw i8 ring) ∧
  (inBank → Commands s (.mmul stl acc d ring b c) stl [nx b, nx c] lead (some ring) d (.mul false acc ring row m)) ∧
  (inBank → Commands s (.mmult stl acc d ring b c) stl [nx b, nx c] (· = none) (some ring) d (.mul true acc ring row m)) ∧
  (¬inBank → s.cur.2 = 0 → NoUnderrun s [nx b, nx c] →
    Raises s (.mmul stl acc d ring b c) ⟨.access, 0#8, false, false, reads s b⟩ ∧
    Raises s (.mmult stl acc d ring b c) ⟨.access, 0#8, false, false, reads s b⟩) ∧
  (ea.toNat % 64 = 0 → row < 512 → (region ea ≠ 0 → ∀ t, place s (whoOf s s.cur.1 s.cur.2) .store ea 512 64 ≠ .fault t) →
    Commands s st stl [nx a, nx b] (fun _ => True) none d (.st ea row 0)) ∧
  (ea.toNat % 64 ≠ 0 → s.cur.2 = 0 → NoUnderrun s [nx a, nx b] → Raises s st ⟨.misaligned, 0#8, false, false, ea⟩) ∧
  (ea.toNat % 64 = 0 → s.cur.2 = 0 → NoUnderrun s [nx a, nx b] →
    (∀ t, region ea ≠ 0 → place s (whoOf s s.cur.1 s.cur.2) .store ea 512 64 = .fault t → Raises s st t) ∧
    (512 ≤ row → (region ea ≠ 0 → ∀ t, place s (whoOf s s.cur.1 s.cur.2) .store ea 512 64 ≠ .fault t) →
      Raises s st ⟨.access, 0#8, false, false, reads s b⟩)) ∧
  (1 ≤ n.toNat → n.toNat ≤ 4 → Ctx0Only s (.mshape stl n)) ∧ Ctx0Only s (.mzacc stl) ∧ Ctx0Only s (.mldw stl i8 d ring) ∧
  (NoUnderrun s [nx b, nx c] → Ctx0Only s (.mmul stl acc d ring b c) ∧ Ctx0Only s (.mmult stl acc d ring b c)) ∧
  (NoUnderrun s [nx a, nx b] → Ctx0Only s st)

/-- R78, R194–R196: what the engine makes of a product whose stream it has read: INT8 sums wrap at 32 bits, BF16 sums are the fused chain;
the forward product runs over K = 32 × bands rows of the weights into 128 words, the backward one over 128 words into K; the form with
accumulation adds to the working bank, the other overwrites. Nothing else of the bank changes: no row outside the product's, and no word
from K on of a row that a backward product writes. In a gang K and FMT are those of strip 0: the model's choice (log 66). R92, R193–R199, R284 and R330: the engine completes its head command, in order: MSHAPE, MZACC, MLDW and the products when their
streams have been read, no band wakes and nothing they read is poisoned; CSEQ passes it. A beat of an MST, the acquire of its kick
made, stores sixteen words of its row, at once or after a while in the engine's store buffer (log 4); a gang dissolves once the
commands accepted before its MGANG have completed. In a gang a command that all four engines carry out waits for the commands of
every member accepted before it, and a member's own command for those accepted before it at strip 0. -/
def Obligations.MatrixEngine : Prop := MatrixProducts ∧ MatrixEngineSteps

/-- R201–R203 and R67: submission. CPY carries destination, source and a 40-bit count; the descriptor forms carry the descriptor's
address, which must be aligned to 64; CENC.sr reads ROWS and RLEN at issue and advances SRCTR by their product. A full unit makes
the instruction wait, in every form. R209 and R210: CSEAL closes the open batch, and waits while 256 batches are unfinished; CWAIT n waits until at most n are, and
acquires; CSTAGE submits what the schedule has due at the core's stage and moves to the next. What is due is free: the spec gives
no layout (log 22). R92, R161, R201, R202 and R213: the copy unit starts a CPY, and each of its beats stores the bytes it has read from the source at the
same distance from the destination, up to the end of the 64-byte group, at once or after a while in the unit's store buffer (log 4), and
moves the job on; no beat of a job reads before its previous beat's write has been performed; with the last beat every write of the unit
has been performed, the job ends and its core's sleepers wake. A ring slot taken for a job is marked as its own, and what the core's last
release of a slot covers has been written back. A beat is as large as it can be: deduced (log 69). -/
def Obligations.CopyQueue : Prop := CopySubmission ∧ CopyBatches ∧ CopySteps

/-- R165: MOPEN reads the object at the window's home and answers 3 for a window that is open, 2 for an object that breaks a rule, 1 where
staging is short; otherwise it opens the window in its first generation's OPEN state, with the object's fields, as the context that issued
it (log 98), and answers 0. The unit acquires as a hart of its own die (R82). R90, R166 and R169–R171: MPUT, whose source passes the checks as one load and is read as plain loads of its elements (log 70), sends
them to the unit, after every fence that orders an access after it (log 94), and is done; MWAIT waits until the generation it found has
ended, at the latest with the window's launch, and reads the object's first words, acquiring; MSTAT delivers the counters; MZERO, as it
first issues, writes +0 to the first element of the total, pinning the window's translation (R298), and answers the new generation where
that is the only one; or all ones where no window is open; it waits for a commit or another MZERO in progress. An element that cannot be
reached stays as it is (log 23). MSTAT waits for no travelling put: deduced (log 71). R33, R170, R266 and R298: an MZERO at its unit: each issue writes +0 to one more element of the total, with no further translation
of the window's address, whose translation it has pinned; the last leaves the window in its next generation and answers its number. A
context within it is not at a boundary: no stop, trap or interrupt finds it there, for an MZERO is none of the waiting instructions of
R33 and R266. The unit acts as the context that opened the window and leaves an element that it cannot reach: the model's choices
(logs 23, 98). -/
def Obligations.MergeOpenAndInstructions : Prop := MergeOpen ∧ MergeInstructions ∧ ZeroProgress

/-- R163 and R167: MCLASP, and a clasp at its unit: 3 with no window, 1 and LATE for another generation, 2 and REJ for a contributor
that is out of range or has clasped, or a reserved bit; otherwise the group is bounded by LIM, element by element with one
rounding, the contributor has clasped, and the last clasp starts the commit. R166, R168 and R170: a put at its unit adds its elements into its contributor's group, or counts as LATE or REJ; a step of a commit
adds every contributor into the next element of the total, one rounding each, in order, and writes it; the step after the last
element, when every write of the commit has been performed, leaves the window COMMITTED; a unit zeroes the total of a window that is not
in the middle of a commit or of another MZERO, and does nothing while an element is held. The unit acts as the context that opened the
window, and leaves elements of the total that cannot be zeroed: the model's choices (logs 23, 98). -/
def Obligations.MergeUnit : Prop := MergeClasp ∧ MergeUnitSteps

/-- R236, R238 and R240 (Table 10.9): every bus operation, in every width and form: submission as a job of the port that KCFG names. R238 and R239: KWAIT waits for an outstanding job, acquires and delivers the word of one that has ended, and delivers 0 for a
ticket that names no job; KSTAT delivers its counters at once. A number that has not been given yet is waited for; once the numbers
have passed 2^32, one less than 2^31 ahead counts as such, and KSTAT delivers 0 for a ticket that names no job: the model's choices
(logs 108, 116). -/
def Obligations.BusInstructions : Prop := BusSubmission ∧ BusTickets

/-- R224–R226: the bus sums. When every writer lights its bead, the counts at the positions of the planes make, for each element, the
exact sum of the writers' signed patterns, whatever their number; and the guard of that bead passes. R229: a verdict is accepted exactly where three of its four symbols agree; a symbol with a count above 1 is unreadable. R219–R222, R236, R237 and R242: a port starts the next of its jobs, an older job of another circle that has to wait notwithstanding:
ABORT with reason 1 for a configuration that is not valid, OK at once for no elements, else the next operation number of its circle,
which counts from 0, with the windows, where the circle takes a new configuration. A window of a circle in which the port takes part
passes only in the circle's own frames; it moves the circle on by one window and by the window's positions. With no unit to send it
lights HOLD; that it does so also while all units await their verdicts is deduced, and unsafe (log 90). A writer that leaves is
remembered. What is left of an operation whose writer has left is deduced (log 74). An event that cannot arise leaves the state as it is:
the model's choice (log 3). -/
def Obligations.BusEngine : Prop := BusSums ∧ BusVerdicts ∧ BusSteps

/-- R16, R19, R20, R120, R144, R145 and R265: SPAWN checks its target, then that it is ctx0; it is a release at .core of ctx0's accesses
(R94); a live charm answers 1; any other starts with ctx0's registers in the first block at T, in U mode, and answers 0; under SCHK = 1 a
register that it copies early is a Stall Underrun. A header word that cannot be fetched is none: the model's choice (log 91). HJOIN waits
for the charm and delivers its exit value; HSTAT delivers the mask of live charms. HEXIT records a charm's exit value and ends it, a
release at .core too (R19); in ctx0 it waits for the charms and the core's jobs, then finishes the core and enters its value into the
launch. SSCRATCH of the charm and registers in flight are deduced (log 55). -/
def Obligations.CharmInstructions : Prop := ∀ (s : State) (stl : Stl) (d a : Reg) (n : BitVec 5) (off : BitVec 12),
  1 ≤ n.toNat → n.toNat ≤ 10 →
  let c := s.cur.1
  let t := curCtx s
  let j : CtxId := Fin.ofNat 11 n.toNat
  let ch := ctxAt s c j
  let T := targetAt s off.toInt
  let spawn := Instr.spawn stl d n off
  let copied := (List.range 31).map (· + 1)
  let ready := s.cur.2 = 0 → ch.run = .off → NoUnderrun s copied
  (s.cur.2 = 0 → ch.run = .off → stSchk t = true → ∀ r, earlyRead t copied = some r →
    Raises s spawn ⟨.stallUnderrun, 0#8, false, false, BitVec.ofNat 64 r⟩) ∧
  (ready → header s T = false → Raises s spawn ⟨.branchTarget, 0#8, false, false, T⟩) ∧
  (header s T = true → Ctx0Only s spawn) ∧
  (header s T = true → s.cur.2 = 0 → ch.run ≠ .off → Unheld s → PutsArrived s →
    let e := (releaseStamp s c s.cur.2 .core).1
    Completes s spawn stl (onCtx e fun t => putX (endsDiscard t) d 1#64) ∧ (curCtx e).sbuf = [] ∧
      (coreAt s c).stamp < (coreAt e c).stamp) ∧
  (ready → header s T = true → s.cur.2 = 0 → ch.run = .off → Unheld s → PutsArrived s →
    ∃ e, Completes s spawn stl (onCtx e fun t => putX t d 0#64) ∧ (curCtx e).x = t.x ∧ (curCtx e).sbuf = [] ∧
      (curCtx e).status = (endsDiscard t).status ∧ (coreAt s c).stamp < (coreAt e c).stamp ∧
      let u := ctxAt e c j
      u.run = .on ∧ (∀ i : Reg, xreg u i = reads s i) ∧ u.pc = ⟨T + 8#64, T⟩ ∧ u.rstart = T + 8#64 ∧ u.nul = 0#2 ∧ u.lc = 0#64 ∧
      u.lblk = 0#64 ∧ u.srkey = t.srkey ∧ u.srctr.toNat = n.toNat * 2 ^ 28 ∧ u.fflags = 0#5 ∧ u.cvtovf = false ∧ u.exitVal = 0#64 ∧
      u.tvec = t.tvec ∧ u.asid = t.asid ∧ u.root = t.root ∧
      u.status = BitVec.ofNat 64 (bitAt t.status 0 + 2 * bitAt t.status 1) ∧
      u.epc = 0#64 ∧ u.enpc = 0#64 ∧ u.ennpc = 0#64 ∧ u.enul = 0#2 ∧ u.ecause = 0#64 ∧ u.eval = 0#64 ∧
      u.sscratch = 0#64 ∧ u.elc = 0#64 ∧ u.elblk = 0#64 ∧ u.erst = 0#64) ∧
  Ctx0Only s (.hjoin stl d n) ∧
  (s.cur.2 = 0 → ch.run ≠ .off → Waits s (.hjoin stl d n)) ∧
  (s.cur.2 = 0 → ch.run = .off → Writes s (.hjoin stl d n) stl d ch.exitVal) ∧
  (∀ v : Word, (∀ i, v.getLsbD i = true ↔ ∃ j : CtxId, 0 < j.val ∧ j.val = i ∧ (ctxAt s c j).run ≠ .off) →
    Writes s (.hstat stl d) stl d v) ∧
  (NoUnderrun s [nx a] → s.cur.2 ≠ 0 → Unheld s → PutsArrived s → ∃ u, exec (.hexit stl a) s = .next u ∧
    (curCtx u).run = .off ∧ (curCtx u).exitVal = reads s a ∧ (curCtx u).sbuf = [] ∧ (coreAt s c).stamp < (coreAt u c).stamp ∧ FilesKept s u) ∧
  (NoUnderrun s [nx a] → s.cur.2 = 0 → (charmLives s c ∨ jobsOutstanding s c = true) → Waits s (.hexit stl a)) ∧
  (NoUnderrun s [nx a] → s.cur.2 = 0 → Unheld s → PutsArrived s → ¬charmLives s c → jobsOutstanding s c = false →
    ∃ u, exec (.hexit stl a) s = .next u ∧ (curCtx u).run = .off ∧ (coreAt u c).finished = true ∧ FilesKept s u ∧
      ∀ b, (coreAt s c).team = some b → ∀ l ∈ s.hub.launches, l.lid = b.lid →
        ({ l with exitOr := l.exitOr ||| reads s a } : Launch) ∈ u.hub.launches)

/-- R115, R161, R263, R264, R266–R268, R357 and T21.5: what happens at a context's boundary. An annulled word moves the queue with no
effect; where no Trap is due, a breakpoint at PC raises Breakpoint, or halts a core with a debugger, and an interrupt of ctx0 is taken
in U mode, or in S mode with IE, when an enabled source is pending, the lowest source in SUB and IPEND in EVAL; a trap entry is R264's
in U mode, and for an Interrupt of ctx0 in S mode with IE = 1, and a double trap in S mode for anything else but a Power Stop, which
is held there (R326); WSTIME comes to TCMP; a sleep's time is up. An event that
cannot arise leaves the state as it is: the model's choice (log 3). R33, R313, R332, R336, R337, R352 and R358: a doorbell sets IPEND.DOOR of a bound core and is dropped at an unbound one; a stop
request reaches every core of the team; a halted core is told when it resumes. A discardable context stops at once, discarded, or as it
stands where its region has just begun, by a header that ended a non-discardable stretch (log 87); a non-discardable one stops where it
waits; one in S mode, or within an MZERO or a WFI, does not stop, nor any once the supply has failed. Loads that have issued are performed
before: the model's choice (log 4). A migration is asked for within a die, from a core that reads 95 °C or more to an unbound core that
reads 85 °C or less (readings in steps of 0.5 °C); from 105 °C on a core's clock is held down, and no longer from the first reading below:
the model's choice (log 75). An event that cannot arise leaves the state as it is: the model's choice (log 3). -/
def Obligations.BoundaryAndStopEvents : Prop := BoundaryEvents ∧ StopEvents

/-- R23, R44, R56, R147, R262 and R268: the writes of status, interrupt, synchronisation and loop registers as steps of their own, in
the modes that reach the register. A BMASKk with an arrival pending is not written. As events they do nothing in a mode that may
not: the model's choice (log 3). -/
def Obligations.SysregWriteEvents : Prop := ∀ (s : State) (v : Word) (k : BitVec 3), (curCtx s).run = .on →
  let wrote (n : Nat) : State := onCtx (modCore s s.cur.1 (sysregCore (sMode s) n v)) fun t => endsDiscard (sysregContext (sMode s) n v t)
  (sMode s = true → exec (.ipendWrite v) s = .next (wrote 0x804)) ∧
  (sMode s = false → exec (.ipendWrite v) s = .next s) ∧
  exec (.statusWrite v) s = .next (wrote 0x000) ∧
  exec (.allowWrite v) s = .next (wrote 0x021) ∧
  ((curCore s).arr.getLsbD k.toNat = false → exec (.bmaskWrite k v) s = .next (wrote (0x028 + k.toNat))) ∧
  ((curCore s).arr.getLsbD k.toNat = true → exec (.bmaskWrite k v) s = .next s) ∧
  exec (.peermaskWrite v) s = .next (wrote 0x030) ∧
  exec (.bwphaseWrite v) s = .next (wrote 0x031) ∧
  exec (.loopStateWrite false v) s = .next (onCtx s fun t => { endsDiscard t with lc := v }) ∧
  exec (.loopStateWrite true v) s = .next (onCtx s fun t => { endsDiscard t with lblk := bitsOf v 0 0 + bitsOf v 3 63 })

/-- R14, R18, R48, R279, R281, R288, R313, R317, R318, R332, R336, R337 and T21.8: binding, saving, moving and finishing a team. A write
of DISPATCH waits while the die is BUSY; then it is taken, and once every die on which the team has cores has been given the record (log
101), all the slots that name it are bound together, their banks ON or DARK by role, and their ctx0 started with the registers of Table
1.3, at ENTRY without its low three bits (log 113), or, where the record says RESTORE, their registers and grant banks loaded from the
team's save image (R281); a stopped team is saved, unbound and joins the pool; a stopped core moves to another physical core with its
registers and resumes there, and the two cores' slot entries are exchanged; a finished team is unbound and counted in its launch, which
ends OK with its last team, and the partition's management core is rung. Nothing is saved or moved once the supply has failed. The packing
of the image, the engine of a shared cluster and the record's place are the model's (logs 28, 31, 45). Accesses accepted before are
performed first (log 4). An event that cannot arise leaves the state as it is: the model's choice (log 3). R312 and R320: the scheduler places the first team of the pool for which a slot is free, in a slot free for it: the team leaves
the pool, its launch has begun, and a team of one core is bound on the core that presents the slot's logical core. No team is bound
while a die of the slot is busy with another dispatch (T21.8), nor before the record of an ended launch is written (R340). That core and
the place of the bind record are the model's choice, and an area without memory stops the machine (logs 31, 43, 84). An event that
cannot arise leaves the state as it is: the model's choice (log 3). -/
def Obligations.TeamsAndSchedule : Prop := TeamEvents ∧ ScheduleBind

/-- R26, R86, R87 and R295: the steps of the memory machine and of a barrier. A store buffer's entry drains unless an older one must go
first, a release, or a fence with R in its predecessor set, after the late loads of its context (R86, R90; log 4); the dirty bytes of an
L1 line go to their homes and are clean from then on, every other byte staying; a clean line leaves, and nothing else of the L1 with it; a
walk of a root that a PTBR of the address space holds may be made at any time, and the valid entries it reads cached, also of one that
fails further down; a channel's generation completes once its whole group has arrived, with the AND and OR of its votes. An event that
cannot arise leaves the state as it is: the model's choice (log 3). -/
def Obligations.MemoryEvents : Prop := ∀ (s : State) (c : CoreId) (j : CtxId) (i line : Nat) (d : DieId) (asid : BitVec 9)
    (root : BitVec 35) (va : Word) (k : BitVec 3),
  let sb := (ctxAt s c j).sbuf
  (∀ it, sb[i]? = some it →
    (mayDrain s c sb i it = true → exec (.storeDrain c j i) s =
      .next (drainItem (modCtx (if needsLoads it then performAll s c j else s) c j fun t => { t with sbuf := t.sbuf.eraseIdx i }) c it)) ∧
    (mayDrain s c sb i it = false → exec (.storeDrain c j i) s = .next s)) ∧
  (sb.length ≤ i → exec (.storeDrain c j i) s = .next s) ∧
  (∀ l, MapsInv s → l1Line (coreAt s c) line = some l → l.bytes.Pairwise (fun a b => a.1 < b.1) → (∀ e ∈ l.bytes, e.1 < 256) →
    ∃ u, exec (.lineWriteback c line) s = .next u ∧ FilesKept s u ∧
      (∀ o b, (o, b) ∈ l.bytes → b.dirty ≠ none → homeByte u (line * 256 + o) = b.val) ∧
      (∀ a, (∀ o b, (o, b) ∈ l.bytes → b.dirty ≠ none → a ≠ line * 256 + o) → homeByte u a = homeByte s a) ∧
      (∀ o b, l1Entry u c line o b ↔ ∃ b', (o, b') ∈ l.bytes ∧ b = { b' with dirty := none })) ∧
  (∀ l, l1Line (coreAt s c) line = some l → (∀ e ∈ l.bytes, e.2.dirty = none) →
    ∃ u, exec (.lineInvalidate c line) s = .next u ∧ FilesKept s u ∧ u.mem = s.mem ∧ l1Line (coreAt u c) line = none ∧
      ∀ n, n ≠ line → l1Line (coreAt u c) n = l1Line (coreAt s c) n) ∧
  (∀ l, l1Line (coreAt s c) line = some l → (∃ e ∈ l.bytes, e.2.dirty ≠ none) → exec (.lineInvalidate c line) s = .next s) ∧
  ((rootKnown s asid root = false ∨ lpddrEnd < root.toNat * 2 ^ 17 + 2 ^ 17) → exec (.pageWalk d asid root va) s = .next s) ∧
  (MapsInv s → rootKnown s asid root = true → root.toNat * 2 ^ 17 + 2 ^ 17 ≤ lpddrEnd → ∃ m w,
    exec (.pageWalk d asid root va) s = .next (modDie w d fun k => { k with tlb := m }) ∧ HomesKept s w ∧ FilesKept s w ∧
    (∀ e ∈ (dieAt s d).tlb, e ∈ m) ∧
    (∀ l ∈ walkTrail s va 4 0 (root.toNat * 2 ^ 17), ∃ e ∈ m, e.asid = asid ∧ e.level = l.level ∧ e.entry = l.entry) ∧
    ∀ e ∈ m, e ∈ (dieAt s d).tlb ∨ (e.asid = asid ∧ ∃ l ∈ walkTrail s va 4 0 (root.toNat * 2 ^ 17), e.level = l.level ∧ e.entry = l.entry)) ∧
  ((∀ m ∈ groupOf s c k, hasArrived (coreAt s m) k = true) → ∃ u, exec (.barrierGenerationComplete c k) s = .next u ∧ FilesKept s u ∧
    ∀ m ∈ groupOf s c k, (coreAt s m).dbg.halt = false →
      let q := coreAt u m
      chan q.arr k = 0 ∧ chan q.ready k = 1 ∧
      (chan q.resAnd k = 1 ↔ ∀ n ∈ groupOf s c k, chan (coreAt s n).vote k = 1) ∧
      (chan q.resOr k = 1 ↔ ∃ n ∈ groupOf s c k, chan (coreAt s n).vote k = 1)) ∧
  ((∃ m ∈ groupOf s c k, hasArrived (coreAt s m) k = false) → exec (.barrierGenerationComplete c k) s = .next s)

/-- R276, R277, R283–R286 and T15.7: an error is counted against its structure, counts saturating; an uncorrectable one poisons its
sector, row or line, wherever it lies: a home, an array, an L1 or the L2, the weights, an engine's weights or one of its banks, a merge
staging, a fetched line; one in a context's registers discards a discardable region in U mode, also of a context that has stopped at its
header, and elsewhere stops the context for good. The oldest fault record is posted at HEAD, field by field, and the management core rung,
when the ring has room; the service doorbell acts on the records as their RESP says, 1 to go on and 2 to end, and moves TAIL past those
acted on, in order; a job whose descriptor or mailbox could not be reached ends with that answer (CAUSE 3); FQCTL keeps a size in its
range or takes its default. That an error at a home counts as one of LPDDR is deduced (log 27), and a ring without memory stops the
machine (log 84). An event that cannot arise leaves the state as it is: the model's choice (log 3). -/
def Obligations.ErrorEvents : Prop := ∀ (s : State) (d : DieId) (c : CoreId) (j : CtxId) (k : Fin 7) (v : Word) (pa : Nat) (g : ClusterId),
  let gd := dieId (g.val / 32)
  let gc := coreDie c
  let up (n : Word32) : Word32 := BitVec.ofNat 32 (min (n.toNat + 1) (2 ^ 32 - 1))
  let e := dieAt s d
  let t := ctxAt s c j
  let at_ := e.fqbase.toNat + 32 * (e.fqhead.toNat % 2 ^ e.fqsz.toNat)
  exec (.correctedError d k) s =
    .next (modDie s d fun e => { e with errs := vPut e.errs k (up (e.errs.get k).1, (e.errs.get k).2) }) ∧
  (∃ u, exec (.uncorrectableError (.home pa)) s = .next u ∧ u.mem = s.mem ∧ FilesKept s u ∧ (∀ n, n ∈ u.poison ↔ n ∈ s.poison ∨ n = pa / 64) ∧
    (isLpddr pa = true → ((dieAt u (paDie s pa)).errs.get 6).2 = up ((dieAt s (paDie s pa)).errs.get 6).2)) ∧
  (∃ u, exec (.uncorrectableError (.array c pa)) s = .next u ∧ FilesKept s u ∧
    (∀ n, n ∈ (coreAt u c).arrayPoison ↔ n ∈ (coreAt s c).arrayPoison ∨ n = pa / 64) ∧
    ((dieAt u (coreDie c)).errs.get 1).2 = up ((dieAt s (coreDie c)).errs.get 1).2) ∧
  (∃ u, exec (.uncorrectableError (.l1 c pa)) s = .next u ∧ FilesKept s u ∧
    (l1Line (coreAt s c) (pa / 256) = none → u = s) ∧
    (l1Line (coreAt s c) (pa / 256) ≠ none →
      (∀ n, n ∈ (coreAt u c).l1Poison ↔ n ∈ (coreAt s c).l1Poison ∨ n = pa / 64) ∧
      ((dieAt u (coreDie c)).errs.get 1).2 = up ((dieAt s (coreDie c)).errs.get 1).2)) ∧
  (∃ u, exec (.uncorrectableError (.l2 pa)) s = .next u ∧ FilesKept s u ∧ u.mem = s.mem ∧ (isLpddr pa = false → u = s) ∧
    (isLpddr pa = true → (∀ n, n ∈ u.poison ↔ n ∈ s.poison ∨ n = pa / 64) ∧
      ((dieAt u (paDie s pa)).errs.get 2).2 = up ((dieAt s (paDie s pa)).errs.get 2).2)) ∧
  (∃ u, exec (.uncorrectableError (.engineWeights g pa)) s = .next u ∧ FilesKept s u ∧ (engineAt u g).w = (engineAt s g).w ∧
    (∀ n, n ∈ (engineAt u g).wPoison ↔ n ∈ (engineAt s g).wPoison ∨ n = pa) ∧ ((dieAt u gd).errs.get 4).2 = up ((dieAt s gd).errs.get 4).2) ∧
  (∃ u, exec (.uncorrectableError (.workingBank g pa)) s = .next u ∧ FilesKept s u ∧ (engineAt u g).wb = (engineAt s g).wb ∧
    (∀ n, n ∈ (engineAt u g).wbPoison ↔ n ∈ (engineAt s g).wbPoison ∨ n = pa) ∧ ((dieAt u gd).errs.get 4).2 = up ((dieAt s gd).errs.get 4).2) ∧
  (∃ u, exec (.uncorrectableError (.visibleBank g pa)) s = .next u ∧ FilesKept s u ∧ (engineAt u g).vb = (engineAt s g).vb ∧
    (∀ n, n ∈ (engineAt u g).vbPoison ↔ n ∈ (engineAt s g).vbPoison ∨ n = pa) ∧ ((dieAt u gd).errs.get 4).2 = up ((dieAt s gd).errs.get 4).2) ∧
  (∃ u, exec (.uncorrectableError (.bezel d pa at_)) s = .next u ∧ FilesKept s u ∧ ∀ w, winAt s d pa = some w →
    ∃ w', winAt u d pa = some w' ∧ w'.bezel = w.bezel ∧ (∀ n, n ∈ w'.bezelPoison ↔ n ∈ w.bezelPoison ∨ n = at_) ∧
      ((dieAt u d).errs.get 5).2 = up (e.errs.get 5).2) ∧
  (∃ u, exec (.uncorrectableError (.weight d pa)) s = .next u ∧ FilesKept s u ∧
    (∀ n, n ∈ (dieAt u d).weightPoison ↔ n ∈ (dieAt s d).weightPoison ∨ n = pa / 64) ∧ ((dieAt u d).errs.get 3).2 = up (e.errs.get 3).2) ∧
  (∃ u, exec (.uncorrectableError (.fetched c pa)) s = .next u ∧ FilesKept s u ∧
    ∀ n, n ∈ (coreAt u c).fetchPoison ↔ n ∈ (coreAt s c).fetchPoison ∨ n = pa / 64) ∧
  (t.run = .on → s.hub.stopped = false → t.status.getLsbD 2 = false → t.status.getLsbD 6 = false →
    ∃ u, exec (.registerUncorrectable c j) s = .next u ∧
    (ctxAt u c j).run = .on ∧ Discarded (ctxAt (performAll (registerCounted s c j) c j) c j) (ctxAt u c j) ∧ ((dieAt u (coreDie c)).errs.get 0).2 = up ((dieAt s (coreDie c)).errs.get 0).2) ∧
  (t.run = .atHeader → s.hub.stopped = false → ∃ u, exec (.registerUncorrectable c j) s = .next u ∧
    (ctxAt u c j).run = .discarded ∧ (ctxAt u c j).trapDue = t.trapDue ∧
    Discarded (ctxAt (performAll (countUncorrectable s gc 0) c j) c j) (ctxAt u c j) ∧
    ((dieAt u gc).errs.get 0).2 = up ((dieAt s gc).errs.get 0).2) ∧
  ((t.run = .atWait ∨ (t.run = .on ∧ s.hub.stopped = false ∧ (t.status.getLsbD 2 = true ∨ t.status.getLsbD 6 = true))) → ∃ u r, exec (.registerUncorrectable c j) s = .next u ∧
    (ctxAt u c j).run = .dead ∧ (dieAt u (coreDie c)).faults = (dieAt s (coreDie c)).faults ++ [r] ∧ r.kind = 7#3 ∧ r.cause = 5#4 ∧
    r.seq = BitVec.ofNat 32 t.ecause.toNat) ∧
  ((t.run = .off ∨ t.run = .dead ∨ t.run = .discarded ∨ ((t.run = .on ∨ t.run = .atHeader) ∧ s.hub.stopped = true)) →
    exec (.registerUncorrectable c j) s = .next (countUncorrectable s (coreDie c) 0)) ∧
  (e.faults = [] → exec (.faultRecordPost d) s = .next s) ∧
  (∀ r rs, e.faults = r :: rs → 2 ^ e.fqsz.toNat ≤ e.posted.length → exec (.faultRecordPost d) s = .next s) ∧
  (∀ r rs, e.faults = r :: rs → e.posted.length < 2 ^ e.fqsz.toNat →
    (¬(backed s at_ = true ∧ backed s (at_ + 31) = true) → exec (.faultRecordPost d) s = .fault (.unbacked at_)) ∧
    (backed s at_ = true → backed s (at_ + 31) = true → MapsInv s → ∃ u, exec (.faultRecordPost d) s = .next u ∧ FilesKept s u ∧
      (dieAt u d).faults = rs ∧ (dieAt u d).fqhead = e.fqhead + 1#16 ∧ (dieAt u d).mgmtDoor = true ∧
      homeNat u at_ 8 = r.va.toNat ∧
      homeNat u (at_ + 8) 4 = r.kind.toNat + 2 ^ 4 * r.cause.toNat + 2 ^ 8 * r.asid.toNat + 2 ^ 17 * r.lc.toNat ∧
      homeNat u (at_ + 12) 4 = r.seq.toNat ∧ homeNat u (at_ + 16) 8 = r.unit.toNat ∧ homeNat u (at_ + 24) 8 = 0)) ∧
  (∃ u, exec (.fqdoorRing d) s = .next u ∧ (dieAt u d).fqdoor = false ∧
    (dieAt u d).fqtail = e.fqtail + BitVec.ofNat 16 (e.posted.length - (dieAt u d).posted.length) ∧
    (dieAt u d).posted.length ≤ e.posted.length ∧
    ∀ x, (dieAt u d).posted.head? = some x → x.2.2 = false) ∧
  (∀ i r, e.posted = [(i, r, false)] → let at' := e.fqbase.toNat + 32 * (i % 2 ^ e.fqsz.toNat) + 24
    (∀ o ∈ s.owner, o.1 ≠ at' / 256) → (∀ o ∈ s.lrr, o.1 ≠ at' / 256) → ∃ u, exec (.fqdoorRing d) s = .next u ∧
    let resp := homeNat s at' 1 % 4
    let acts := resp = 2 ∨ (resp = 1 ∧ r.cause.toNat < 3 ∧ r.kind ≠ 4#3)
    (acts → (dieAt u d).posted = [] ∧ ((r.cause = 1#4 ∨ r.cause = 2#4 ∨ r.cause = 4#4) → Answered s u d r (resp = 1)) ∧
      (r.cause = 3#4 → r.kind = 0#3 → let g' := unitCluster s d r
        ∀ b, (clusterAt s g').jobs.find? (·.seq == r.seq) = some b → b.suspended = true →
          (clusterAt u g').jobs.find? (·.seq == r.seq) = none)) ∧
    (¬acts → (dieAt u d).posted = e.posted ∧ u.clusters = s.clusters ∧ u.ports = s.ports ∧ (dieAt u d).wins = e.wins)) ∧
  exec (.fqctlWrite d v) s = .next (modDie s d fun e => { e with fqsz := BitVec.ofNat 5 (ranged 4 16 8 (fieldOf v 0 5)) })

/-- R51, R54–R56, R59 and T2.8: a bank moves deeper only as far as Table 2.8 permits under the governing phase and after its idle time,
and wakes to a shallower state, but for an array bank of neither role, or of a gated cluster, which stays DARK; a cluster with no team, no
valid line and no phase but QUIET (log 65) is gated once what its windows have accepted is performed, its banks DARK and empty; the
refresh window that opens next is the next multiple of 500 ns. An event that cannot arise leaves the state as it is: the model's choice
(log 3). -/
def Obligations.BankEvents : Prop := ∀ (s : State) (b : BankRef) (st : BitVec 2) (c : CoreId) (d : DieId) (n : Nat) (g : ClusterId),
  let k := coreAt s c
  let e := dieAt s d
  let ph := corePhase k
  let dph := diePhase s d
  (bankExists b = true → bankState s b < st → st.toNat ≤ deepest s b → bankUsed s b + idleTime (heldClock s b) st ≤ s.ns →
    ∃ u, exec (.bankIdleDeepen b st) s = .next u ∧ bankState u b = st ∧ FilesKept s u) ∧
  ((bankExists b = false ∨ ¬bankState s b < st ∨ deepest s b < st.toNat ∨ s.ns < bankUsed s b + idleTime (heldClock s b) st) →
    exec (.bankIdleDeepen b st) s = .next s) ∧
  ((clusterAt s (coreCluster c)).gated = false →
    (n < k.grant → deepest s (.array c n) = byPhase 2 1 1 0 ph) ∧
    (k.grant ≤ n → 40 - k.l1k ≤ n → bankHasLine k n → deepest s (.array c n) = byPhase 2 1 1 0 ph) ∧
    (k.grant ≤ n → 40 - k.l1k ≤ n → ¬bankHasLine k n → deepest s (.array c n) = byPhase 3 2 1 0 ph)) ∧
  (alwaysDark s (.array c n) → deepest s (.array c n) = 3) ∧
  deepest s (.l2 d n) = (if n < e.l2Floor then byPhase 1 1 0 0 dph else byPhase 3 2 1 0 dph) ∧
  deepest s (.weight d n) = (if e.marks.getLsbD n then byPhase 2 1 0 0 dph else byPhase 3 3 3 2 dph) ∧
  deepest s (.rank d n) = (if e.rankuse.getLsbD n then byPhase 2 1 0 0 dph else byPhase 3 3 2 2 dph) ∧
  ((bankExists b = false ∨ alwaysDark s b ∨ ¬st < bankState s b) → exec (.bankWake b st) s = .next s) ∧
  (bankExists b = true → ¬alwaysDark s b → st < bankState s b → ∃ u, exec (.bankWake b st) s = .next u ∧ bankState u b = st ∧ FilesKept s u ∧
    u.mem = s.mem) ∧
  (let bare (m : CoreId) : Prop := (coreAt s m).team = none ∧ corePhase (coreAt s m) = 0#2 ∧ ∀ l ∈ (coreAt s m).l1, l.bytes = []
   ((∀ m, coreCluster m = g → bare m) →
     (∀ x i, ∀ it ∈ (ctxAt s x i).sbuf, ∀ m o bs r sc n ep pin, coreCluster m = g → it ≠ .store (.array m o) bs r sc n ep pin) →
     ∃ u, exec (.clusterGate g) s = .next u ∧ (clusterAt u g).gated = true ∧ FilesKept (settleAccesses s) u ∧
     ∀ m, coreCluster m = g → (coreAt u m).power = BitVec.allOnes 80 ∧ (coreAt u m).array = [] ∧ (coreAt u m).l1 = []) ∧
   ((∃ m, coreCluster m = g ∧ ¬bare m) → exec (.clusterGate g) s = .next s)) ∧
  (∃ u, exec .refreshWindow s = .next u ∧ u.ns = (s.ns / 500 + 1) * 500 ∧ u.cores = s.cores ∧ u.mem = s.mem)

/-- R326, R332, R336 and R353: a team that has drawn its allowance pauses until the next interval, wherever it is bound, or in a DET
launch is due a Power Stop; what cores and engines have drawn within an interval is free, and a team bound since it began has no allowance
in it (log 118); a supply loss stops every core, writes back every dirty byte if the hold-up lasts, so that its home holds it, and writes
the marker (log 37); a checkpoint starts once, with the next sequence number and every dirty byte brought home, and ends with DONE,
LPDDR's bytes copied to their image, and ERR where a write has failed or a port lacks persistent capacity; a die that reads 115 °C powers
off: it brings its dirty bytes home, loses the contents of its LPDDR, which read zero, stops its cores and ends its launches with
SUPERVISOR; one that starts again is as after reset. What a die's power-off and restart keep, and a failed checkpoint's image, are the
model's (logs 34, 35, 41). An event that cannot arise leaves the state as it is: the model's choice (log 3). -/
def Obligations.PowerEvents : Prop := ∀ (s : State) (c : CoreId) (d : DieId) (clean err : Bool),
  let m := Config.markerAddress
  (∀ b, (coreAt s c).team = some b → AllowanceDrawn s b → b.det = false → ∃ u, exec (.allowanceReached c) s = .next u ∧ FilesKept s u ∧
    (∀ x ∈ teamCores s c, (coreAt u x).paused = true) ∧
    ∀ m ∈ u.hub.meters, m.lid = b.lid → m.team = b.team → m.paused = true) ∧
  (∀ b, (coreAt s c).team = some b → ¬AllowanceDrawn s b → exec (.allowanceReached c) s = .next s) ∧
  (∀ b, (coreAt s c).team = some b → AllowanceDrawn s b → b.det = true → ∃ u, exec (.allowanceReached c) s = .next u ∧ FilesKept s u ∧
    ∀ x ∈ teamCores s c, ∀ j, (ctxAt s x j).run ≠ .off → (ctxAt u x j).powerStop = true) ∧
  ((coreAt s c).team = none → exec (.allowanceReached c) s = .next s) ∧
  (MapsInv s → ∃ u, exec (.supplyLossWarning clean) s = .next u ∧ packageRuns u = false ∧ FilesKept s u ∧
    homeNat u m 8 = s.ns % 2 ^ 64 ∧ homeNat u (m + 8) 4 = s.hub.ckptGood.toNat ∧ homeNat u (m + 12) 4 = clean.toNat ∧
    (clean = true → (∀ x, NoDirty u x) ∧ ∀ x a v, SoleDirty (flushHarts s) x a v → a < m ∨ m + 64 ≤ a → homeByte u a = v)) ∧
  (s.hub.ckptGo = true → exec .ckptGo s = .next s) ∧
  (s.hub.ckptGo = false → ∃ u, exec .ckptGo s = .next u ∧ u.hub.ckptGo = true ∧ u.hub.ckptSeq = s.hub.ckptSeq + 1#32 ∧
    packageRuns u = false ∧ FilesKept s u ∧ (∀ x, NoDirty u x) ∧
    (MapsInv s → ∀ x a v, SoleDirty (flushHarts s) x a v → homeByte u a = v)) ∧
  ((s.hub.ckptGo = false ∨ s.hub.stopped = true) → exec (.ckptDone err) s = .next s) ∧
  (s.hub.ckptGo = true → s.hub.stopped = false → MapsInv s → ∃ u, exec (.ckptDone err) s = .next u ∧ u.hub.ckptGo = false ∧
    u.hub.ckptDone = true ∧ FilesKept s u ∧
    ((err = true ∨ lacksCapacity s) → u.hub.ckptErr = true ∧ u.hub.ckptGood = s.hub.ckptGood) ∧
    (¬(err = true ∨ lacksCapacity s) → u.hub.ckptErr = s.hub.ckptErr ∧ u.hub.ckptGood = s.hub.ckptSeq) ∧
    (err = true → u.mem = s.mem) ∧ (∀ a, a < cxlBase → homeByte u a = homeByte s a) ∧
    (err = false → (∀ p : Fin 4, s.cxl.get p ≤ 2 ^ 48) → ∀ a, isLpddr a = true → portHolds s (a / 4096 % 4) = true →
      homeByte u (imagePa a) = homeByte s a)) ∧
  (TooHot s d → ∃ u, exec (.diePowerOff d) s = .next u ∧ (dieAt u d).powered = false ∧ FilesKept s u ∧
    (∀ x j, coreDie x = d → (coreAt s x).team ≠ none → (ctxAt u x j).run ≠ .on) ∧ (∀ x, coreDie x = d → NoDirty u x) ∧
    (MapsInv s → (∀ h, hartBuf s h = []) → ∀ x a v, coreDie x = d → SoleDirty s x a v → a < m ∨ m + 64 ≤ a → ¬lpddrOf s d a → homeByte u a = v) ∧
    (MapsInv s → ∀ a, lpddrOf s d a → a < m ∨ m + 64 ≤ a → homeByte u a = 0#8) ∧
    ∀ l ∈ s.hub.launches, (∃ x b, coreDie x = d ∧ (coreAt s x).team = some b ∧ b.lid = l.lid) → l.status = 0 → l.ending = 0 →
      ({ l with ending := 5 } : Launch) ∈ u.hub.launches) ∧
  (¬TooHot s d → exec (.diePowerOff d) s = .next s) ∧
  ((dieAt s d).powered = false → (∀ x, coreDie x = d → (coreAt s x).team = none) → ∃ u, exec (.dieStartsAgain d) s = .next u ∧
    (dieAt u d).powered = true ∧ (dieAt u d).weights = [] ∧ (dieAt u d).marks = 0#64 ∧ (dieAt u d).tlb = [] ∧
    (MapsInv s → ∀ a, (lpddrOf s d a → homeByte u a = 0#8) ∧ (¬lpddrOf s d a → homeByte u a = homeByte s a)) ∧ u.ns = s.ns ∧ ∀ x, coreAt u x = if coreDie x = d then .reset else coreAt s x) ∧
  ((dieAt s d).powered = true → exec (.dieStartsAgain d) s = .next s)

/-- R323–R328 and T18.1: PCARAT keeps LIC within MINC and 1,800; an interval begins at its instant, slot 25,000,000 k of port A's
segment or WSTIME 1,000,000 k without one, with the ceiling min(1,800, LIC + BORR − LENT), no ENERGY decreased and no team paused, but
for teams that are not DET where the non-team draw breaks the ceiling; allowances never exceed the ceiling, and DET teams have their
CARCAP in full where it suffices for them; an OFFER leaves MINC, the first ACCEPT that names it takes it, a CONFIRM in the next
interval confirms it, and an ended loan returns what it moved. An event that cannot arise leaves
the state as it is: the model's choice (log 3). -/
def Obligations.CaratEvents : Prop := ∀ (s : State) (v : Word) (mine read : Bool) (lender borrower num carats term other : Nat)
    (r : MeterReading),
  let h := s.hub
  let lic := fieldOf v 0 12
  let minc := fieldOf v 12 12
  let offers := h.trade = true ∧ 1 ≤ term ∧ term ≤ 255 ∧ (mine = true → h.minc.toNat + carats ≤ h.ceil.toNat)
  let before := (h.loans.filter fun l => l.lender == lender && l.from_ == h.interval).length
  let open_ (l : Loan) : Prop := l.lender = lender ∧ l.num = num ∧ l.phase = 0 ∧ l.from_ = h.interval
  let taken (l : Loan) : Prop := l.lender = lender ∧ l.borrower = borrower ∧ l.phase = 1 ∧ l.from_ + 1 = h.interval
  let ends (l : Loan) : Bool := l.lender == lender && l.borrower == borrower && loanOver h.interval l
  exec (.pcaratWrite v) s = .next (modHub s fun h => { h with
    lic := BitVec.ofNat 12 (if 1800 < lic then 1800 else max lic minc), minc := BitVec.ofNat 12 minc, trade := v.getLsbD 60 }) ∧
  (offers → exec (.caratOffer mine lender carats term) s = .next (modHub s fun h => { h with
    loans := h.loans ++ [⟨lender, 0, before, carats, term, if mine then 1#2 else 0#2, 0, false, h.interval⟩] })) ∧
  (¬offers → exec (.caratOffer mine lender carats term) s = .next s) ∧
  (∀ ls l rest, h.loans = ls ++ l :: rest → (∀ x ∈ ls, ¬open_ x) → open_ l → (mine = true → h.trade = true) →
    exec (.caratAccept mine ⟨lender, num⟩ borrower) s = .next (modHub s fun h => { h with
      loans := ls ++ { l with phase := 1, borrower := borrower, mine := if mine then 2#2 else l.mine } :: rest })) ∧
  ((∀ x ∈ h.loans, ¬open_ x) → exec (.caratAccept mine ⟨lender, num⟩ borrower) s = .next s) ∧
  (∀ ls l rest, h.loans = ls ++ l :: rest → (∀ x ∈ ls, ¬taken x) → taken l →
    exec (.caratConfirm read lender borrower) s = .next (modHub s fun h => { h with
      loans := ls ++ { l with phase := 2, read := read } :: rest })) ∧
  ((∀ x ∈ h.loans, ¬taken x) → exec (.caratConfirm read lender borrower) s = .next s) ∧
  exec (.loanTermEnd lender borrower) s = .next (modHub s fun h => { h with
    loans := h.loans.filter (!ends ·)
    lent := h.lent - caratsOf (fun l => ends l && l.mine == 1#2) h.loans
    borr := h.borr - caratsOf (fun l => ends l && l.mine == 2#2 && l.read) h.loans }) ∧
  (let due := (portAt s 0).attached = true → 25000000 * (h.interval + 1) < 4096 * (portAt s 0).frame
   (¬due → exec (.intervalStart r) s = .next s) ∧
   (due → ∃ u, exec (.intervalStart r) s = .next u ∧ u.hub.interval = h.interval + 1 ∧ u.hub.lic = h.lic ∧
    u.hub.ceil.toNat = min 1800 (h.lic.toNat + u.hub.borr.toNat - u.hub.lent.toNat) ∧ FilesKept s u ∧ u.mem = s.mem ∧
    (r.other ≤ 1000 * u.hub.ceil.toNat → ∀ c, (coreAt u c).paused = false) ∧
    (∀ c b, (coreAt s c).team = some b → (∀ m b', (coreAt s m).team = some b' → b'.lid = b.lid → b'.team = b.team → b'.det = true) →
      (coreAt u c).paused = false) ∧
    List.Forall₂ (fun a b => b.lid = a.lid ∧ b.team = a.team ∧ a.total ≤ b.total) h.meters u.hub.meters ∧
    ((portAt s 0).attached = false → u.ns = max s.ns (1000000 * (h.interval + 1))))) ∧
  (reservedFor (dealOrder s) ≤ 1000 * h.ceil.toNat - other → ∀ x ∈ deal s other, x.1.det = true → 1000 * x.1.cap ≤ x.2 ∨ x.1.cap = 0) ∧
  ((deal s other).map (·.2)).sum ≤ 1000 * h.ceil.toNat - other

/-- R309 and T17.2: the status of a record is that of the first check that fails: RECORD, SHAPE, SCRATCH, or none. GHDR without GRAPH
is not looked at, and an ENTRY or TVEC off 8 bytes is a RECORD fault: deduced (logs 40, 113). R305, R306 and R308: a write of QHEAD is the doorbell and restarts a poll; QCTL keeps EN and a size in its range; a HEAD too far
ahead or a misplaced ring stops the queue. A record at TAIL is read from the ring and checked: rejected, TAIL moves past it, or
its first poll is due. A poll that fails, or that a frozen window holds up, backs off; one that holds hands the record on, or starts
its action; while its queue is stopped a front-end reads nothing. The front-end reads
in U mode with the launch's ASID and ROOT: the model's choice (log 29); so is that a record due at an address without memory stops the
machine (log 84). An event that cannot arise leaves the state as it is: the
model's choice (log 3). -/
def Obligations.RecordsAndQueues : Prop := RecordChecks ∧ QueueEvents

/-- R311, R315 and R316: a weight action passes from die to die and bank to bank, waits while a team is bound on the die, loads 4 MiB
and sets the mark, or clears it; a fault ends the record with WEIGHT. A graph's header opens its nodes or asks for PLOCK, which is
taken from 0 to 1 or retried with the back-off of R308; each node becomes a record of its own with the graph's PRIO and DET. A
header or node that cannot be read or used gives RECORD: deduced (log 30). While its queue is stopped a front-end reads nothing (R306),
and its weight actions end with the supply (R339). An event that cannot arise leaves the state as it is:
the model's choice (log 3). -/
def Obligations.FrontEndEvents : Prop := ∀ (s : State) (p : PartId) (q : QueueId) (lid : Word32) (l : Launch),
  launchOf s lid = some l → l.part = p → l.queue = q → MapsInv s →
  let k := queueAt s p q
  let r := l.rec_
  let who := frontWho s l
  let status (u : State) (n : Nat) : Prop := launchIs u lid fun l' => l'.status = if l.status = 0 then n else l.status
  let ghdr := BitVec.ofNat 64 (rfield r 1152 64)
  (∀ d i, s.hub.stopped = true → k.front = .action lid d i → exec (.weightAction p q) s = .next s) ∧
  (k.en = false → (∀ j a, k.front = .lock lid j a → exec (.plockTake p q) s = .next s) ∧
    (k.front = .header lid → exec (.graphNodeRead p q) s = .next s) ∧
    (∀ g, k.front = .idle → k.graph = some g → g.lid = lid → exec (.graphNodeRead p q) s = .next s)) ∧
  (∀ d i, s.hub.stopped = false → k.front = .action lid d i →
    let first := rfield r 1028 6
    let b := first + i
    let die := physDie s (baseDie s p) d
    let next := if i + 1 < rfield r 1034 7 then FrontEnd.action lid d (i + 1) else .action lid (d + 1) 0
    let here := d < (partAt s p).ndies ∧ r.getLsbD (1024 + d) = true
    (d < (partAt s p).ndies → r.getLsbD (1024 + d) = false → exec (.weightAction p q) s =
      .next (modQueue s p q fun k => { k with front := .action lid (d + 1) 0 })) ∧
    ((partAt s p).ndies ≤ d → kernelRecord r → ∃ u, exec (.weightAction p q) s = .next u ∧
      launchIs u lid fun l' => l'.ready = true ∧ l'.readyAt = s.ns) ∧
    (here → (∃ c, coreDie c = die ∧ (coreAt s c).team ≠ none) → exec (.weightAction p q) s = .next s) ∧
    (here → (∀ c, coreDie c = die → (coreAt s c).team = none) → b < 64 → rfield r 6 2 = 2 → ∃ u, exec (.weightAction p q) s = .next u ∧
      FilesKept s u ∧ (dieAt u die).marks.getLsbD b = false ∧ (queueAt u p q).front = next) ∧
    (here → (∀ c, coreDie c = die → (coreAt s c).team = none) → b < 64 → rfield r 6 2 = 1 →
      let read := frontRead s who (BitVec.ofNat 64 (rfield r 960 64 + 2 ^ 22 * i)) (2 ^ 22)
      (k.en = false → exec (.weightAction p q) s = .next s) ∧
      (∀ e bs, k.en = true → read = .ok (e, bs) → ∃ u, exec (.weightAction p q) s = .next u ∧ FilesKept s u ∧ (dieAt u die).marks.getLsbD b = true ∧
        (queueAt u p q).front = next ∧ ∀ x, x < 2 ^ 22 → sGet 0#8 (dieAt u die).weights (b * 2 ^ 22 + x) = bs.getD x 0#8) ∧
      (∀ t a, k.en = true → read = .error (.fault t a) → ∃ u, exec (.weightAction p q) s = .next u ∧ status u 8))) ∧
  (k.front = .header lid → k.en = true →
    let read := frontLoad s who ghdr 64
    (∀ t a, read = .error (.fault t a) → ∃ u, exec (.graphNodeRead p q) s = .next u ∧ status u 4) ∧
    (∀ e bs, read = .ok (e, bs) →
      let h := leNat bs
      let nn := h / 2 ^ 64 % 2 ^ 16
      let fit := nn ≠ 0 ∧ h / 2 ^ 128 % 2 ^ 8 = 0
      (¬fit → ∃ u, exec (.graphNodeRead p q) s = .next u ∧ status u 4) ∧
      (fit → h / 2 ^ 80 % 2 = 1 → exec (.graphNodeRead p q) s = .next (modQueue e p q fun k => { k with front := .lock lid 0 s.ns })) ∧
      (fit → h / 2 ^ 80 % 2 = 0 → ∃ u, exec (.graphNodeRead p q) s = .next u ∧ (queueAt u p q).front = .idle ∧
        (queueAt u p q).graph = some ⟨lid, nn, BitVec.ofNat 64 (h / 2 ^ 128), 0, none⟩ ∧ launchIs u lid fun l' => l'.left = nn))) ∧
  (∀ g e bs, k.en = true → k.front = .idle → k.graph = some g → g.lid = lid → g.node < g.nn → nodeDue s g = true →
    frontLoad s who (g.nodes + BitVec.ofNat 64 (256 * g.node)) 256 = .ok (e, bs) → ∃ u, exec (.graphNodeRead p q) s = .next u ∧
      FilesKept s u ∧ u.hub.nextLid = s.hub.nextLid + 1#32 ∧
      ∃ l' ∈ u.hub.launches, l'.lid = s.hub.nextLid ∧ l'.parent = some lid ∧ l'.index = l.index ∧
        rfield l'.rec_ 3 3 = rfield r 3 3 ∧ rfield l'.rec_ 1 1 = rfield r 1 1 ∧ rfield l'.rec_ 128 64 = leNat bs / 2 ^ 128 % 2 ^ 64 ∧
        (l'.status = 0 → (queueAt u p q).front = .wait s.hub.nextLid 0 s.ns ∧
          (queueAt u p q).graph = some { g with node := g.node + 1, prev := some s.hub.nextLid })) ∧
  (∀ g, k.front = .idle → k.graph = some g → g.lid = lid → nodeDue s g = false → exec (.graphNodeRead p q) s = .next s) ∧
  (∀ j a, k.front = .lock lid j a → s.ns < a → exec (.plockTake p q) s = .next s) ∧
  (∀ j a, k.front = .lock lid j a → a ≤ s.ns → k.en = true →
    (place s who .atomic ghdr 8 8 = .held → exec (.plockTake p q) s =
      .next (modQueue s p q fun k => { k with front := .lock lid (j + 1) (s.ns + pollGap j) })) ∧
    (∀ t, place s who .atomic ghdr 8 8 = .fault t → ∃ u, exec (.plockTake p q) s = .next u ∧ status u 4) ∧
    (∀ pa uc, place s who .atomic ghdr 8 8 = .ok (.mem pa uc) →
      let old := engineRead (frontAcquire s who ghdr) (.mem pa uc) 8
      (leNat old.2.1 ≠ 0 → exec (.plockTake p q) s =
        .next (modQueue old.1 p q fun k => { k with front := .lock lid (j + 1) (s.ns + pollGap j) })) ∧
      (∀ e bs, leNat old.2.1 = 0 → frontLoad (engineWrite old.1 (.mem pa uc) (leBytes 8 1)) who ghdr 64 = .ok (e, bs) →
        let nn := leNat bs / 2 ^ 64 % 2 ^ 16
        let fit := nn ≠ 0 ∧ leNat bs / 2 ^ 128 % 2 ^ 8 = 0
        (¬fit → ∃ u, exec (.plockTake p q) s = .next u ∧ status u 4 ∧ (s.lrr = [] → s.owner = [] → homeNat u pa 8 = 0)) ∧
        (fit → ∃ u, exec (.plockTake p q) s = .next u ∧ launchIs u lid (fun l' => l'.locked = true) ∧ (queueAt u p q).front = .idle ∧
          (queueAt u p q).graph = some ⟨lid, nn, BitVec.ofNat 64 (leNat bs / 2 ^ 128), 0, none⟩ ∧
          (s.lrr = [] → s.owner = [] → homeNat u pa 8 = 1)))))

/-- R267, R310, R316 and T17.3: a launch with its status writes its completion record, whose END is the time of a rejection where it was
rejected, and is gone, but a graph that still holds PLOCK; a running one stays; a cancelled one stops its teams and ends with CANCELLED,
at the front of its queue at once. A graph has no teams of its own, so that TEAMS, EXIT and ENERGY of its record are zero: the model's
choice (log 111). Its engine jobs are dropped, and WEIGHT goes before CANCELLED only at a held die: deduced (logs 32, 33). An event that
cannot arise leaves the state as it is: the model's choice (log 3). -/
def Obligations.LaunchEnds : Prop := ∀ (s : State) (lid : Word32) (l : Launch), launchOf s lid = some l →
  let k := queueAt s l.part l.queue
  let alone := nodesOf s lid = [] ∧ ∀ g, k.graph = some g → g.lid ≠ lid
  (l.status = 0 → l.ending = 0 → rfield l.rec_ 11 1 = 0 → powerStopped s lid = false → exec (.launchCompletion lid) s = .next s) ∧
  (l.status ≠ 0 → l.done = true → l.locked = false → exec (.launchCompletion lid) s = .next s) ∧
  (l.status ≠ 0 → l.done = true → l.locked = true → l.parent = none → MapsInv s →
    ∀ pa uc, place s (frontWho s l) .store (BitVec.ofNat 64 (rfield l.rec_ 1152 64)) 8 8 = .ok (.mem pa uc) →
    ∃ u, exec (.launchCompletion lid) s = .next u ∧ homeNat u pa 8 = 0 ∧ (∀ x ∈ u.hub.launches, x.lid ≠ lid)) ∧
  (l.status ≠ 0 → l.status < 16 → l.done = false → l.parent = none → l.locked = false → rfield l.rec_ 8 2 = 0 → MapsInv s →
    (∀ d, ∀ w ∈ (dieAt s d).wins, w.who.lid ≠ lid) →
    ∀ pa uc, place s (frontWho s l) .store (BitVec.ofNat 64 (rfield l.rec_ 448 64)) 32 32 = .ok (.mem pa uc) →
    ∃ u, exec (.launchCompletion lid) s = .next u ∧ FilesKept s u ∧ (∀ x ∈ u.hub.launches, x.lid ≠ lid) ∧
      homeNat u pa 4 = l.status + 2 ^ 8 * (l.teams % 2 ^ 24) ∧ homeNat u (pa + 4) 4 = 0 ∧
      homeNat u (pa + 8) 8 = l.exitOr.toNat ∧ homeNat u (pa + 16) 8 = l.energy % 2 ^ 64 ∧ homeNat u (pa + 24) 8 = (l.endAt.getD s.ns) % 2 ^ 64) ∧
  (l.status = 0 → l.ending = 0 → alone → frontOf s l = none → ∃ u, exec (.launchCancel lid) s = .next u ∧ FilesKept s u ∧ u.mem = s.mem ∧
    launchIs u lid (fun l' => l'.ending = 7 ∧ l'.rec_ = l.rec_) ∧
    ∀ c b j, (coreAt s c).team = some b → b.lid = lid → (ctxAt u c j).run ≠ .on) ∧
  (∀ j a, l.status = 0 → l.ending = 0 → alone → k.front = .wait lid j a → ∃ u, exec (.launchCancel lid) s = .next u ∧ FilesKept s u ∧
    launchIs u lid (fun l' => l'.status = 7) ∧ (queueAt u l.part l.queue).front = .idle) ∧
  ((l.status ≠ 0 ∨ l.ending ≠ 0) → alone → l.left = 0 → ∃ u, exec (.launchCancel lid) s = .next u ∧ u.hub.queues = s.hub.queues ∧
    u.cores = s.cores)

/-- R220, R321, R329, R355 and R356: a frame begins and belongs to one circle of the wheel: a wheel that was sent is taken at every
sixteenth, the port lights the lowest PHASE of that circle's submitters, and step lock moves the clock by a step within [1.6, 2.0]
GHz, never while a DET launch runs; a package that stopped lights nothing. A calibration sets the limit, lag and turn from what it
measured, in the port and in the KCFGs that name it, whose circles begin anew, once no bus job is outstanding. The KCFGs, the moment
and the beacons of the frame before are deduced (logs 78, 79, 80). An event that cannot arise leaves the state as it is: the model's
choice (log 3). R3, R276, R304, R316, R332, R349–R351, R354 and T21.4: a replay is counted, a link halves its lanes down to 16 or returns to 64; the
host reads and writes homes within BAR2 and nothing else, and its atomic writes only over the bytes it expects; the package leaves
reset with every core and cluster as State.reset has them, held where no firmware slot is good, after step 1 where no die is whole,
else with its defective dies mapped around, its partitions, each with its quantum, and its fault queues. What memory keeps over a
reset, a host access outside BAR2 and a die with a failing channel are the model's (logs 38, 81, 100). -/
def Obligations.SegmentAndPackageEvents : Prop := SegmentEvents ∧ PackageEvents

/-- R352, R360–R362, T21.2 and T21.8: each register of the hub and of a die stands at its offset, and a write there is the event of that
register; its fields are stored, ranges default, reserved bits are dropped; a read there shows its fields, and other offsets read zero. A
counter grid is stored every 100 µs, inside its ring alone; EOLH is a prediction that the spec does not state (log 14), recomputed every
second, which never increases while its conditions hold. The number and counts of grid entries are free (log 15), an address without
memory stops the machine (log 84), and what a doorbell and DBGCTL.LC of an unbound core read is the model's (log 101). A register is read
as eight bytes whatever the length asked for, and a write off its eight bytes does nothing: the model's choice (log 81). An event that
cannot arise leaves the state as it is: the model's choice (log 3). -/
def Obligations.RegisterEvents : Prop := ∀ (s : State) (d : DieId) (c : CoreId) (p : PartId) (q : QueueId) (port : PortId) (off : Nat) (v : Word),
  let e := dieAt s d
  let k := coreAt s c
  let h := s.hub
  let reads (off w : Nat) : Prop := ∀ n, exec (.hostRead (0xF000000000000 + off) n) s =
    .next (modHub s fun h => { h with hostData := leBytes 8 (w % 2 ^ 64) })
  let dieReads (off w : Nat) : Prop := reads (0x2000000 + 0x100000 * d.val + off) w
  let hub (off : Nat) := exec (.hubRegisterWrite off v) s
  let die (off : Nat) := hub (0x2000000 + 0x100000 * d.val + off)
  let stores (off : Nat) (f : Die → Die) : Prop := die off = .next (modDie s d f)
  let ring := 2 ^ e.cgsz.toNat
  exec (.trctlWrite d v) s = .next (modDie s d fun e => { e with
    tren := v.getLsbD 0, trsz := BitVec.ofNat 5 (ranged 12 30 16 (fieldOf v 1 5)), trdrop := BitVec.ofNat 32 (fieldOf v 32 32) }) ∧
  exec (.cgctlWrite d v) s = .next (modDie s d fun e => { e with
    cgen := v.getLsbD 0, cgsz := BitVec.ofNat 5 (ranged 16 30 20 (fieldOf v 1 5))
    cgNext := if v.getLsbD 0 = true ∧ e.cgen = false then s.ns + 100000 else e.cgNext }) ∧
  (e.cgen = false → exec (.counterGridStore d) s = .next s) ∧
  (e.cgen = true → ¬(backed s e.cgbase.toNat = true ∧ backed s (e.cgbase.toNat + ring - 1) = true) →
    exec (.counterGridStore d) s = .fault (.unbacked e.cgbase.toNat)) ∧
  (e.cgen = true → backed s e.cgbase.toNat = true → backed s (e.cgbase.toNat + ring - 1) = true → MapsInv s →
    ∃ u, exec (.counterGridStore d) s = .next u ∧ FilesKept s u ∧ u.ns = max s.ns e.cgNext ∧
      (dieAt u d).cghead = e.cghead + BitVec.ofNat 32 (16 + 8 * Config.gridEntries) ∧ (dieAt u d).cgNext = e.cgNext + 100000 ∧
      (∀ i, (gridImage (dieAt u d) d u.ns).length ≤ ring → i < (gridImage (dieAt u d) d u.ns).length →
        homeByte u (e.cgbase.toNat + (e.cghead.toNat + i) % ring) = (gridImage (dieAt u d) d u.ns).getD i 0#8) ∧
      ∀ a, (a < e.cgbase.toNat ∨ e.cgbase.toNat + ring ≤ a) → homeByte u a = homeByte s a) ∧
  (∃ u, exec (.eolhUpdate d) s = .next u ∧ FilesKept s u ∧ u.mem = s.mem ∧ u.ns = max s.ns e.eolNext ∧
    (dieAt u d).eolNext = e.eolNext + 1000000000 ∧
    (Config.conditionsHold d.val s.free = true → (dieAt u d).eolh.toNat ≤ e.eolh.toNat)) ∧
  (off % 8 ≠ 0 → hub off = .next s) ∧
  hub 0x0 = exec (.pcaratWrite v) s ∧
  (v.getLsbD 0 = false → hub 0x8 = .next (modHub s fun h =>
    { h with ckptDone := h.ckptDone && !v.getLsbD 1, ckptErr := h.ckptErr && !v.getLsbD 2 })) ∧
  (v.getLsbD 0 = true → hub 0x8 = exec .ckptGo (modHub s fun h =>
    { h with ckptDone := h.ckptDone && !v.getLsbD 1, ckptErr := h.ckptErr && !v.getLsbD 2 })) ∧
  ((portAt s port).leader = true → hub (0x10 + 8 * port.val) = exec (.kwheelWrite port v) s) ∧
  ((portAt s port).leader = false → hub (0x10 + 8 * port.val) = .next s) ∧
  hub (0x100000 + 0x800 * p.val + 0x20 * q.val) = exec (.qctlWrite p q v) s ∧
  hub (0x100008 + 0x800 * p.val + 0x20 * q.val) = .next (modQueue s p q fun k => { k with base := paBits 8 v }) ∧
  hub (0x100010 + 0x800 * p.val + 0x20 * q.val) = exec (.qheadWrite p q v) s ∧
  hub (0x100018 + 0x800 * p.val + 0x20 * q.val) = .next s ∧
  hub (0x200000 + 8 * c.val) = exec (.doorbellWrite c) s ∧
  stores 0x00 (fun e => { e with rankuse := BitVec.ofNat 24 v.toNat }) ∧
  die 0x08 = exec (.dispatchWrite d v.toNat) s ∧
  stores 0x10 (fun e => { e with bindbase := paBits 8 v }) ∧
  stores 0x18 (fun e => { e with fqbase := paBits 5 v }) ∧
  die 0x20 = exec (.fqctlWrite d v) s ∧
  die 0x28 = (if v.getLsbD 0 then exec (.fqdoorRing d) s else .next s) ∧
  die 0x30 = exec (.trctlWrite d v) s ∧
  stores 0x38 (fun e => { e with trbase := paBits 12 v }) ∧
  stores 0x48 (fun e => { e with trtail := BitVec.ofNat 32 v.toNat }) ∧
  (∀ i : Fin 4, stores (0x50 + 8 * i.val) (fun e => { e with trsel := vPut e.trsel i v })) ∧
  stores 0x70 (fun e => { e with cgbase := paBits 12 v }) ∧
  die 0x78 = exec (.cgctlWrite d v) s ∧
  (coreDie c = d → die (0x800 + 8 * (c.val % 256)) = .next (modCore s c fun k => { k with slot := bitsOf v 0 36 })) ∧
  (off < 0x800 → off % 8 = 0 → (off = 0x40 ∨ 0x80 ≤ off) → die off = .next s) ∧
  ((off % 8 ≠ 0 ∨ (0x20 ≤ off ∧ off < 0x100000) ∨ (0x102000 ≤ off ∧ off < 0x1000000) ∨ (0x1040000 ≤ off ∧ off < 0x2000000)) →
    off < 0x4000000 → reads off 0) ∧
  reads 0x0 (h.lic.toNat + h.minc.toNat * 2 ^ 12 + h.ceil.toNat * 2 ^ 24 + h.lent.toNat * 2 ^ 36 + h.borr.toNat * 2 ^ 48 +
    h.trade.toNat * 2 ^ 60) ∧
  reads 0x8 (h.ckptGo.toNat + 2 * h.ckptDone.toNat + 4 * h.ckptErr.toNat + h.ckptSeq.toNat * 2 ^ 32) ∧
  ((portAt s port).leader = false → reads (0x10 + 8 * port.val) (portAt s port).wheel.toNat) ∧
  ((portAt s port).wheelNext = none → reads (0x10 + 8 * port.val) (portAt s port).wheel.toNat) ∧
  reads (0x100000 + 0x800 * p.val + 0x20 * q.val) ((queueAt s p q).en.toNat + 2 * (queueAt s p q).sz.toNat) ∧
  reads (0x100008 + 0x800 * p.val + 0x20 * q.val) (queueAt s p q).base.toNat ∧
  reads (0x100010 + 0x800 * p.val + 0x20 * q.val) (queueAt s p q).head.toNat ∧
  reads (0x100018 + 0x800 * p.val + 0x20 * q.val) (queueAt s p q).tail.toNat ∧
  reads (0x1000000 + 0x100 * c.val) (k.dbg.halt.toNat + 2 * k.dbg.step.toNat + 4 * k.dbg.attach.toNat +
    8 * (if k.dbg.halt = true ∧ k.dbg.step = false then 1 else 0) + 16 * k.dbg.ctx.toNat +
    256 * (if k.team = none then 0 else k.lcore.toNat)) ∧
  (∀ i : Fin 4, reads (0x1000008 + 0x100 * c.val + 8 * i.val) (k.dbg.bp.get i).toNat ∧
    reads (0x1000028 + 0x100 * c.val + 8 * i.val) (k.dbg.wp.get i).toNat ∧
    reads (0x1000048 + 0x100 * c.val + 8 * i.val) (k.dbg.wpa.get i).toNat ∧
    dieReads (0x50 + 8 * i.val) (e.trsel.get i).toNat) ∧
  dieReads 0x00 e.rankuse.toNat ∧ dieReads 0x08 (e.busy.toNat + e.dispatch.toNat / 128 * 128) ∧ dieReads 0x10 e.bindbase.toNat ∧
  dieReads 0x18 e.fqbase.toNat ∧ dieReads 0x20 (e.fqsz.toNat + e.fqhead.toNat * 2 ^ 8 + e.fqtail.toNat * 2 ^ 24) ∧
  dieReads 0x28 e.fqdoor.toNat ∧ dieReads 0x30 (e.tren.toNat + 2 * e.trsz.toNat + e.trdrop.toNat * 2 ^ 32) ∧
  dieReads 0x38 e.trbase.toNat ∧ dieReads 0x40 e.trhead.toNat ∧ dieReads 0x48 e.trtail.toNat ∧ dieReads 0x70 e.cgbase.toNat ∧
  dieReads 0x78 (e.cgen.toNat + 2 * e.cgsz.toNat + e.cghead.toNat * 2 ^ 32) ∧ dieReads 0x80 e.eolh.toNat ∧
  (∀ i : Fin 7, dieReads (0x100 + 8 * i.val) ((e.errs.get i).1.toNat + (e.errs.get i).2.toNat * 2 ^ 32)) ∧
  (coreDie c = d → dieReads (0x800 + 8 * (c.val % 256)) k.slot.toNat) ∧
  (off < 0x100000 → off % 8 = 0 → ((0x88 ≤ off ∧ off < 0x100) ∨ (0x138 ≤ off ∧ off < 0x800) ∨ 0x1000 ≤ off) → dieReads off 0)

/-- R357, R358 and T21.5: HALT stops a core, a step lets one instruction of one context issue past its own match, clearing HALT
resumes it and delivers what was addressed to it meanwhile; ATTACH makes matches halt. A CTX above 10 steps nothing: the model's
choice (log 82). An event that cannot arise leaves the state as it is: the model's choice (log 3). -/
def Obligations.DebugEvents : Prop := ∀ (s : State) (c : CoreId) (j : CtxId) (v : Word),
  let k := coreAt s c
  exec (.dbgctlHalt c) s = .next (onDebug s c fun d => { d with halt := true }) ∧
  exec (.dbgctlAttach c) s = .next (onDebug s c fun d => { d with attach := true }) ∧
  (k.dbg.halt = true → exec (.dbgctlStep c j) s =
    .next (modCtx (onDebug s c fun d => { d with step := true, ctx := BitVec.ofNat 4 j.val }) c j fun t => { t with bpPass := true })) ∧
  (k.dbg.halt = false → exec (.dbgctlStep c j) s = .next (onDebug s c fun d => { d with ctx := BitVec.ofNat 4 j.val })) ∧
  (k.dbg.halt = false → exec (.dbgctlResume c) s = .next s) ∧
  (k.dbg.halt = true → k.dbg.queued = [] → exec (.dbgctlResume c) s = .next (onDebug s c fun d => { d with halt := false, step := false })) ∧
  (k.dbg.halt = true → ∃ u, exec (.dbgctlResume c) s = .next u ∧ FilesKept s u ∧ (coreAt u c).dbg.halt = false ∧
    (coreAt u c).dbg.step = false ∧ (coreAt u c).dbg.queued = [] ∧
    (DebugEvent.door ∈ k.dbg.queued → k.team ≠ none → (coreAt u c).door = true) ∧
    (k.dbg.queued = [.stop .preempt] → (coreAt u c).stopReq = .preempt) ∧
    ∀ n a o ms, k.dbg.queued = [.generation n a o ms] →
      chan (coreAt u c).arr n = 0 ∧ chan (coreAt u c).ready n = 1 ∧ chan (coreAt u c).resAnd n = a.toNat ∧
        chan (coreAt u c).resOr n = o.toNat) ∧
  (∀ j' : CtxId, mayIssue k j' = true → k.dbg.halt = true → k.dbg.step = true ∧ k.dbg.ctx.toNat = j'.val) ∧
  exec (.hubRegisterWrite (0x1000000 + 0x100 * c.val + 0x08) v) s =
    .next (onDebug s c fun d => { d with bp := vPut d.bp 0 (bitsOf v 0 0 + bitsOf v 2 63) })

/-- R60 and R174: x0 reads zero and m0 reads all ones, and a write to either is discarded: nothing of the context or core changes. -/
def Obligations.HardWiredRegisters : Prop := ∀ (s : State) (t : Ctx) (k : Core) (c : CoreId) (j : CtxId) (v : Word) (lat : Nat),
  xreg t 0#5 = 0#64 ∧ readX s t 0#5 = 0#64 ∧ putX t 0#5 v = t ∧ writeX s c j 0#5 lat v = s ∧ mreg k 0#3 = BitVec.allOnes 64 ∧
    readM s c t 0#3 = BitVec.allOnes 64 ∧ putM k 0#3 v = k

/-- A step runs the decoded instruction: where the next context's boundary holds nothing else, the bytes at its PC decode to `i` and no line
of them is poisoned, the step is exec of `i` there, the words kept in the instruction path (R275) and the context's late loads performed
that `i` does not let wait (R85, R120; log 4), but for the end of a debugger's step (R358). A second word is fetched for an L form
alone, and lies in the body of the same block (R108, R109). An event of the agenda is the step, whatever else could act; the agenda loses it (log 2). -/
def Obligations.StepRunsDecoded : Prop := StepRunsInstruction ∧ StepRunsEvent

/-- R108, R109, R111, R121, R263 and R285: the faults of a fetch, the lowest priority number first: its own; a poisoned line; a second
word that cannot be fetched or is poisoned; the header consumed with the first word of its block; a word of a header; an L form cut off by
the end of its block; a word that no encoding names. -/
def Obligations.FetchFaults : Prop := ∀ (s : State) (c : CoreId) (j : CtxId), Issues s c j →
  let s2 := fetchState s c j
  let q := (ctxAt s2 c j).pc
  let raises (t : TrapInfo) (kept : State) : Prop := step s = .next (settleStep { tick s with turn := .background } (raiseTrap kept c j t))
  let poison : TrapInfo := ⟨.access, 0#8, true, true, q.addr⟩
  let unknown (e : DecodeError) (w : Word32) : TrapInfo :=
    if e = .header then ⟨.blockFormat, 0#8, false, false, q.addr⟩ else ⟨.illegal, 0#8, false, false, w.setWidth 64⟩
  let cut := (bodyEnd s2 c j q.hdr).toNat ≤ (q.addr + 4#64).toNat
  (∀ t, fetchAt s2 c j q.addr = .error t → raises t s2) ∧
  (∀ pa w, fetchAt s2 c j q.addr = .ok (pa, w) →
    (codePoisoned s2 c pa = true → raises poison s2) ∧
    (codePoisoned s2 c pa = false → (isLForm w = false ∨ cut ∨ AtHeader s2 c j) →
      (∀ t, q.addr = q.hdr + 8#64 → headerFault s2 c j q.hdr = some t → raises t s2) ∧
      (HeaderGood s2 c j → (isLForm w = true ∨ AtHeader s2 c j) → raises ⟨.blockFormat, 0#8, false, false, q.addr⟩ s2) ∧
      (HeaderGood s2 c j → ¬AtHeader s2 c j → isLForm w = false → ∀ e, decode (bytesOfWord w) = .error e → raises (unknown e w) (fillCode s2 c pa w))) ∧
    (codePoisoned s2 c pa = false → isLForm w = true → ¬cut → ¬AtHeader s2 c j →
      (∀ t, fetchAt s2 c j (q.addr + 4#64) = .error t → raises t s2) ∧
      ∀ pa' lit, fetchAt s2 c j (q.addr + 4#64) = .ok (pa', lit) →
        (codePoisoned s2 c pa' = true → raises poison s2) ∧
        (codePoisoned s2 c pa' = false →
          (∀ t, q.addr = q.hdr + 8#64 → headerFault s2 c j q.hdr = some t → raises t s2) ∧
          (HeaderGood s2 c j → ∀ e, decode (bytesOfWord w ++ bytesOfWord lit) = .error e →
            raises (unknown e w) (fillCode (fillCode s2 c pa w) c pa' lit)))))

/-- Words of the spec's own examples (R106, R107, T5.3–T5.5) and what they decode to. -/
def Obligations.DecodeSamples : Prop :=
  let word (w : Word32) (i : Instr) : Prop := decode (bytesOfWord w) = .ok (i, [])
  word 0x05200318#32 (.ldD 0#3 5#5 4#5 0#9) ∧ word 0x06200718#32 (.ldD 0#3 6#5 4#5 1#9) ∧ word 0x052FFF84#32 (.addImm 0#3 5#5 5#5 0xFFF#12) ∧
  word 0x145FFF90#32 (.bnez 0#3 true 5#5 0x1FFF#13) ∧ word 0x0631C001#32 (.add 0#3 6#5 6#5 7#5) ∧ word 0x07398201#32 (.xor 0#3 7#5 7#5 6#5) ∧
  word 0x07200F19#32 (.stD 0#3 7#5 4#5 3#9) ∧ word 0x00000059#32 (.hexit 0#3 0#5) ∧ word 0x0802405B#32 (.rng 0#3 8#5 0#5 9#5) ∧
  word 0x07180358#32 (.spawn 0#3 7#5 3#5 6#12) ∧ word 0x091800D9#32 (.hjoin 0#3 9#5 3#5) ∧ word 0x0000C080#32 (.trap 0#3 3#5) ∧
  word 0x00000100#32 (.eret 0#3)

/-- R106–R109 and R121: decoding the encoding of a well-formed instruction gives it back with every operand, at the head of any bytes. -/
def Obligations.DecodeEncode : Prop := ∀ (i : Instr) (rest : List Byte), i.wf = true → encode i ≠ [] →
  decode (encodeBytes i ++ rest) = .ok (i, rest)

/-- Every step that answers a next state keeps the canonical form of homes, arrays, weight stores, engines and bezels (R6, R46, R50, R96). -/
def Obligations.StepKeepsMaps : Prop := ∀ (s u : State), MapsInv s → step s = .next u → MapsInv u

/-- R15, R23, R44, T17.1, T18.1 and T21.8: what reset leaves: the maps in their form; no team, no context live, no event due; the
registers to which the spec gives a reset value hold it. -/
def Obligations.ResetState : Prop :=
  let s := State.reset
  MapsInv s ∧ s.agenda = [] ∧ s.ns = 0 ∧ s.hub.lic.toNat = 1800 ∧ s.hub.minc.toNat = 300 ∧ s.hub.ceil.toNat = 1800 ∧ s.hub.lent = 0#12 ∧
  s.hub.borr = 0#12 ∧ s.hub.trade = false ∧ s.hub.stopped = false ∧ (∀ i, s.dieMap.get i = i) ∧
  (∀ c, (coreAt s c).team = none ∧ (∀ j, (ctxAt s c j).run = .off) ∧ (∀ i : Fin 3, (coreAt s c).allow.get i = 255#8) ∧
    (coreAt s c).peermask = 1#64 ∧ (coreAt s c).kretry = 3#3 ∧ (coreAt s c).kcfg = 0#64) ∧
  (∀ p q, (queueAt s p q).en = false ∧ (queueAt s p q).sz = 4#4 ∧ (queueAt s p q).head = 0#32 ∧ (queueAt s p q).tail = 0#32) ∧
  ∀ d, (dieAt s d).fqsz = 8#5 ∧ (dieAt s d).trsz = 16#5 ∧ (dieAt s d).cgsz = 20#5 ∧ (dieAt s d).tren = false ∧ (dieAt s d).cgen = false ∧
    (dieAt s d).rankuse = 0xFFFFFF#24 ∧ (dieAt s d).busy = false ∧ (dieAt s d).defective = false
end

