-- ==== Sys2Proof/Laws/State.lean ====
section
/-! SUPPORT. Small lemmas about the updates of the state: what each reads back, one per field and update, so that no later proof
unfolds a record update. -/

namespace Sys2Proof.Machine

/-! ### Vectors by index -/

@[simp] theorem get_vPut_self {α : Type} {n : Nat} (v : Vector α n) (i : Fin n) (x : α) : (vPut v i x).get i = x := by
  simp [vPut, Vector.get_eq_getElem]
theorem get_vPut_ne {α : Type} {n : Nat} (v : Vector α n) {i j : Fin n} (x : α) (h : j ≠ i) :
    (vPut v i x).get j = v.get j := by
  have hv : i.val ≠ j.val := fun e => h (Fin.ext e.symm)
  simp [vPut, Vector.get_eq_getElem, hv]
theorem get_vPut {α : Type} {n : Nat} (v : Vector α n) (i j : Fin n) (x : α) :
    (vPut v i x).get j = if j = i then x else v.get j := by
  by_cases h : j = i
  · subst h; simp
  · simp [h, get_vPut_ne]

/-! ### What each update leaves alone in the package -/

@[simp] theorem modCore_clusters (s : State) (c : CoreId) (f : Core → Core) : (modCore s c f).clusters = s.clusters := rfl
@[simp] theorem modCore_dies (s : State) (c : CoreId) (f : Core → Core) : (modCore s c f).dies = s.dies := rfl
@[simp] theorem modCore_ports (s : State) (c : CoreId) (f : Core → Core) : (modCore s c f).ports = s.ports := rfl
@[simp] theorem modCore_hub (s : State) (c : CoreId) (f : Core → Core) : (modCore s c f).hub = s.hub := rfl
@[simp] theorem modCore_parts (s : State) (c : CoreId) (f : Core → Core) : (modCore s c f).parts = s.parts := rfl
@[simp] theorem modCore_dieMap (s : State) (c : CoreId) (f : Core → Core) : (modCore s c f).dieMap = s.dieMap := rfl
@[simp] theorem modCore_mem (s : State) (c : CoreId) (f : Core → Core) : (modCore s c f).mem = s.mem := rfl
@[simp] theorem modCore_owner (s : State) (c : CoreId) (f : Core → Core) : (modCore s c f).owner = s.owner := rfl
@[simp] theorem modCore_lrr (s : State) (c : CoreId) (f : Core → Core) : (modCore s c f).lrr = s.lrr := rfl
@[simp] theorem modCore_poison (s : State) (c : CoreId) (f : Core → Core) : (modCore s c f).poison = s.poison := rfl
@[simp] theorem modCore_cxl (s : State) (c : CoreId) (f : Core → Core) : (modCore s c f).cxl = s.cxl := rfl
@[simp] theorem modCore_boot (s : State) (c : CoreId) (f : Core → Core) : (modCore s c f).boot = s.boot := rfl
@[simp] theorem modCore_held (s : State) (c : CoreId) (f : Core → Core) : (modCore s c f).held = s.held := rfl
@[simp] theorem modCore_ns (s : State) (c : CoreId) (f : Core → Core) : (modCore s c f).ns = s.ns := rfl
@[simp] theorem modCore_agenda (s : State) (c : CoreId) (f : Core → Core) : (modCore s c f).agenda = s.agenda := rfl
@[simp] theorem modCore_turn (s : State) (c : CoreId) (f : Core → Core) : (modCore s c f).turn = s.turn := rfl
@[simp] theorem modCore_bg (s : State) (c : CoreId) (f : Core → Core) : (modCore s c f).bg = s.bg := rfl
@[simp] theorem modCore_cur (s : State) (c : CoreId) (f : Core → Core) : (modCore s c f).cur = s.cur := rfl
@[simp] theorem modCore_next (s : State) (c : CoreId) (f : Core → Core) : (modCore s c f).next = s.next := rfl
@[simp] theorem modCore_free (s : State) (c : CoreId) (f : Core → Core) : (modCore s c f).free = s.free := rfl

@[simp] theorem modCtx_clusters (s : State) (c : CoreId) (j : CtxId) (f : Ctx → Ctx) : (modCtx s c j f).clusters = s.clusters := rfl
@[simp] theorem modCtx_dies (s : State) (c : CoreId) (j : CtxId) (f : Ctx → Ctx) : (modCtx s c j f).dies = s.dies := rfl
@[simp] theorem modCtx_ports (s : State) (c : CoreId) (j : CtxId) (f : Ctx → Ctx) : (modCtx s c j f).ports = s.ports := rfl
@[simp] theorem modCtx_hub (s : State) (c : CoreId) (j : CtxId) (f : Ctx → Ctx) : (modCtx s c j f).hub = s.hub := rfl
@[simp] theorem modCtx_parts (s : State) (c : CoreId) (j : CtxId) (f : Ctx → Ctx) : (modCtx s c j f).parts = s.parts := rfl
@[simp] theorem modCtx_dieMap (s : State) (c : CoreId) (j : CtxId) (f : Ctx → Ctx) : (modCtx s c j f).dieMap = s.dieMap := rfl
@[simp] theorem modCtx_mem (s : State) (c : CoreId) (j : CtxId) (f : Ctx → Ctx) : (modCtx s c j f).mem = s.mem := rfl
@[simp] theorem modCtx_owner (s : State) (c : CoreId) (j : CtxId) (f : Ctx → Ctx) : (modCtx s c j f).owner = s.owner := rfl
@[simp] theorem modCtx_lrr (s : State) (c : CoreId) (j : CtxId) (f : Ctx → Ctx) : (modCtx s c j f).lrr = s.lrr := rfl
@[simp] theorem modCtx_poison (s : State) (c : CoreId) (j : CtxId) (f : Ctx → Ctx) : (modCtx s c j f).poison = s.poison := rfl
@[simp] theorem modCtx_cxl (s : State) (c : CoreId) (j : CtxId) (f : Ctx → Ctx) : (modCtx s c j f).cxl = s.cxl := rfl
@[simp] theorem modCtx_boot (s : State) (c : CoreId) (j : CtxId) (f : Ctx → Ctx) : (modCtx s c j f).boot = s.boot := rfl
@[simp] theorem modCtx_held (s : State) (c : CoreId) (j : CtxId) (f : Ctx → Ctx) : (modCtx s c j f).held = s.held := rfl
@[simp] theorem modCtx_ns (s : State) (c : CoreId) (j : CtxId) (f : Ctx → Ctx) : (modCtx s c j f).ns = s.ns := rfl
@[simp] theorem modCtx_agenda (s : State) (c : CoreId) (j : CtxId) (f : Ctx → Ctx) : (modCtx s c j f).agenda = s.agenda := rfl
@[simp] theorem modCtx_turn (s : State) (c : CoreId) (j : CtxId) (f : Ctx → Ctx) : (modCtx s c j f).turn = s.turn := rfl
@[simp] theorem modCtx_bg (s : State) (c : CoreId) (j : CtxId) (f : Ctx → Ctx) : (modCtx s c j f).bg = s.bg := rfl
@[simp] theorem modCtx_cur (s : State) (c : CoreId) (j : CtxId) (f : Ctx → Ctx) : (modCtx s c j f).cur = s.cur := rfl
@[simp] theorem modCtx_next (s : State) (c : CoreId) (j : CtxId) (f : Ctx → Ctx) : (modCtx s c j f).next = s.next := rfl
@[simp] theorem modCtx_free (s : State) (c : CoreId) (j : CtxId) (f : Ctx → Ctx) : (modCtx s c j f).free = s.free := rfl

@[simp] theorem modCluster_cores (s : State) (g : ClusterId) (f : Cluster → Cluster) : (modCluster s g f).cores = s.cores := rfl
@[simp] theorem modCluster_dies (s : State) (g : ClusterId) (f : Cluster → Cluster) : (modCluster s g f).dies = s.dies := rfl
@[simp] theorem modCluster_ports (s : State) (g : ClusterId) (f : Cluster → Cluster) : (modCluster s g f).ports = s.ports := rfl
@[simp] theorem modCluster_hub (s : State) (g : ClusterId) (f : Cluster → Cluster) : (modCluster s g f).hub = s.hub := rfl
@[simp] theorem modCluster_parts (s : State) (g : ClusterId) (f : Cluster → Cluster) : (modCluster s g f).parts = s.parts := rfl
@[simp] theorem modCluster_dieMap (s : State) (g : ClusterId) (f : Cluster → Cluster) : (modCluster s g f).dieMap = s.dieMap := rfl
@[simp] theorem modCluster_mem (s : State) (g : ClusterId) (f : Cluster → Cluster) : (modCluster s g f).mem = s.mem := rfl
@[simp] theorem modCluster_owner (s : State) (g : ClusterId) (f : Cluster → Cluster) : (modCluster s g f).owner = s.owner := rfl
@[simp] theorem modCluster_lrr (s : State) (g : ClusterId) (f : Cluster → Cluster) : (modCluster s g f).lrr = s.lrr := rfl
@[simp] theorem modCluster_poison (s : State) (g : ClusterId) (f : Cluster → Cluster) : (modCluster s g f).poison = s.poison := rfl
@[simp] theorem modCluster_cxl (s : State) (g : ClusterId) (f : Cluster → Cluster) : (modCluster s g f).cxl = s.cxl := rfl
@[simp] theorem modCluster_boot (s : State) (g : ClusterId) (f : Cluster → Cluster) : (modCluster s g f).boot = s.boot := rfl
@[simp] theorem modCluster_held (s : State) (g : ClusterId) (f : Cluster → Cluster) : (modCluster s g f).held = s.held := rfl
@[simp] theorem modCluster_ns (s : State) (g : ClusterId) (f : Cluster → Cluster) : (modCluster s g f).ns = s.ns := rfl
@[simp] theorem modCluster_agenda (s : State) (g : ClusterId) (f : Cluster → Cluster) : (modCluster s g f).agenda = s.agenda := rfl
@[simp] theorem modCluster_turn (s : State) (g : ClusterId) (f : Cluster → Cluster) : (modCluster s g f).turn = s.turn := rfl
@[simp] theorem modCluster_bg (s : State) (g : ClusterId) (f : Cluster → Cluster) : (modCluster s g f).bg = s.bg := rfl
@[simp] theorem modCluster_cur (s : State) (g : ClusterId) (f : Cluster → Cluster) : (modCluster s g f).cur = s.cur := rfl
@[simp] theorem modCluster_next (s : State) (g : ClusterId) (f : Cluster → Cluster) : (modCluster s g f).next = s.next := rfl
@[simp] theorem modCluster_free (s : State) (g : ClusterId) (f : Cluster → Cluster) : (modCluster s g f).free = s.free := rfl

@[simp] theorem modEngine_cores (s : State) (g : ClusterId) (f : Engine → Engine) : (modEngine s g f).cores = s.cores := rfl
@[simp] theorem modEngine_dies (s : State) (g : ClusterId) (f : Engine → Engine) : (modEngine s g f).dies = s.dies := rfl
@[simp] theorem modEngine_ports (s : State) (g : ClusterId) (f : Engine → Engine) : (modEngine s g f).ports = s.ports := rfl
@[simp] theorem modEngine_hub (s : State) (g : ClusterId) (f : Engine → Engine) : (modEngine s g f).hub = s.hub := rfl
@[simp] theorem modEngine_parts (s : State) (g : ClusterId) (f : Engine → Engine) : (modEngine s g f).parts = s.parts := rfl
@[simp] theorem modEngine_dieMap (s : State) (g : ClusterId) (f : Engine → Engine) : (modEngine s g f).dieMap = s.dieMap := rfl
@[simp] theorem modEngine_mem (s : State) (g : ClusterId) (f : Engine → Engine) : (modEngine s g f).mem = s.mem := rfl
@[simp] theorem modEngine_owner (s : State) (g : ClusterId) (f : Engine → Engine) : (modEngine s g f).owner = s.owner := rfl
@[simp] theorem modEngine_lrr (s : State) (g : ClusterId) (f : Engine → Engine) : (modEngine s g f).lrr = s.lrr := rfl
@[simp] theorem modEngine_poison (s : State) (g : ClusterId) (f : Engine → Engine) : (modEngine s g f).poison = s.poison := rfl
@[simp] theorem modEngine_cxl (s : State) (g : ClusterId) (f : Engine → Engine) : (modEngine s g f).cxl = s.cxl := rfl
@[simp] theorem modEngine_boot (s : State) (g : ClusterId) (f : Engine → Engine) : (modEngine s g f).boot = s.boot := rfl
@[simp] theorem modEngine_held (s : State) (g : ClusterId) (f : Engine → Engine) : (modEngine s g f).held = s.held := rfl
@[simp] theorem modEngine_ns (s : State) (g : ClusterId) (f : Engine → Engine) : (modEngine s g f).ns = s.ns := rfl
@[simp] theorem modEngine_agenda (s : State) (g : ClusterId) (f : Engine → Engine) : (modEngine s g f).agenda = s.agenda := rfl
@[simp] theorem modEngine_turn (s : State) (g : ClusterId) (f : Engine → Engine) : (modEngine s g f).turn = s.turn := rfl
@[simp] theorem modEngine_bg (s : State) (g : ClusterId) (f : Engine → Engine) : (modEngine s g f).bg = s.bg := rfl
@[simp] theorem modEngine_cur (s : State) (g : ClusterId) (f : Engine → Engine) : (modEngine s g f).cur = s.cur := rfl
@[simp] theorem modEngine_next (s : State) (g : ClusterId) (f : Engine → Engine) : (modEngine s g f).next = s.next := rfl
@[simp] theorem modEngine_free (s : State) (g : ClusterId) (f : Engine → Engine) : (modEngine s g f).free = s.free := rfl

@[simp] theorem modDie_cores (s : State) (d : DieId) (f : Die → Die) : (modDie s d f).cores = s.cores := rfl
@[simp] theorem modDie_clusters (s : State) (d : DieId) (f : Die → Die) : (modDie s d f).clusters = s.clusters := rfl
@[simp] theorem modDie_ports (s : State) (d : DieId) (f : Die → Die) : (modDie s d f).ports = s.ports := rfl
@[simp] theorem modDie_hub (s : State) (d : DieId) (f : Die → Die) : (modDie s d f).hub = s.hub := rfl
@[simp] theorem modDie_parts (s : State) (d : DieId) (f : Die → Die) : (modDie s d f).parts = s.parts := rfl
@[simp] theorem modDie_dieMap (s : State) (d : DieId) (f : Die → Die) : (modDie s d f).dieMap = s.dieMap := rfl
@[simp] theorem modDie_mem (s : State) (d : DieId) (f : Die → Die) : (modDie s d f).mem = s.mem := rfl
@[simp] theorem modDie_owner (s : State) (d : DieId) (f : Die → Die) : (modDie s d f).owner = s.owner := rfl
@[simp] theorem modDie_lrr (s : State) (d : DieId) (f : Die → Die) : (modDie s d f).lrr = s.lrr := rfl
@[simp] theorem modDie_poison (s : State) (d : DieId) (f : Die → Die) : (modDie s d f).poison = s.poison := rfl
@[simp] theorem modDie_cxl (s : State) (d : DieId) (f : Die → Die) : (modDie s d f).cxl = s.cxl := rfl
@[simp] theorem modDie_boot (s : State) (d : DieId) (f : Die → Die) : (modDie s d f).boot = s.boot := rfl
@[simp] theorem modDie_held (s : State) (d : DieId) (f : Die → Die) : (modDie s d f).held = s.held := rfl
@[simp] theorem modDie_ns (s : State) (d : DieId) (f : Die → Die) : (modDie s d f).ns = s.ns := rfl
@[simp] theorem modDie_agenda (s : State) (d : DieId) (f : Die → Die) : (modDie s d f).agenda = s.agenda := rfl
@[simp] theorem modDie_turn (s : State) (d : DieId) (f : Die → Die) : (modDie s d f).turn = s.turn := rfl
@[simp] theorem modDie_bg (s : State) (d : DieId) (f : Die → Die) : (modDie s d f).bg = s.bg := rfl
@[simp] theorem modDie_cur (s : State) (d : DieId) (f : Die → Die) : (modDie s d f).cur = s.cur := rfl
@[simp] theorem modDie_next (s : State) (d : DieId) (f : Die → Die) : (modDie s d f).next = s.next := rfl
@[simp] theorem modDie_free (s : State) (d : DieId) (f : Die → Die) : (modDie s d f).free = s.free := rfl

@[simp] theorem modPort_cores (s : State) (p : PortId) (f : Port → Port) : (modPort s p f).cores = s.cores := rfl
@[simp] theorem modPort_clusters (s : State) (p : PortId) (f : Port → Port) : (modPort s p f).clusters = s.clusters := rfl
@[simp] theorem modPort_dies (s : State) (p : PortId) (f : Port → Port) : (modPort s p f).dies = s.dies := rfl
@[simp] theorem modPort_hub (s : State) (p : PortId) (f : Port → Port) : (modPort s p f).hub = s.hub := rfl
@[simp] theorem modPort_parts (s : State) (p : PortId) (f : Port → Port) : (modPort s p f).parts = s.parts := rfl
@[simp] theorem modPort_dieMap (s : State) (p : PortId) (f : Port → Port) : (modPort s p f).dieMap = s.dieMap := rfl
@[simp] theorem modPort_mem (s : State) (p : PortId) (f : Port → Port) : (modPort s p f).mem = s.mem := rfl
@[simp] theorem modPort_owner (s : State) (p : PortId) (f : Port → Port) : (modPort s p f).owner = s.owner := rfl
@[simp] theorem modPort_lrr (s : State) (p : PortId) (f : Port → Port) : (modPort s p f).lrr = s.lrr := rfl
@[simp] theorem modPort_poison (s : State) (p : PortId) (f : Port → Port) : (modPort s p f).poison = s.poison := rfl
@[simp] theorem modPort_cxl (s : State) (p : PortId) (f : Port → Port) : (modPort s p f).cxl = s.cxl := rfl
@[simp] theorem modPort_boot (s : State) (p : PortId) (f : Port → Port) : (modPort s p f).boot = s.boot := rfl
@[simp] theorem modPort_held (s : State) (p : PortId) (f : Port → Port) : (modPort s p f).held = s.held := rfl
@[simp] theorem modPort_ns (s : State) (p : PortId) (f : Port → Port) : (modPort s p f).ns = s.ns := rfl
@[simp] theorem modPort_agenda (s : State) (p : PortId) (f : Port → Port) : (modPort s p f).agenda = s.agenda := rfl
@[simp] theorem modPort_turn (s : State) (p : PortId) (f : Port → Port) : (modPort s p f).turn = s.turn := rfl
@[simp] theorem modPort_bg (s : State) (p : PortId) (f : Port → Port) : (modPort s p f).bg = s.bg := rfl
@[simp] theorem modPort_cur (s : State) (p : PortId) (f : Port → Port) : (modPort s p f).cur = s.cur := rfl
@[simp] theorem modPort_next (s : State) (p : PortId) (f : Port → Port) : (modPort s p f).next = s.next := rfl
@[simp] theorem modPort_free (s : State) (p : PortId) (f : Port → Port) : (modPort s p f).free = s.free := rfl

@[simp] theorem modHub_cores (s : State) (f : Hub → Hub) : (modHub s f).cores = s.cores := rfl
@[simp] theorem modHub_clusters (s : State) (f : Hub → Hub) : (modHub s f).clusters = s.clusters := rfl
@[simp] theorem modHub_dies (s : State) (f : Hub → Hub) : (modHub s f).dies = s.dies := rfl
@[simp] theorem modHub_ports (s : State) (f : Hub → Hub) : (modHub s f).ports = s.ports := rfl
@[simp] theorem modHub_parts (s : State) (f : Hub → Hub) : (modHub s f).parts = s.parts := rfl
@[simp] theorem modHub_dieMap (s : State) (f : Hub → Hub) : (modHub s f).dieMap = s.dieMap := rfl
@[simp] theorem modHub_mem (s : State) (f : Hub → Hub) : (modHub s f).mem = s.mem := rfl
@[simp] theorem modHub_owner (s : State) (f : Hub → Hub) : (modHub s f).owner = s.owner := rfl
@[simp] theorem modHub_lrr (s : State) (f : Hub → Hub) : (modHub s f).lrr = s.lrr := rfl
@[simp] theorem modHub_poison (s : State) (f : Hub → Hub) : (modHub s f).poison = s.poison := rfl
@[simp] theorem modHub_cxl (s : State) (f : Hub → Hub) : (modHub s f).cxl = s.cxl := rfl
@[simp] theorem modHub_boot (s : State) (f : Hub → Hub) : (modHub s f).boot = s.boot := rfl
@[simp] theorem modHub_held (s : State) (f : Hub → Hub) : (modHub s f).held = s.held := rfl
@[simp] theorem modHub_ns (s : State) (f : Hub → Hub) : (modHub s f).ns = s.ns := rfl
@[simp] theorem modHub_agenda (s : State) (f : Hub → Hub) : (modHub s f).agenda = s.agenda := rfl
@[simp] theorem modHub_turn (s : State) (f : Hub → Hub) : (modHub s f).turn = s.turn := rfl
@[simp] theorem modHub_bg (s : State) (f : Hub → Hub) : (modHub s f).bg = s.bg := rfl
@[simp] theorem modHub_cur (s : State) (f : Hub → Hub) : (modHub s f).cur = s.cur := rfl
@[simp] theorem modHub_next (s : State) (f : Hub → Hub) : (modHub s f).next = s.next := rfl
@[simp] theorem modHub_free (s : State) (f : Hub → Hub) : (modHub s f).free = s.free := rfl

@[simp] theorem modQueue_cores (s : State) (p : PartId) (q : QueueId) (f : Queue → Queue) : (modQueue s p q f).cores = s.cores := rfl
@[simp] theorem modQueue_clusters (s : State) (p : PartId) (q : QueueId) (f : Queue → Queue) : (modQueue s p q f).clusters = s.clusters := rfl
@[simp] theorem modQueue_dies (s : State) (p : PartId) (q : QueueId) (f : Queue → Queue) : (modQueue s p q f).dies = s.dies := rfl
@[simp] theorem modQueue_ports (s : State) (p : PartId) (q : QueueId) (f : Queue → Queue) : (modQueue s p q f).ports = s.ports := rfl
@[simp] theorem modQueue_parts (s : State) (p : PartId) (q : QueueId) (f : Queue → Queue) : (modQueue s p q f).parts = s.parts := rfl
@[simp] theorem modQueue_dieMap (s : State) (p : PartId) (q : QueueId) (f : Queue → Queue) : (modQueue s p q f).dieMap = s.dieMap := rfl
@[simp] theorem modQueue_mem (s : State) (p : PartId) (q : QueueId) (f : Queue → Queue) : (modQueue s p q f).mem = s.mem := rfl
@[simp] theorem modQueue_owner (s : State) (p : PartId) (q : QueueId) (f : Queue → Queue) : (modQueue s p q f).owner = s.owner := rfl
@[simp] theorem modQueue_lrr (s : State) (p : PartId) (q : QueueId) (f : Queue → Queue) : (modQueue s p q f).lrr = s.lrr := rfl
@[simp] theorem modQueue_poison (s : State) (p : PartId) (q : QueueId) (f : Queue → Queue) : (modQueue s p q f).poison = s.poison := rfl
@[simp] theorem modQueue_cxl (s : State) (p : PartId) (q : QueueId) (f : Queue → Queue) : (modQueue s p q f).cxl = s.cxl := rfl
@[simp] theorem modQueue_boot (s : State) (p : PartId) (q : QueueId) (f : Queue → Queue) : (modQueue s p q f).boot = s.boot := rfl
@[simp] theorem modQueue_held (s : State) (p : PartId) (q : QueueId) (f : Queue → Queue) : (modQueue s p q f).held = s.held := rfl
@[simp] theorem modQueue_ns (s : State) (p : PartId) (q : QueueId) (f : Queue → Queue) : (modQueue s p q f).ns = s.ns := rfl
@[simp] theorem modQueue_agenda (s : State) (p : PartId) (q : QueueId) (f : Queue → Queue) : (modQueue s p q f).agenda = s.agenda := rfl
@[simp] theorem modQueue_turn (s : State) (p : PartId) (q : QueueId) (f : Queue → Queue) : (modQueue s p q f).turn = s.turn := rfl
@[simp] theorem modQueue_bg (s : State) (p : PartId) (q : QueueId) (f : Queue → Queue) : (modQueue s p q f).bg = s.bg := rfl
@[simp] theorem modQueue_cur (s : State) (p : PartId) (q : QueueId) (f : Queue → Queue) : (modQueue s p q f).cur = s.cur := rfl
@[simp] theorem modQueue_next (s : State) (p : PartId) (q : QueueId) (f : Queue → Queue) : (modQueue s p q f).next = s.next := rfl
@[simp] theorem modQueue_free (s : State) (p : PartId) (q : QueueId) (f : Queue → Queue) : (modQueue s p q f).free = s.free := rfl

/-! ### Parts read through an update of another part -/

@[simp] theorem clusterAt_modCore (s : State) (c : CoreId) (f : Core → Core) (x : ClusterId) : clusterAt (modCore s c f) x = clusterAt s x := rfl
@[simp] theorem engineAt_modCore (s : State) (c : CoreId) (f : Core → Core) (x : ClusterId) : engineAt (modCore s c f) x = engineAt s x := rfl
@[simp] theorem dieAt_modCore (s : State) (c : CoreId) (f : Core → Core) (x : DieId) : dieAt (modCore s c f) x = dieAt s x := rfl
@[simp] theorem portAt_modCore (s : State) (c : CoreId) (f : Core → Core) (x : PortId) : portAt (modCore s c f) x = portAt s x := rfl
@[simp] theorem queueAt_modCore (s : State) (c : CoreId) (f : Core → Core) (x : PartId) (y : QueueId) : queueAt (modCore s c f) x y = queueAt s x y := rfl
@[simp] theorem clusterAt_modCtx (s : State) (c : CoreId) (j : CtxId) (f : Ctx → Ctx) (x : ClusterId) : clusterAt (modCtx s c j f) x = clusterAt s x := rfl
@[simp] theorem engineAt_modCtx (s : State) (c : CoreId) (j : CtxId) (f : Ctx → Ctx) (x : ClusterId) : engineAt (modCtx s c j f) x = engineAt s x := rfl
@[simp] theorem dieAt_modCtx (s : State) (c : CoreId) (j : CtxId) (f : Ctx → Ctx) (x : DieId) : dieAt (modCtx s c j f) x = dieAt s x := rfl
@[simp] theorem portAt_modCtx (s : State) (c : CoreId) (j : CtxId) (f : Ctx → Ctx) (x : PortId) : portAt (modCtx s c j f) x = portAt s x := rfl
@[simp] theorem queueAt_modCtx (s : State) (c : CoreId) (j : CtxId) (f : Ctx → Ctx) (x : PartId) (y : QueueId) : queueAt (modCtx s c j f) x y = queueAt s x y := rfl
@[simp] theorem coreAt_modCluster (s : State) (g : ClusterId) (f : Cluster → Cluster) (x : CoreId) : coreAt (modCluster s g f) x = coreAt s x := rfl
@[simp] theorem ctxAt_modCluster (s : State) (g : ClusterId) (f : Cluster → Cluster) (x : CoreId) (y : CtxId) : ctxAt (modCluster s g f) x y = ctxAt s x y := rfl
@[simp] theorem dieAt_modCluster (s : State) (g : ClusterId) (f : Cluster → Cluster) (x : DieId) : dieAt (modCluster s g f) x = dieAt s x := rfl
@[simp] theorem portAt_modCluster (s : State) (g : ClusterId) (f : Cluster → Cluster) (x : PortId) : portAt (modCluster s g f) x = portAt s x := rfl
@[simp] theorem queueAt_modCluster (s : State) (g : ClusterId) (f : Cluster → Cluster) (x : PartId) (y : QueueId) : queueAt (modCluster s g f) x y = queueAt s x y := rfl
@[simp] theorem coreAt_modEngine (s : State) (g : ClusterId) (f : Engine → Engine) (x : CoreId) : coreAt (modEngine s g f) x = coreAt s x := rfl
@[simp] theorem ctxAt_modEngine (s : State) (g : ClusterId) (f : Engine → Engine) (x : CoreId) (y : CtxId) : ctxAt (modEngine s g f) x y = ctxAt s x y := rfl
@[simp] theorem dieAt_modEngine (s : State) (g : ClusterId) (f : Engine → Engine) (x : DieId) : dieAt (modEngine s g f) x = dieAt s x := rfl
@[simp] theorem portAt_modEngine (s : State) (g : ClusterId) (f : Engine → Engine) (x : PortId) : portAt (modEngine s g f) x = portAt s x := rfl
@[simp] theorem queueAt_modEngine (s : State) (g : ClusterId) (f : Engine → Engine) (x : PartId) (y : QueueId) : queueAt (modEngine s g f) x y = queueAt s x y := rfl
@[simp] theorem coreAt_modDie (s : State) (d : DieId) (f : Die → Die) (x : CoreId) : coreAt (modDie s d f) x = coreAt s x := rfl
@[simp] theorem ctxAt_modDie (s : State) (d : DieId) (f : Die → Die) (x : CoreId) (y : CtxId) : ctxAt (modDie s d f) x y = ctxAt s x y := rfl
@[simp] theorem clusterAt_modDie (s : State) (d : DieId) (f : Die → Die) (x : ClusterId) : clusterAt (modDie s d f) x = clusterAt s x := rfl
@[simp] theorem engineAt_modDie (s : State) (d : DieId) (f : Die → Die) (x : ClusterId) : engineAt (modDie s d f) x = engineAt s x := rfl
@[simp] theorem portAt_modDie (s : State) (d : DieId) (f : Die → Die) (x : PortId) : portAt (modDie s d f) x = portAt s x := rfl
@[simp] theorem queueAt_modDie (s : State) (d : DieId) (f : Die → Die) (x : PartId) (y : QueueId) : queueAt (modDie s d f) x y = queueAt s x y := rfl
@[simp] theorem coreAt_modPort (s : State) (p : PortId) (f : Port → Port) (x : CoreId) : coreAt (modPort s p f) x = coreAt s x := rfl
@[simp] theorem ctxAt_modPort (s : State) (p : PortId) (f : Port → Port) (x : CoreId) (y : CtxId) : ctxAt (modPort s p f) x y = ctxAt s x y := rfl
@[simp] theorem clusterAt_modPort (s : State) (p : PortId) (f : Port → Port) (x : ClusterId) : clusterAt (modPort s p f) x = clusterAt s x := rfl
@[simp] theorem engineAt_modPort (s : State) (p : PortId) (f : Port → Port) (x : ClusterId) : engineAt (modPort s p f) x = engineAt s x := rfl
@[simp] theorem dieAt_modPort (s : State) (p : PortId) (f : Port → Port) (x : DieId) : dieAt (modPort s p f) x = dieAt s x := rfl
@[simp] theorem queueAt_modPort (s : State) (p : PortId) (f : Port → Port) (x : PartId) (y : QueueId) : queueAt (modPort s p f) x y = queueAt s x y := rfl
@[simp] theorem coreAt_modHub (s : State) (f : Hub → Hub) (x : CoreId) : coreAt (modHub s f) x = coreAt s x := rfl
@[simp] theorem ctxAt_modHub (s : State) (f : Hub → Hub) (x : CoreId) (y : CtxId) : ctxAt (modHub s f) x y = ctxAt s x y := rfl
@[simp] theorem clusterAt_modHub (s : State) (f : Hub → Hub) (x : ClusterId) : clusterAt (modHub s f) x = clusterAt s x := rfl
@[simp] theorem engineAt_modHub (s : State) (f : Hub → Hub) (x : ClusterId) : engineAt (modHub s f) x = engineAt s x := rfl
@[simp] theorem dieAt_modHub (s : State) (f : Hub → Hub) (x : DieId) : dieAt (modHub s f) x = dieAt s x := rfl
@[simp] theorem portAt_modHub (s : State) (f : Hub → Hub) (x : PortId) : portAt (modHub s f) x = portAt s x := rfl
@[simp] theorem coreAt_modQueue (s : State) (p : PartId) (q : QueueId) (f : Queue → Queue) (x : CoreId) : coreAt (modQueue s p q f) x = coreAt s x := rfl
@[simp] theorem ctxAt_modQueue (s : State) (p : PartId) (q : QueueId) (f : Queue → Queue) (x : CoreId) (y : CtxId) : ctxAt (modQueue s p q f) x y = ctxAt s x y := rfl
@[simp] theorem clusterAt_modQueue (s : State) (p : PartId) (q : QueueId) (f : Queue → Queue) (x : ClusterId) : clusterAt (modQueue s p q f) x = clusterAt s x := rfl
@[simp] theorem engineAt_modQueue (s : State) (p : PartId) (q : QueueId) (f : Queue → Queue) (x : ClusterId) : engineAt (modQueue s p q f) x = engineAt s x := rfl
@[simp] theorem dieAt_modQueue (s : State) (p : PartId) (q : QueueId) (f : Queue → Queue) (x : DieId) : dieAt (modQueue s p q f) x = dieAt s x := rfl
@[simp] theorem portAt_modQueue (s : State) (p : PartId) (q : QueueId) (f : Queue → Queue) (x : PortId) : portAt (modQueue s p q f) x = portAt s x := rfl

/-! ### Parts read through an update of their own kind -/

@[simp] theorem coreAt_modCore_self (s : State) (c : CoreId) (f : Core → Core) : coreAt (modCore s c f) c = f (coreAt s c) := by
  simp [coreAt, modCore]
theorem coreAt_modCore_ne (s : State) {c x : CoreId} (f : Core → Core) (h : x ≠ c) : coreAt (modCore s c f) x = coreAt s x := by
  simp [coreAt, modCore, get_vPut_ne _ _ h]
theorem coreAt_modCore (s : State) (c x : CoreId) (f : Core → Core) :
    coreAt (modCore s c f) x = if x = c then f (coreAt s c) else coreAt s x := by
  simp [coreAt, modCore, get_vPut]
@[simp] theorem coreCtx_putCtx_self (k : Core) (j : CtxId) (t : Ctx) : coreCtx (putCtx k j t) j = t := by
  simp [coreCtx, putCtx]
theorem coreCtx_putCtx_ne (k : Core) {j x : CtxId} (t : Ctx) (h : x ≠ j) : coreCtx (putCtx k j t) x = coreCtx k x := by
  simp [coreCtx, putCtx, get_vPut_ne _ _ h]
theorem coreCtx_putCtx (k : Core) (j x : CtxId) (t : Ctx) : coreCtx (putCtx k j t) x = if x = j then t else coreCtx k x := by
  simp [coreCtx, putCtx, get_vPut]
@[simp] theorem ctxAt_modCore_self (s : State) (c : CoreId) (j : CtxId) (f : Core → Core) :
    ctxAt (modCore s c f) c j = coreCtx (f (coreAt s c)) j := by
  simp [ctxAt]
theorem ctxAt_modCore_ne (s : State) {c x : CoreId} (j : CtxId) (f : Core → Core) (h : x ≠ c) :
    ctxAt (modCore s c f) x j = ctxAt s x j := by
  simp [ctxAt, coreAt_modCore_ne _ _ h]
@[simp] theorem ctxAt_modCtx_self (s : State) (c : CoreId) (j : CtxId) (f : Ctx → Ctx) :
    ctxAt (modCtx s c j f) c j = f (ctxAt s c j) := by
  simp [ctxAt, modCtx]
theorem ctxAt_modCtx_ne (s : State) {c x : CoreId} {j y : CtxId} (f : Ctx → Ctx) (h : x ≠ c ∨ y ≠ j) :
    ctxAt (modCtx s c j f) x y = ctxAt s x y := by
  by_cases hx : x = c
  · subst hx
    simp [ctxAt, modCtx, coreCtx_putCtx_ne _ _ (h.resolve_left fun e => e rfl)]
  · simp [modCtx, ctxAt_modCore_ne _ _ _ hx]
@[simp] theorem coreAt_modCtx_self (s : State) (c : CoreId) (j : CtxId) (f : Ctx → Ctx) :
    coreAt (modCtx s c j f) c = putCtx (coreAt s c) j (f (ctxAt s c j)) := by
  simp [modCtx, ctxAt]
theorem coreAt_modCtx_ne (s : State) {c x : CoreId} (j : CtxId) (f : Ctx → Ctx) (h : x ≠ c) :
    coreAt (modCtx s c j f) x = coreAt s x := by
  simp [modCtx, coreAt_modCore_ne _ _ h]
@[simp] theorem clusterAt_modCluster_self (s : State) (g : ClusterId) (f : Cluster → Cluster) :
    clusterAt (modCluster s g f) g = f (clusterAt s g) := by
  simp [clusterAt, modCluster]
theorem clusterAt_modCluster_ne (s : State) {g x : ClusterId} (f : Cluster → Cluster) (h : x ≠ g) :
    clusterAt (modCluster s g f) x = clusterAt s x := by
  simp [clusterAt, modCluster, get_vPut_ne _ _ h]
@[simp] theorem engineAt_modEngine_self (s : State) (g : ClusterId) (f : Engine → Engine) :
    engineAt (modEngine s g f) g = f (engineAt s g) := by
  simp [engineAt, modEngine]
theorem engineAt_modEngine_ne (s : State) {g x : ClusterId} (f : Engine → Engine) (h : x ≠ g) :
    engineAt (modEngine s g f) x = engineAt s x := by
  simp [engineAt, modEngine, clusterAt_modCluster_ne _ _ h]
@[simp] theorem dieAt_modDie_self (s : State) (d : DieId) (f : Die → Die) : dieAt (modDie s d f) d = f (dieAt s d) := by
  simp [dieAt, modDie]
theorem dieAt_modDie_ne (s : State) {d x : DieId} (f : Die → Die) (h : x ≠ d) : dieAt (modDie s d f) x = dieAt s x := by
  simp [dieAt, modDie, get_vPut_ne _ _ h]
@[simp] theorem portAt_modPort_self (s : State) (p : PortId) (f : Port → Port) : portAt (modPort s p f) p = f (portAt s p) := by
  simp [portAt, modPort]
theorem portAt_modPort_ne (s : State) {p x : PortId} (f : Port → Port) (h : x ≠ p) :
    portAt (modPort s p f) x = portAt s x := by
  simp [portAt, modPort, get_vPut_ne _ _ h]
@[simp] theorem hub_modHub (s : State) (f : Hub → Hub) : (modHub s f).hub = f s.hub := rfl
@[simp] theorem queueAt_modQueue_self (s : State) (p : PartId) (q : QueueId) (f : Queue → Queue) :
    queueAt (modQueue s p q f) p q = f (queueAt s p q) := by
  simp [queueAt, modQueue]
theorem queueAt_modQueue_ne (s : State) {p x : PartId} {q y : QueueId} (f : Queue → Queue) (h : x ≠ p ∨ y ≠ q) :
    queueAt (modQueue s p q f) x y = queueAt s x y := by
  by_cases hx : x = p
  · subst hx
    simp [queueAt, modQueue, get_vPut_ne _ _ (h.resolve_left fun e => e rfl)]
  · simp [queueAt, modQueue, get_vPut_ne _ _ hx]

/-! ### A core's own fields under an update of a context -/

@[simp] theorem putCtx_v (k : Core) (j : CtxId) (t : Ctx) : (putCtx k j t).v = k.v := rfl
@[simp] theorem putCtx_m (k : Core) (j : CtxId) (t : Ctx) : (putCtx k j t).m = k.m := rfl
@[simp] theorem putCtx_streams (k : Core) (j : CtxId) (t : Ctx) : (putCtx k j t).streams = k.streams := rfl
@[simp] theorem putCtx_lcore (k : Core) (j : CtxId) (t : Ctx) : (putCtx k j t).lcore = k.lcore := rfl
@[simp] theorem putCtx_lclus (k : Core) (j : CtxId) (t : Ctx) : (putCtx k j t).lclus = k.lclus := rfl
@[simp] theorem putCtx_domcl (k : Core) (j : CtxId) (t : Ctx) : (putCtx k j t).domcl = k.domcl := rfl
@[simp] theorem putCtx_domdie (k : Core) (j : CtxId) (t : Ctx) : (putCtx k j t).domdie = k.domdie := rfl
@[simp] theorem putCtx_dompkg (k : Core) (j : CtxId) (t : Ctx) : (putCtx k j t).dompkg = k.dompkg := rfl
@[simp] theorem putCtx_phase (k : Core) (j : CtxId) (t : Ctx) : (putCtx k j t).phase = k.phase := rfl
@[simp] theorem putCtx_allow (k : Core) (j : CtxId) (t : Ctx) : (putCtx k j t).allow = k.allow := rfl
@[simp] theorem putCtx_bmask (k : Core) (j : CtxId) (t : Ctx) : (putCtx k j t).bmask = k.bmask := rfl
@[simp] theorem putCtx_qsent (k : Core) (j : CtxId) (t : Ctx) : (putCtx k j t).qsent = k.qsent := rfl
@[simp] theorem putCtx_qrecv (k : Core) (j : CtxId) (t : Ctx) : (putCtx k j t).qrecv = k.qrecv := rfl
@[simp] theorem putCtx_peermask (k : Core) (j : CtxId) (t : Ctx) : (putCtx k j t).peermask = k.peermask := rfl
@[simp] theorem putCtx_bwph (k : Core) (j : CtxId) (t : Ctx) : (putCtx k j t).bwph = k.bwph := rfl
@[simp] theorem putCtx_bwfloor (k : Core) (j : CtxId) (t : Ctx) : (putCtx k j t).bwfloor = k.bwfloor := rfl
@[simp] theorem putCtx_kcfg (k : Core) (j : CtxId) (t : Ctx) : (putCtx k j t).kcfg = k.kcfg := rfl
@[simp] theorem putCtx_kretry (k : Core) (j : CtxId) (t : Ctx) : (putCtx k j t).kretry = k.kretry := rfl
@[simp] theorem putCtx_door (k : Core) (j : CtxId) (t : Ctx) : (putCtx k j t).door = k.door := rfl
@[simp] theorem putCtx_ienab (k : Core) (j : CtxId) (t : Ctx) : (putCtx k j t).ienab = k.ienab := rfl
@[simp] theorem putCtx_tcmp (k : Core) (j : CtxId) (t : Ctx) : (putCtx k j t).tcmp = k.tcmp := rfl
@[simp] theorem putCtx_arr (k : Core) (j : CtxId) (t : Ctx) : (putCtx k j t).arr = k.arr := rfl
@[simp] theorem putCtx_ready (k : Core) (j : CtxId) (t : Ctx) : (putCtx k j t).ready = k.ready := rfl
@[simp] theorem putCtx_vote (k : Core) (j : CtxId) (t : Ctx) : (putCtx k j t).vote = k.vote := rfl
@[simp] theorem putCtx_resAnd (k : Core) (j : CtxId) (t : Ctx) : (putCtx k j t).resAnd = k.resAnd := rfl
@[simp] theorem putCtx_resOr (k : Core) (j : CtxId) (t : Ctx) : (putCtx k j t).resOr = k.resOr := rfl
@[simp] theorem putCtx_start (k : Core) (j : CtxId) (t : Ctx) : (putCtx k j t).start = k.start := rfl
@[simp] theorem putCtx_arrStamp (k : Core) (j : CtxId) (t : Ctx) : (putCtx k j t).arrStamp = k.arrStamp := rfl
@[simp] theorem putCtx_genMembers (k : Core) (j : CtxId) (t : Ctx) : (putCtx k j t).genMembers = k.genMembers := rfl
@[simp] theorem putCtx_rings (k : Core) (j : CtxId) (t : Ctx) : (putCtx k j t).rings = k.rings := rfl
@[simp] theorem putCtx_grant (k : Core) (j : CtxId) (t : Ctx) : (putCtx k j t).grant = k.grant := rfl
@[simp] theorem putCtx_l1k (k : Core) (j : CtxId) (t : Ctx) : (putCtx k j t).l1k = k.l1k := rfl
@[simp] theorem putCtx_array (k : Core) (j : CtxId) (t : Ctx) : (putCtx k j t).array = k.array := rfl
@[simp] theorem putCtx_arrayPoison (k : Core) (j : CtxId) (t : Ctx) : (putCtx k j t).arrayPoison = k.arrayPoison := rfl
@[simp] theorem putCtx_l1 (k : Core) (j : CtxId) (t : Ctx) : (putCtx k j t).l1 = k.l1 := rfl
@[simp] theorem putCtx_l1Poison (k : Core) (j : CtxId) (t : Ctx) : (putCtx k j t).l1Poison = k.l1Poison := rfl
@[simp] theorem putCtx_stamp (k : Core) (j : CtxId) (t : Ctx) : (putCtx k j t).stamp = k.stamp := rfl
@[simp] theorem putCtx_releases (k : Core) (j : CtxId) (t : Ctx) : (putCtx k j t).releases = k.releases := rfl
@[simp] theorem putCtx_icache (k : Core) (j : CtxId) (t : Ctx) : (putCtx k j t).icache = k.icache := rfl
@[simp] theorem putCtx_fetchPoison (k : Core) (j : CtxId) (t : Ctx) : (putCtx k j t).fetchPoison = k.fetchPoison := rfl
@[simp] theorem putCtx_power (k : Core) (j : CtxId) (t : Ctx) : (putCtx k j t).power = k.power := rfl
@[simp] theorem putCtx_lastUse (k : Core) (j : CtxId) (t : Ctx) : (putCtx k j t).lastUse = k.lastUse := rfl
@[simp] theorem putCtx_team (k : Core) (j : CtxId) (t : Ctx) : (putCtx k j t).team = k.team := rfl
@[simp] theorem putCtx_everBound (k : Core) (j : CtxId) (t : Ctx) : (putCtx k j t).everBound = k.everBound := rfl
@[simp] theorem putCtx_slot (k : Core) (j : CtxId) (t : Ctx) : (putCtx k j t).slot = k.slot := rfl
@[simp] theorem putCtx_finished (k : Core) (j : CtxId) (t : Ctx) : (putCtx k j t).finished = k.finished := rfl
@[simp] theorem putCtx_stage (k : Core) (j : CtxId) (t : Ctx) : (putCtx k j t).stage = k.stage := rfl
@[simp] theorem putCtx_stageDone (k : Core) (j : CtxId) (t : Ctx) : (putCtx k j t).stageDone = k.stageDone := rfl
@[simp] theorem putCtx_stopReq (k : Core) (j : CtxId) (t : Ctx) : (putCtx k j t).stopReq = k.stopReq := rfl
@[simp] theorem putCtx_frozen (k : Core) (j : CtxId) (t : Ctx) : (putCtx k j t).frozen = k.frozen := rfl
@[simp] theorem putCtx_leaseSaved (k : Core) (j : CtxId) (t : Ctx) : (putCtx k j t).leaseSaved = k.leaseSaved := rfl
@[simp] theorem putCtx_paused (k : Core) (j : CtxId) (t : Ctx) : (putCtx k j t).paused = k.paused := rfl
@[simp] theorem putCtx_temp (k : Core) (j : CtxId) (t : Ctx) : (putCtx k j t).temp = k.temp := rfl
@[simp] theorem putCtx_hot (k : Core) (j : CtxId) (t : Ctx) : (putCtx k j t).hot = k.hot := rfl
@[simp] theorem putCtx_last (k : Core) (j : CtxId) (t : Ctx) : (putCtx k j t).last = k.last := rfl
@[simp] theorem putCtx_cycles (k : Core) (j : CtxId) (t : Ctx) : (putCtx k j t).cycles = k.cycles := rfl
@[simp] theorem putCtx_traceCyc (k : Core) (j : CtxId) (t : Ctx) : (putCtx k j t).traceCyc = k.traceCyc := rfl
@[simp] theorem putCtx_dbg (k : Core) (j : CtxId) (t : Ctx) : (putCtx k j t).dbg = k.dbg := rfl

end Sys2Proof.Machine
end

