-- ==== Sys2Proof/Laws/Ops.lean ====
section
/-! SUPPORT. What the shared operations of a context can do: register reads after register writes, the trace record, the queue
step, and how an instruction ends. The provers cite these instead of unfolding. -/

namespace Sys2Proof.Machine

/-! ### Registers -/

theorem xreg_putX (t : Ctx) (d r : Reg) (v : Word) :
    xreg (putX t d v) r = if r = d then (if d = 0#5 then 0#64 else v) else xreg t r := by
  by_cases hd : d = 0#5
  · by_cases hr : r = d
    · subst hr; simp [xreg, hd]
    · simp [putX, hd]
      intro h; exact absurd (h.trans hd.symm) hr
  · by_cases hr : r = d
    · subst hr; simp [xreg, putX, hd]
    · have hf : r.toFin ≠ d.toFin := fun e => hr (BitVec.eq_of_toFin_eq e)
      simp [xreg, putX, hd, hr, get_vPut_ne _ _ hf]
theorem xreg_eq_of_x {t u : Ctx} (h : u.x = t.x) (r : Reg) : xreg u r = xreg t r := by simp [xreg, h]
/-- The context that `writeX` leaves. -/
theorem ctxAt_writeX (s : State) (c : CoreId) (j : CtxId) (d : Reg) (lat : Nat) (v : Word) :
    ctxAt (writeX s c j d lat v) c j =
      if d = 0#5 then ctxAt s c j
      else putX (setDue (ctxAt s c j) d.toNat ((xreg (ctxAt s c j) d).setWidth 512) lat) d v := by
  by_cases hd : d = 0#5 <;> simp [writeX, hd]
theorem ctxAt_writeX_ne (s : State) {c x : CoreId} {j y : CtxId} (d : Reg) (lat : Nat) (v : Word) (h : x ≠ c ∨ y ≠ j) :
    ctxAt (writeX s c j d lat v) x y = ctxAt s x y := by
  by_cases hd : d = 0#5
  · simp [writeX, hd]
  · simp [writeX, hd, ctxAt_modCtx_ne _ _ h]
theorem coreAt_writeX_ne (s : State) {c x : CoreId} (j : CtxId) (d : Reg) (lat : Nat) (v : Word) (h : x ≠ c) :
    coreAt (writeX s c j d lat v) x = coreAt s x := by
  by_cases hd : d = 0#5
  · simp [writeX, hd]
  · simp [writeX, hd, coreAt_modCtx_ne _ _ _ h]
/-- What a register holds after `writeX`. -/
theorem xreg_writeX (s : State) (c : CoreId) (j : CtxId) (d r : Reg) (lat : Nat) (v : Word) :
    xreg (ctxAt (writeX s c j d lat v) c j) r =
      if r = d then (if d = 0#5 then 0#64 else v) else xreg (ctxAt s c j) r := by
  rw [ctxAt_writeX]
  by_cases hd : d = 0#5
  · by_cases hr : r = d
    · subst hr; simp [hd, xreg]
    · simp [hd]
      intro h; exact absurd (h.trans hd.symm) hr
  · simp [hd, xreg_putX]
    split <;> simp [xreg, setDue]

/-! ### The trace record (R359) -/

theorem homeWrite_cores (s : State) (pa : Nat) (bs : List Byte) : (homeWrite s pa bs).cores = s.cores := by
  unfold homeWrite touchSlice; split <;> rfl
theorem foldl_cores {α : Type} (f : State → α → State) (h : ∀ s a, (f s a).cores = s.cores) (l : List α) (s : State) :
    (l.foldl f s).cores = s.cores := by
  induction l generalizing s with
  | nil => rfl
  | cons a l ih => rw [List.foldl_cons, ih, h]
theorem traceWrite_cores (s : State) (d : DieId) (bs : List Byte) : (traceWrite s d bs).cores = s.cores := by
  unfold traceWrite
  simp only []
  split
  · rfl
  · rw [modDie_cores, foldl_cores]
    intro s a; exact homeWrite_cores _ _ _
theorem homeWrite_cur (s : State) (pa : Nat) (bs : List Byte) : (homeWrite s pa bs).cur = s.cur := by
  unfold homeWrite touchSlice; split <;> rfl
theorem foldl_cur {α : Type} (f : State → α → State) (h : ∀ s a, (f s a).cur = s.cur) (l : List α) (s : State) :
    (l.foldl f s).cur = s.cur := by
  induction l generalizing s with
  | nil => rfl
  | cons a l ih => rw [List.foldl_cons, ih, h]
theorem traceWrite_cur (s : State) (d : DieId) (bs : List Byte) : (traceWrite s d bs).cur = s.cur := by
  unfold traceWrite
  simp only []
  split
  · rfl
  · rw [modDie_cur, foldl_cur]
    intro s a; exact homeWrite_cur _ _ _
/-- A core that is not traced writes no record. -/
theorem traceIssue_untraced (s : State) (c : CoreId) (j : CtxId) (p : Nat) (h : traced s c = false) :
    traceIssue s c j p = s := by
  have h' : (!traced s c) = true := by rw [h]; rfl
  exact if_pos h'
theorem ctxAt_congr {s u : State} (h : s.cores = u.cores) (x : CoreId) (y : CtxId) : ctxAt s x y = ctxAt u x y := by
  show coreCtx (s.cores.get x) y = coreCtx (u.cores.get x) y
  rw [h]
/-- The note of a trace record changes a context's `lastPc` only. -/
theorem ctxAt_note (s : State) (c x : CoreId) (j y : CtxId) (pc : Word) :
    ∃ l, ctxAt (modCtx (modCore s c noteCycle) c j (notePc pc)) x y = { ctxAt s x y with lastPc := l } := by
  by_cases h : x = c ∧ y = j
  · obtain ⟨rfl, rfl⟩ := h
    rw [ctxAt_modCtx_self, ctxAt_modCore_self]
    exact ⟨some pc, rfl⟩
  · have h' : x ≠ c ∨ y ≠ j := by
      by_cases hx : x = c
      · exact .inr fun e => h ⟨hx, e⟩
      · exact .inl hx
    rw [ctxAt_modCtx_ne _ _ h']
    refine ⟨(ctxAt s x y).lastPc, ?_⟩
    by_cases hx : x = c
    · subst hx
      rw [ctxAt_modCore_self]
      rfl
    · rw [ctxAt_modCore_ne _ _ _ hx]
/-- A trace record changes a context's `lastPc` only. -/
theorem ctxAt_traceIssue (s : State) (c x : CoreId) (j y : CtxId) (p : Nat) :
    ∃ l, ctxAt (traceIssue s c j p) x y = { ctxAt s x y with lastPc := l } := by
  unfold traceIssue
  simp only []
  split
  · exact ⟨(ctxAt s x y).lastPc, rfl⟩
  · obtain ⟨l, e⟩ := ctxAt_note
      (if (ctxAt s c j).lastPc.isSome && _ && _ then traceWrite s (coreDie c) _ else traceWrite s (coreDie c) _) c x j y
      (ctxAt s c j).pc.addr
    refine ⟨l, e.trans ?_⟩
    split <;> rw [ctxAt_congr (traceWrite_cores _ _ _)]
theorem traceIssue_cur (s : State) (c : CoreId) (j : CtxId) (p : Nat) : (traceIssue s c j p).cur = s.cur := by
  unfold traceIssue
  simp only []
  split
  · rfl
  · rw [modCtx_cur, modCore_cur]
    split <;> exact traceWrite_cur _ _ _

/-! ### The queue step (R115) -/

/-- What consuming a header can do: nothing, or, in U mode, a region that begins. -/
theorem consumeHeader_cases (s : State) (c : CoreId) (j : CtxId) :
    consumeHeader s c j = s ∨ ∃ live st due later, consumeHeader s c j = modCtx s c j (regionStart live st due later) ∧
      stPriv (ctxAt s c j) = false := by
  unfold consumeHeader
  split
  · next h =>
    have hp : stPriv (ctxAt s c j) = false := by
      unfold headerReached at h
      simp at h
      exact h.1.1
    exact .inr ⟨_, _, _, _, rfl, hp⟩
  · exact .inl rfl
theorem modCore_id (s : State) (c : CoreId) : modCore s c (fun k => k) = s := by
  simp [modCore, vPut, Vector.get_eq_getElem]
theorem modCtx_id (s : State) (c : CoreId) (j : CtxId) : modCtx s c j id = s := by
  have e (k : Core) : putCtx k j (id (coreCtx k j)) = k := by simp [putCtx, vPut, coreCtx, Vector.get_eq_getElem]
  simp only [modCtx, e, modCore_id]
/-- Consuming a header changes one context alone. -/
theorem consumeHeader_eq (s : State) (c : CoreId) (j : CtxId) : ∃ f, consumeHeader s c j = modCtx s c j f := by
  rcases consumeHeader_cases s c j with h | ⟨_, _, _, _, h, -⟩
  · exact ⟨id, h.trans (modCtx_id s c j).symm⟩
  · exact ⟨_, h⟩
/-- The context after a header. -/
theorem ctxAt_consumeHeader (s : State) (c : CoreId) (j : CtxId) :
    ctxAt (consumeHeader s c j) c j = ctxAt s c j ∨ ∃ live st due later,
      ctxAt (consumeHeader s c j) c j = regionStart live st due later (ctxAt s c j) ∧ stPriv (ctxAt s c j) = false := by
  rcases consumeHeader_cases s c j with h | ⟨live, st, due, later, h, hp⟩ <;> rw [h]
  · exact .inl rfl
  · exact .inr ⟨live, st, due, later, ctxAt_modCtx_self _ _ _ _, hp⟩
theorem consumeHeader_cur (s : State) (c : CoreId) (j : CtxId) : (consumeHeader s c j).cur = s.cur := by
  obtain ⟨f, h⟩ := consumeHeader_eq s c j; rw [h]; rfl
theorem advance_cur (s : State) (c : CoreId) (j : CtxId) (stl : Stl) (tk : Option Word) (sk : Bool) (post : Ctx → Ctx) :
    (advance s c j stl tk sk post).cur = s.cur := by
  unfold advance
  exact consumeHeader_cur _ _ _

/-- The context after the queue step, but for what a region start writes. -/
structure Stepped (t u : Ctx) (stl : Stl) (skip : Bool) : Prop where
  pc     : u.pc = t.npc
  npc    : u.npc = t.nnpc
  nul    : u.nul = if skip then 3#2 else t.nul >>> 1
  cyc    : u.cyc = t.cyc + 1 + stl.toNat
  x      : u.x = t.x
  fflags : u.fflags = t.fflags
  cvtovf : u.cvtovf = t.cvtovf
  srkey  : u.srkey = t.srkey
  srctr  : u.srctr = t.srctr
  run    : u.run = t.run
  sbuf   : u.sbuf = t.sbuf
  epc    : u.epc = t.epc
  enpc   : u.enpc = t.enpc
  ennpc  : u.ennpc = t.ennpc
  enul   : u.enul = t.enul
  ecause : u.ecause = t.ecause
  eval   : u.eval = t.eval
  tvec   : u.tvec = t.tvec
  sscratch : u.sscratch = t.sscratch
  elc    : u.elc = t.elc
  elblk  : u.elblk = t.elblk
  erst   : u.erst = t.erst
  asid   : u.asid = t.asid
  root   : u.root = t.root
  exitVal : u.exitVal = t.exitVal
  openJobs : u.openJobs = t.openJobs
  batches : u.batches = t.batches
  trapDue : u.trapDue = t.trapDue
  trapLit : u.trapLit = t.trapLit
  bankqSel : u.bankqSel = t.bankqSel
  wait   : u.wait = .none

/-- The context after the queue step: as `queueStep` leaves it, but for a region that begins. -/
theorem ctxAt_advance (s : State) (c : CoreId) (j : CtxId) (stl : Stl) (tk : Option Word) (sk : Bool) (post : Ctx → Ctx) :
    let t := post (queueStep (nextEntry s c j tk) (if sk then 3#2 else (ctxAt s c j).nul >>> 1) stl (ctxAt s c j))
    ctxAt (advance s c j stl tk sk post) c j = t ∨ ∃ live st due later,
      ctxAt (advance s c j stl tk sk post) c j = regionStart live st due later t ∧ stPriv t = false := by
  intro t
  have e := ctxAt_modCtx_self s c j
    fun t => post (queueStep (nextEntry s c j tk) (if sk then 3#2 else (ctxAt s c j).nul >>> 1) stl t)
  have f : ctxAt (modCore (modCtx s c j fun t =>
      post (queueStep (nextEntry s c j tk) (if sk then 3#2 else (ctxAt s c j).nul >>> 1) stl t)) c
      (countCycles (1 + Config.stallCycles s.free))) c j = t := (ctxAt_modCore_self _ _ _ _).trans e
  rcases ctxAt_consumeHeader (modCore (modCtx s c j fun t =>
      post (queueStep (nextEntry s c j tk) (if sk then 3#2 else (ctxAt s c j).nul >>> 1) stl t)) c
      (countCycles (1 + Config.stallCycles s.free))) c j with h | ⟨live, st, due, later, h, hp⟩
  · exact .inl (h.trans f)
  · rw [f] at h hp
    exact .inr ⟨live, st, due, later, h, hp⟩
/-- What the queue step of R115 does to its context. -/
theorem advance_stepped (s : State) (c : CoreId) (j : CtxId) (stl : Stl) (tk : Option Word) (sk : Bool) :
    Stepped (ctxAt s c j) (ctxAt (advance s c j stl tk sk id) c j) stl sk := by
  rcases ctxAt_advance s c j stl tk sk id with h | ⟨_, _, _, _, h, -⟩ <;> rw [h] <;> constructor <;> rfl
/-- Where the next entry of the queue comes from. -/
theorem advance_nnpc (s : State) (c : CoreId) (j : CtxId) (stl : Stl) (tk : Option Word) (sk : Bool) :
    (ctxAt (advance s c j stl tk sk id) c j).nnpc = (nextEntry s c j tk).1 := by
  rcases ctxAt_advance s c j stl tk sk id with h | ⟨_, _, _, _, h, -⟩ <;> rw [h] <;> rfl

/-! ### What the queue step leaves alone -/

theorem consumeHeader_clusters (s : State) (c : CoreId) (j : CtxId) : (consumeHeader s c j).clusters = s.clusters := by
  obtain ⟨f, h⟩ := consumeHeader_eq s c j; rw [h]; rfl
@[simp] theorem advance_clusters (s : State) (c : CoreId) (j : CtxId) (stl : Stl) (tk : Option Word) (sk : Bool) (post : Ctx → Ctx) :
    (advance s c j stl tk sk post).clusters = s.clusters := (consumeHeader_clusters _ _ _).trans rfl
theorem consumeHeader_dies (s : State) (c : CoreId) (j : CtxId) : (consumeHeader s c j).dies = s.dies := by
  obtain ⟨f, h⟩ := consumeHeader_eq s c j; rw [h]; rfl
@[simp] theorem advance_dies (s : State) (c : CoreId) (j : CtxId) (stl : Stl) (tk : Option Word) (sk : Bool) (post : Ctx → Ctx) :
    (advance s c j stl tk sk post).dies = s.dies := (consumeHeader_dies _ _ _).trans rfl
theorem consumeHeader_ports (s : State) (c : CoreId) (j : CtxId) : (consumeHeader s c j).ports = s.ports := by
  obtain ⟨f, h⟩ := consumeHeader_eq s c j; rw [h]; rfl
@[simp] theorem advance_ports (s : State) (c : CoreId) (j : CtxId) (stl : Stl) (tk : Option Word) (sk : Bool) (post : Ctx → Ctx) :
    (advance s c j stl tk sk post).ports = s.ports := (consumeHeader_ports _ _ _).trans rfl
theorem consumeHeader_hub (s : State) (c : CoreId) (j : CtxId) : (consumeHeader s c j).hub = s.hub := by
  obtain ⟨f, h⟩ := consumeHeader_eq s c j; rw [h]; rfl
@[simp] theorem advance_hub (s : State) (c : CoreId) (j : CtxId) (stl : Stl) (tk : Option Word) (sk : Bool) (post : Ctx → Ctx) :
    (advance s c j stl tk sk post).hub = s.hub := (consumeHeader_hub _ _ _).trans rfl
theorem consumeHeader_parts (s : State) (c : CoreId) (j : CtxId) : (consumeHeader s c j).parts = s.parts := by
  obtain ⟨f, h⟩ := consumeHeader_eq s c j; rw [h]; rfl
@[simp] theorem advance_parts (s : State) (c : CoreId) (j : CtxId) (stl : Stl) (tk : Option Word) (sk : Bool) (post : Ctx → Ctx) :
    (advance s c j stl tk sk post).parts = s.parts := (consumeHeader_parts _ _ _).trans rfl
theorem consumeHeader_dieMap (s : State) (c : CoreId) (j : CtxId) : (consumeHeader s c j).dieMap = s.dieMap := by
  obtain ⟨f, h⟩ := consumeHeader_eq s c j; rw [h]; rfl
@[simp] theorem advance_dieMap (s : State) (c : CoreId) (j : CtxId) (stl : Stl) (tk : Option Word) (sk : Bool) (post : Ctx → Ctx) :
    (advance s c j stl tk sk post).dieMap = s.dieMap := (consumeHeader_dieMap _ _ _).trans rfl
theorem consumeHeader_mem (s : State) (c : CoreId) (j : CtxId) : (consumeHeader s c j).mem = s.mem := by
  obtain ⟨f, h⟩ := consumeHeader_eq s c j; rw [h]; rfl
@[simp] theorem advance_mem (s : State) (c : CoreId) (j : CtxId) (stl : Stl) (tk : Option Word) (sk : Bool) (post : Ctx → Ctx) :
    (advance s c j stl tk sk post).mem = s.mem := (consumeHeader_mem _ _ _).trans rfl
theorem consumeHeader_owner (s : State) (c : CoreId) (j : CtxId) : (consumeHeader s c j).owner = s.owner := by
  obtain ⟨f, h⟩ := consumeHeader_eq s c j; rw [h]; rfl
@[simp] theorem advance_owner (s : State) (c : CoreId) (j : CtxId) (stl : Stl) (tk : Option Word) (sk : Bool) (post : Ctx → Ctx) :
    (advance s c j stl tk sk post).owner = s.owner := (consumeHeader_owner _ _ _).trans rfl
theorem consumeHeader_lrr (s : State) (c : CoreId) (j : CtxId) : (consumeHeader s c j).lrr = s.lrr := by
  obtain ⟨f, h⟩ := consumeHeader_eq s c j; rw [h]; rfl
@[simp] theorem advance_lrr (s : State) (c : CoreId) (j : CtxId) (stl : Stl) (tk : Option Word) (sk : Bool) (post : Ctx → Ctx) :
    (advance s c j stl tk sk post).lrr = s.lrr := (consumeHeader_lrr _ _ _).trans rfl
theorem consumeHeader_poison (s : State) (c : CoreId) (j : CtxId) : (consumeHeader s c j).poison = s.poison := by
  obtain ⟨f, h⟩ := consumeHeader_eq s c j; rw [h]; rfl
@[simp] theorem advance_poison (s : State) (c : CoreId) (j : CtxId) (stl : Stl) (tk : Option Word) (sk : Bool) (post : Ctx → Ctx) :
    (advance s c j stl tk sk post).poison = s.poison := (consumeHeader_poison _ _ _).trans rfl
theorem consumeHeader_cxl (s : State) (c : CoreId) (j : CtxId) : (consumeHeader s c j).cxl = s.cxl := by
  obtain ⟨f, h⟩ := consumeHeader_eq s c j; rw [h]; rfl
@[simp] theorem advance_cxl (s : State) (c : CoreId) (j : CtxId) (stl : Stl) (tk : Option Word) (sk : Bool) (post : Ctx → Ctx) :
    (advance s c j stl tk sk post).cxl = s.cxl := (consumeHeader_cxl _ _ _).trans rfl
theorem consumeHeader_boot (s : State) (c : CoreId) (j : CtxId) : (consumeHeader s c j).boot = s.boot := by
  obtain ⟨f, h⟩ := consumeHeader_eq s c j; rw [h]; rfl
@[simp] theorem advance_boot (s : State) (c : CoreId) (j : CtxId) (stl : Stl) (tk : Option Word) (sk : Bool) (post : Ctx → Ctx) :
    (advance s c j stl tk sk post).boot = s.boot := (consumeHeader_boot _ _ _).trans rfl
theorem consumeHeader_held (s : State) (c : CoreId) (j : CtxId) : (consumeHeader s c j).held = s.held := by
  obtain ⟨f, h⟩ := consumeHeader_eq s c j; rw [h]; rfl
@[simp] theorem advance_held (s : State) (c : CoreId) (j : CtxId) (stl : Stl) (tk : Option Word) (sk : Bool) (post : Ctx → Ctx) :
    (advance s c j stl tk sk post).held = s.held := (consumeHeader_held _ _ _).trans rfl
theorem consumeHeader_ns (s : State) (c : CoreId) (j : CtxId) : (consumeHeader s c j).ns = s.ns := by
  obtain ⟨f, h⟩ := consumeHeader_eq s c j; rw [h]; rfl
@[simp] theorem advance_ns (s : State) (c : CoreId) (j : CtxId) (stl : Stl) (tk : Option Word) (sk : Bool) (post : Ctx → Ctx) :
    (advance s c j stl tk sk post).ns = s.ns := (consumeHeader_ns _ _ _).trans rfl
theorem consumeHeader_agenda (s : State) (c : CoreId) (j : CtxId) : (consumeHeader s c j).agenda = s.agenda := by
  obtain ⟨f, h⟩ := consumeHeader_eq s c j; rw [h]; rfl
@[simp] theorem advance_agenda (s : State) (c : CoreId) (j : CtxId) (stl : Stl) (tk : Option Word) (sk : Bool) (post : Ctx → Ctx) :
    (advance s c j stl tk sk post).agenda = s.agenda := (consumeHeader_agenda _ _ _).trans rfl
theorem consumeHeader_turn (s : State) (c : CoreId) (j : CtxId) : (consumeHeader s c j).turn = s.turn := by
  obtain ⟨f, h⟩ := consumeHeader_eq s c j; rw [h]; rfl
@[simp] theorem advance_turn (s : State) (c : CoreId) (j : CtxId) (stl : Stl) (tk : Option Word) (sk : Bool) (post : Ctx → Ctx) :
    (advance s c j stl tk sk post).turn = s.turn := (consumeHeader_turn _ _ _).trans rfl
theorem consumeHeader_bg (s : State) (c : CoreId) (j : CtxId) : (consumeHeader s c j).bg = s.bg := by
  obtain ⟨f, h⟩ := consumeHeader_eq s c j; rw [h]; rfl
@[simp] theorem advance_bg (s : State) (c : CoreId) (j : CtxId) (stl : Stl) (tk : Option Word) (sk : Bool) (post : Ctx → Ctx) :
    (advance s c j stl tk sk post).bg = s.bg := (consumeHeader_bg _ _ _).trans rfl
theorem consumeHeader_next (s : State) (c : CoreId) (j : CtxId) : (consumeHeader s c j).next = s.next := by
  obtain ⟨f, h⟩ := consumeHeader_eq s c j; rw [h]; rfl
@[simp] theorem advance_next (s : State) (c : CoreId) (j : CtxId) (stl : Stl) (tk : Option Word) (sk : Bool) (post : Ctx → Ctx) :
    (advance s c j stl tk sk post).next = s.next := (consumeHeader_next _ _ _).trans rfl
theorem consumeHeader_free (s : State) (c : CoreId) (j : CtxId) : (consumeHeader s c j).free = s.free := by
  obtain ⟨f, h⟩ := consumeHeader_eq s c j; rw [h]; rfl
@[simp] theorem advance_free (s : State) (c : CoreId) (j : CtxId) (stl : Stl) (tk : Option Word) (sk : Bool) (post : Ctx → Ctx) :
    (advance s c j stl tk sk post).free = s.free := (consumeHeader_free _ _ _).trans rfl
theorem ctxAt_advance_ne (s : State) {c x : CoreId} {j y : CtxId} (stl : Stl) (tk : Option Word) (sk : Bool) (post : Ctx → Ctx)
    (h : x ≠ c ∨ y ≠ j) : ctxAt (advance s c j stl tk sk post) x y = ctxAt s x y := by
  have key : ∀ n : State, ctxAt n x y = ctxAt s x y → ctxAt (consumeHeader n c j) x y = ctxAt s x y := by
    intro n e
    rcases consumeHeader_cases n c j with q | ⟨_, _, _, _, q, -⟩ <;> rw [q]
    · exact e
    · exact (ctxAt_modCtx_ne _ _ h).trans e
  refine key _ ?_
  by_cases hx : x = c
  · subst hx
    refine (ctxAt_modCore_self _ _ _ _).trans ?_
    exact ctxAt_modCtx_ne _ _ h
  · exact (ctxAt_modCore_ne _ _ _ hx).trans (ctxAt_modCtx_ne _ _ h)
theorem coreAt_advance_ne (s : State) {c x : CoreId} (j : CtxId) (stl : Stl) (tk : Option Word) (sk : Bool) (post : Ctx → Ctx)
    (h : x ≠ c) : coreAt (advance s c j stl tk sk post) x = coreAt s x := by
  have key : ∀ n : State, coreAt n x = coreAt s x → coreAt (consumeHeader n c j) x = coreAt s x := by
    intro n e
    rcases consumeHeader_cases n c j with q | ⟨_, _, _, _, q, -⟩ <;> rw [q]
    · exact e
    · exact (coreAt_modCtx_ne _ _ _ h).trans e
  exact key _ ((coreAt_modCore_ne _ _ h).trans (coreAt_modCtx_ne _ _ _ h))
/-- A core with other contexts and another cycle count. -/
def withCtxs (k : Core) (cs : Vector Ctx 11) (n : Nat) : Core := { k with ctxs := cs, cycles := n }
theorem putCtx_withCtxs (k : Core) (cs : Vector Ctx 11) (n : Nat) (j : CtxId) (t : Ctx) :
    putCtx (withCtxs k cs n) j t = withCtxs k (putCtx (withCtxs k cs n) j t).ctxs n := rfl
/-- Of its core the queue step writes the contexts and the cycle count. -/
theorem coreAt_advance (s : State) (c : CoreId) (j : CtxId) (stl : Stl) (tk : Option Word) (sk : Bool) (post : Ctx → Ctx) :
    ∃ cs n, coreAt (advance s c j stl tk sk post) c = withCtxs (coreAt s c) cs n := by
  have key : ∀ n : State, (∃ cs m, coreAt n c = withCtxs (coreAt s c) cs m) →
      ∃ cs m, coreAt (consumeHeader n c j) c = withCtxs (coreAt s c) cs m := by
    intro n ⟨cs, m, e⟩
    rcases consumeHeader_cases n c j with q | ⟨_, _, _, _, q, -⟩ <;> rw [q]
    · exact ⟨cs, m, e⟩
    · exact ⟨_, m, (coreAt_modCtx_self n c j _).trans ((congrArg (fun k => putCtx k j _) e).trans (putCtx_withCtxs _ _ _ _ _))⟩
  let post' : Ctx → Ctx := fun t => post (queueStep (nextEntry s c j tk) (if sk then 3#2 else (ctxAt s c j).nul >>> 1) stl t)
  refine key _ ⟨(putCtx (coreAt s c) j (post' (ctxAt s c j))).ctxs, (coreAt s c).cycles + (1 + Config.stallCycles s.free), ?_⟩
  exact (coreAt_modCore_self _ _ _).trans (congrArg (countCycles _) (coreAt_modCtx_self s c j post'))

/-! ### How an instruction ends -/

/-- Every instruction answers a next state, whatever stops it. -/
theorem instr_next (s : State) (stl : Stl) (port : Nat) (rs : List Nat) (body : CoreId → CtxId → Act) :
    ∃ u, instr s stl port rs body = .next u := ⟨_, rfl⟩
/-- Without an underrun an instruction is its body. -/
theorem instr_body (s : State) (stl : Stl) (port : Nat) (rs : List Nat) (body : CoreId → CtxId → Act)
    (h : NoUnderrun s rs) : instr s stl port rs body = finish s stl port (body s.cur.1 s.cur.2) := by
  unfold instr
  simp only []
  rcases h with h | h <;> unfold curCtx at h
  · split
    · next hs => simp [h] at hs
    · rfl
  · simp [h]
/-- An underrun under SCHK = 1 raises Stall Underrun, and the instruction has no effect. -/
theorem instr_underrun (s : State) (stl : Stl) (port : Nat) (rs : List Nat) (body : CoreId → CtxId → Act) (r : Nat)
    (hs : stSchk (ctxAt s s.cur.1 s.cur.2) = true) (h : earlyRead (ctxAt s s.cur.1 s.cur.2) rs = some r) :
    instr s stl port rs body =
      .next (raiseTrap s s.cur.1 s.cur.2 (valTrap .stallUnderrun (BitVec.ofNat 64 r))) := by
  unfold instr
  simp [h, hs, finish, endState]
/-- An instruction whose body is done answers a next state in which its context has made the queue step. -/
theorem finish_done (s s' : State) (stl : Stl) (port : Nat) :
    ∃ t, finish s stl port (.done s') = .next t ∧
      Stepped (ctxAt s' s.cur.1 s.cur.2) (ctxAt t s.cur.1 s.cur.2) stl false := by
  refine ⟨_, rfl, ?_⟩
  obtain ⟨l, e⟩ := ctxAt_traceIssue s' s.cur.1 s.cur.1 s.cur.2 s.cur.2 port
  have h := advance_stepped (traceIssue s' s.cur.1 s.cur.2 port) s.cur.1 s.cur.2 stl none false
  rw [e] at h
  exact ⟨h.pc, h.npc, h.nul, h.cyc, h.x, h.fflags, h.cvtovf, h.srkey, h.srctr, h.run, h.sbuf, h.epc, h.enpc, h.ennpc, h.enul,
    h.ecause, h.eval, h.tvec, h.sscratch, h.elc, h.elblk, h.erst, h.asid, h.root, h.exitVal, h.openJobs, h.batches, h.trapDue,
    h.trapLit, h.bankqSel, h.wait⟩

/-! ### How statements say it -/

theorem coreAt_eq_ctx {s u : State} {c : CoreId} (h : coreAt u c = coreAt s c) (j : CtxId) : ctxAt u c j = ctxAt s c j := by
  simp [ctxAt, h]
theorem putCtx_putCtx (k : Core) (j : CtxId) (t u : Ctx) : putCtx (putCtx k j t) j u = putCtx k j u := by
  simp [putCtx, vPut]
theorem modCore_modCore (s : State) (c : CoreId) (f g : Core → Core) :
    modCore (modCore s c f) c g = modCore s c fun k => g (f k) := by
  simp [modCore, vPut, Vector.get_eq_getElem]
theorem modCore_congr {c : CoreId} (s : State) {f : Core → Core} (g : Core → Core) (h : f (coreAt s c) = g (coreAt s c)) :
    modCore s c f = modCore s c g := by
  have h' : f (s.cores.get c) = g (s.cores.get c) := h
  unfold modCore
  rw [h']
/-- The queue step as one update of its core. -/
theorem advance_eq (s : State) (c : CoreId) (j : CtxId) (stl : Stl) (tk : Option Word) (sk : Bool) (post : Ctx → Ctx) :
    ∃ n, advance s c j stl tk sk post =
      modCore s c (passedCore j (ctxAt (advance s c j stl tk sk post) c j) n) := by
  have key : ∀ (m : Nat) (t : Ctx) (u : State), u = modCore s c (passedCore j t m) →
      consumeHeader u c j = modCore s c (passedCore j (ctxAt (consumeHeader u c j) c j) m) := by
    intro m t u e
    rcases consumeHeader_cases u c j with q | ⟨_, _, _, _, q, -⟩ <;> rw [q]
    · subst e
      rw [ctxAt, coreAt_modCore_self]
      refine modCore_congr _ _ ?_
      simp [passedCore, putCtx, coreCtx]
    · rw [ctxAt_modCtx_self]
      subst e
      refine (modCore_modCore s c _ _).trans (modCore_congr _ _ ?_)
      simp [passedCore, putCtx, vPut, ctxAt, coreCtx]
  let t := post (queueStep (nextEntry s c j tk) (if sk then 3#2 else (ctxAt s c j).nul >>> 1) stl (ctxAt s c j))
  refine ⟨(coreAt s c).cycles + (1 + Config.stallCycles s.free), key _ t _ ?_⟩
  exact (modCore_modCore s c _ _).trans (modCore_congr _ _ rfl)
/-- While no loop is active the loop state does not move (R114). -/
theorem seqOf_unlooped (s : State) (c : CoreId) (j : CtxId) (lc lblk : Word) (q : QSlot) (h : loopOn lblk = false) :
    (seqOf s c j lc lblk q).2 = (lc, lblk) := by
  unfold seqOf
  simp only [h, Bool.false_and, Bool.false_eq_true, if_false]
  generalize q.addr + _ = a
  split <;> rfl
/-- The queue step, for a statement: `post` leaves the queue, the cycles and the region alone. -/
theorem advance_passed (s : State) (c : CoreId) (j : CtxId) (stl : Stl) (tk : Option Word) (sk : Bool) :
    Passed (ctxAt s c j) (ctxAt (advance s c j stl tk sk id) c j) stl (if sk then 3#2 else (ctxAt s c j).nul >>> 1) := by
  have lp : loopOn (ctxAt s c j).lblk = false →
      (nextEntry s c j tk).2.1 = (ctxAt s c j).lc ∧ (nextEntry s c j tk).2.2 = (ctxAt s c j).lblk := by
    intro h
    unfold nextEntry
    cases tk with
    | some a => simp [h]
    | none =>
      have q := seqOf_unlooped s c j (ctxAt s c j).lc _ (ctxAt s c j).nnpc h
      exact ⟨congrArg Prod.fst q, congrArg Prod.snd q⟩
  have st := advance_stepped s c j stl tk sk
  rcases ctxAt_advance s c j stl tk sk id with h | ⟨live, str, due, later, h, hp⟩ <;> rw [h] at st ⊢
  · exact ⟨st.pc, st.npc, st.nul, st.cyc, lp, .inl ⟨rfl, rfl, rfl, rfl, rfl, rfl, rfl, rfl, rfl, rfl⟩, rfl⟩
  · refine ⟨st.pc, st.npc, st.nul, st.cyc, lp, .inr ⟨hp, rfl, rfl, rfl, rfl, rfl, rfl, rfl, rfl, fun q => ?_⟩, rfl⟩
    exact ((Bool.and_eq_true _ _).mp q).1

theorem traced_of_dies {s u : State} (h : u.dies = s.dies) (c : CoreId) : traced u c = traced s c := by
  simp [traced, dieAt, h]

/-- Two states in which a context reads the same code: what a fetch depends on. -/
structure SameCode (s u : State) (c : CoreId) (j : CtxId) : Prop where
  mem    : u.mem = s.mem
  owner  : u.owner = s.owner
  dies   : u.dies = s.dies
  parts  : u.parts = s.parts
  dieMap : u.dieMap = s.dieMap
  cxl    : u.cxl = s.cxl
  free   : u.free = s.free
  l1     : ∀ x, (coreAt u x).l1 = (coreAt s x).l1
  icache : (coreAt u c).icache = (coreAt s c).icache
  priv   : stPriv (ctxAt u c j) = stPriv (ctxAt s c j)
  asid   : (ctxAt u c j).asid = (ctxAt s c j).asid
  root   : (ctxAt u c j).root = (ctxAt s c j).root
section
variable {s u : State} {c : CoreId} {j : CtxId} (h : SameCode s u c j)
include h
theorem SameCode.readEntry (pa : Nat) : readEntry u pa = readEntry s pa := by
  unfold Machine.readEntry filledByte homeByte l1Byte l1Line
  simp only [h.mem, h.owner, h.l1]
theorem SameCode.walkFrom (va : Word) (f lvl table : Nat) : walkFrom u va f lvl table = walkFrom s va f lvl table := by
  induction f generalizing lvl table with
  | zero => rfl
  | succ f ih => simp only [Machine.walkFrom, h.readEntry, ih]
theorem SameCode.cached (d : DieId) (asid : BitVec 9) (k : AccKind) (p : Bool) (va : Word) :
    cached u d asid k p va = cached s d asid k p va := by
  unfold Machine.cached hitBelow dieAt
  simp only [h.dies, h.walkFrom]
theorem SameCode.translate (d : DieId) (asid : BitVec 9) (root : BitVec 35) (k : AccKind) (p : Bool) (va : Word) :
    translate u d asid root k p va = translate s d asid root k p va := by
  unfold Machine.translate leafFor pickCached walk backed
  simp only [h.cached, h.free, h.walkFrom, h.cxl]
theorem SameCode.fetchAt (va : Word) : fetchAt u c j va = fetchAt s c j va := by
  have sh : shapeCores u (coreDie c) = shapeCores s (coreDie c) := by
    unfold shapeCores partOfDie diePos
    rw [h.parts, h.dieMap]
  have pl : place u (whoOf u c j) .fetch va 4 4 = place s (whoOf s c j) .fetch va 4 4 := by
    unfold place placeAt whoOf
    simp only [h.priv, h.asid, h.root, h.translate]
    split
    · rfl
    · split
      · rfl
      · simp
      · simp
      · simp
      · rfl
  unfold Machine.fetchAt
  rw [pl]
  unfold pathWord homeNat homeBytes
  simp only [h.mem, h.icache, h.free]
theorem SameCode.peek (va : Word) : peek u c j va = peek s c j va := by
  unfold Machine.peek
  rw [h.fetchAt]
theorem SameCode.lenAt (a : Word) : lenAt u c j a = lenAt s c j a := by
  unfold Machine.lenAt
  rw [h.peek]
theorem SameCode.isHeader (a : Word) : isHeader u c j a = isHeader s c j a := by
  unfold Machine.isHeader
  rw [h.peek]
theorem SameCode.nextHeader (a : Word) : nextHeader u c j a = nextHeader s c j a := by
  unfold Machine.nextHeader
  rw [h.lenAt]
theorem SameCode.bodyEnd (a : Word) : bodyEnd u c j a = bodyEnd s c j a := by
  unfold Machine.bodyEnd
  rw [h.lenAt]
theorem SameCode.seqOf (lc lblk : Word) (q : QSlot) : seqOf u c j lc lblk q = seqOf s c j lc lblk q := by
  unfold Machine.seqOf
  simp only [h.peek, h.bodyEnd, h.nextHeader]
end
/-- A change of one context that leaves its identity alone. -/
theorem sameCode_modCtx (s : State) (c : CoreId) (j : CtxId) (f : Ctx → Ctx) (hp : (f (ctxAt s c j)).status = (ctxAt s c j).status)
    (ha : (f (ctxAt s c j)).asid = (ctxAt s c j).asid) (hr : (f (ctxAt s c j)).root = (ctxAt s c j).root) :
    SameCode s (modCtx s c j f) c j where
  mem := rfl
  owner := rfl
  dies := rfl
  parts := rfl
  dieMap := rfl
  cxl := rfl
  free := rfl
  l1 x := by
    by_cases e : x = c
    · subst e; rw [coreAt_modCtx_self]; rfl
    · rw [coreAt_modCtx_ne _ _ _ e]
  icache := by rw [coreAt_modCtx_self]; rfl
  priv := by rw [ctxAt_modCtx_self]; unfold stPriv; rw [hp]
  asid := by rw [ctxAt_modCtx_self]; exact ha
  root := by rw [ctxAt_modCtx_self]; exact hr
/-- The entry behind the queue, after the queue step. -/
theorem advance_seq (s : State) (c : CoreId) (j : CtxId) (stl : Stl) (tk : Option Word) (sk : Bool) :
    ((ctxAt (advance s c j stl tk sk id) c j).nnpc, (ctxAt (advance s c j stl tk sk id) c j).lc,
      (ctxAt (advance s c j stl tk sk id) c j).lblk) = nextEntry s c j tk := by
  rcases ctxAt_advance s c j stl tk sk id with h | ⟨_, _, _, _, h, -⟩ <;> rw [h] <;> rfl
/-- How an instruction that advances the queue ends. -/
theorem advance_ended (s e : State) (stl : Stl) (port : Nat) (tk : Option Word) (sk : Bool) (hc : e.cur = s.cur) :
    Ended e (advance (traceIssue e s.cur.1 s.cur.2 port) s.cur.1 s.cur.2 stl tk sk id) stl
      (if sk then 3#2 else (curCtx e).nul >>> 1) tk := by
  rw [← hc]
  have cur : (advance (traceIssue e e.cur.1 e.cur.2 port) e.cur.1 e.cur.2 stl tk sk id).cur = e.cur :=
    (advance_cur _ _ _ _ _ _ _).trans (traceIssue_cur _ _ _ _)
  refine ⟨cur, ?_, fun h => ?_, fun h => ?_⟩
  · have p := advance_passed (traceIssue e e.cur.1 e.cur.2 port) e.cur.1 e.cur.2 stl tk sk
    obtain ⟨l, q⟩ := ctxAt_traceIssue e e.cur.1 e.cur.1 e.cur.2 e.cur.2 port
    rw [q] at p
    unfold curCtx
    rw [cur]
    exact ⟨p.pc, p.npc, p.nul, p.cyc, p.loop, p.region, p.rest⟩
  · unfold curCtx
    rw [cur, traceIssue_untraced e _ _ _ h]
    exact advance_seq e e.cur.1 e.cur.2 stl tk sk
  · obtain ⟨n, q⟩ := advance_eq (traceIssue e e.cur.1 e.cur.2 port) e.cur.1 e.cur.2 stl tk sk id
    unfold curCtx
    rw [cur]
    refine ⟨n, q.trans ?_⟩
    rw [traceIssue_untraced e _ _ _ h]
/-- An instruction whose body is done completes with that effect. -/
theorem finish_completes (s e : State) (stl : Stl) (port : Nat) (hc : e.cur = s.cur) :
    ∃ u, finish s stl port (.done e) = .next u ∧ Ended e u stl ((curCtx e).nul >>> 1) none :=
  ⟨_, rfl, advance_ended s e stl port none false hc⟩
theorem finish_transfers (s e : State) (stl : Stl) (port : Nat) (h : Word) (hc : e.cur = s.cur) :
    ∃ u, finish s stl port (.jump e h) = .next u ∧ Ended e u stl ((curCtx e).nul >>> 1) (some h) ∧ (curCtx u).nnpc = ⟨h + 8#64, h⟩ := by
  refine ⟨_, rfl, advance_ended s e stl port (some h) false hc, ?_⟩
  unfold curCtx endState
  rw [advance_cur, traceIssue_cur, hc, advance_nnpc]
  unfold nextEntry
  simp only []
  split <;> rfl
theorem finish_skips (s e : State) (stl : Stl) (port : Nat) (hc : e.cur = s.cur) :
    ∃ u, finish s stl port (.skip e) = .next u ∧ Ended e u stl 3#2 none := ⟨_, rfl, advance_ended s e stl port none true hc⟩

/-! ### Results outstanding -/

def withDue (l : List Inflight) (t : Ctx) : Ctx := { t with inflight := l }
/-- Two states that differ in the outstanding results of the issuing context alone. -/
def DueOnly (e e' : State) : Prop := ∃ l, e' = onCtx e (withDue l)
theorem curCtx_onCtx (s : State) (f : Ctx → Ctx) : curCtx (onCtx s f) = f (curCtx s) := ctxAt_modCtx_self _ _ _ _
theorem Ended.of_due {e e' u : State} {stl : Stl} {nul : BitVec 2} {tk : Option Word} (d : DueOnly e e')
    (h : Ended e' u stl nul tk) : Ended e u stl nul tk := by
  obtain ⟨l, rfl⟩ := d
  have p := h.ctx
  rw [curCtx_onCtx] at p
  have hc : (onCtx e (withDue l)).cur = e.cur := rfl
  have sc : SameCode e (onCtx e (withDue l)) e.cur.1 e.cur.2 := sameCode_modCtx e _ _ _ rfl rfl rfl
  refine ⟨h.cur, ⟨p.pc, p.npc, p.nul, p.cyc, p.loop, p.region, p.rest⟩, fun ht => (h.next ht).trans ?_, fun ht => ?_⟩
  · have hx : ctxAt (onCtx e (withDue l)) e.cur.1 e.cur.2 = withDue l (ctxAt e e.cur.1 e.cur.2) := curCtx_onCtx e _
    rw [hc]
    unfold nextEntry
    rw [hx]
    cases tk with
    | some a => rfl
    | none => exact sc.seqOf _ _ _
  · obtain ⟨n, q⟩ := h.rest ht
    refine ⟨n, q.trans ?_⟩
    rw [hc]
    refine (modCore_modCore e e.cur.1 _ _).trans (modCore_congr _ _ ?_)
    simp [passedCore, putCtx, vPut]

theorem modCtx_modCtx (s : State) (c : CoreId) (j : CtxId) (f g : Ctx → Ctx) :
    modCtx (modCtx s c j f) c j g = modCtx s c j fun t => g (f t) := by
  unfold modCtx
  rw [modCore_modCore]
  refine modCore_congr _ _ ?_
  simp [putCtx, vPut, coreCtx, Vector.get_eq_getElem]
theorem modCtx_congr {c : CoreId} {j : CtxId} (s : State) {f : Ctx → Ctx} (g : Ctx → Ctx) (h : f (ctxAt s c j) = g (ctxAt s c j)) :
    modCtx s c j f = modCtx s c j g := by
  unfold modCtx
  refine modCore_congr _ _ ?_
  show putCtx _ _ (f (ctxAt s c j)) = putCtx _ _ (g (ctxAt s c j))
  rw [h]
theorem putX_withDue (t : Ctx) (l : List Inflight) (d : Reg) (v : Word) : putX (withDue l t) d v = withDue l (putX t d v) := by
  unfold putX withDue
  split <;> rfl
/-- A register write with a latency is the write and a note of when it is due. -/
theorem writeX_due (s : State) (d : Reg) (lat : Nat) (v : Word) :
    DueOnly (onCtx s fun t => putX t d v) (writeX s s.cur.1 s.cur.2 d lat v) := by
  by_cases hd : d = 0#5
  · refine ⟨(curCtx s).inflight, ?_⟩
    have e : (onCtx s fun t => putX t d v).cur = s.cur := rfl
    unfold onCtx
    rw [show (modCtx s s.cur.1 s.cur.2 fun t => putX t d v).cur = s.cur from rfl, modCtx_modCtx]
    unfold writeX
    rw [if_pos hd]
    have z : ∀ t : Ctx, putX t d v = t := fun t => if_pos hd
    simp only [z]
    exact (modCtx_id s _ _).symm.trans (modCtx_congr s (f := id) _ rfl)
  · refine ⟨(setDue (curCtx s) d.toNat ((xreg (curCtx s) d).setWidth 512) lat).inflight, ?_⟩
    unfold onCtx
    rw [show (modCtx s s.cur.1 s.cur.2 fun t => putX t d v).cur = s.cur from rfl, modCtx_modCtx]
    unfold writeX
    rw [if_neg hd]
    refine modCtx_congr s _ ?_
    exact putX_withDue (curCtx s) _ d v
/-- An instruction that has the effect `e` and writes one register. -/
theorem finish_writes_on (s e : State) (stl : Stl) (port : Nat) (d : Reg) (lat : Nat) (v : Word) (he : e.cur = s.cur) :
    ∃ u, finish s stl port (.done (writeX e s.cur.1 s.cur.2 d lat v)) = .next u ∧
      Ended (onCtx e fun t => putX t d v) u stl ((curCtx (onCtx e fun t => putX t d v)).nul >>> 1) none := by
  rw [← he]
  have due := writeX_due e d lat v
  have hc : (writeX e e.cur.1 e.cur.2 d lat v).cur = s.cur := by
    rw [← he]; unfold writeX; split <;> rfl
  have h := advance_ended s (writeX e e.cur.1 e.cur.2 d lat v) stl port none false hc
  have hn : (curCtx (writeX e e.cur.1 e.cur.2 d lat v)).nul = (curCtx (onCtx e fun t => putX t d v)).nul := by
    obtain ⟨l, e'⟩ := due
    rw [e', curCtx_onCtx]
    rfl
  rw [hn] at h
  exact ⟨_, rfl, h.of_due due⟩
/-- An instruction that writes one register. -/
theorem finish_writes (s : State) (stl : Stl) (port : Nat) (d : Reg) (lat : Nat) (v : Word) :
    ∃ u, finish s stl port (.done (writeX s s.cur.1 s.cur.2 d lat v)) = .next u ∧
      Ended (onCtx s fun t => putX t d v) u stl ((curCtx (onCtx s fun t => putX t d v)).nul >>> 1) none :=
  finish_writes_on s s stl port d lat v rfl
/-- A transfer that writes its link register. -/
theorem finish_links (s : State) (stl : Stl) (port : Nat) (d : Reg) (lat : Nat) (v h : Word) :
    ∃ u, finish s stl port (.jump (writeX s s.cur.1 s.cur.2 d lat v) h) = .next u ∧
      Ended (onCtx s fun t => putX t d v) u stl ((curCtx (onCtx s fun t => putX t d v)).nul >>> 1) (some h) ∧
      (curCtx u).nnpc = ⟨h + 8#64, h⟩ := by
  have due := writeX_due s d lat v
  have hc : (writeX s s.cur.1 s.cur.2 d lat v).cur = s.cur := by unfold writeX; split <;> rfl
  obtain ⟨u, hu, he, hn⟩ := finish_transfers s (writeX s s.cur.1 s.cur.2 d lat v) stl port h hc
  have hn' : (curCtx (writeX s s.cur.1 s.cur.2 d lat v)).nul = (curCtx (onCtx s fun t => putX t d v)).nul := by
    obtain ⟨l, e'⟩ := due
    rw [e', curCtx_onCtx]
    rfl
  rw [hn'] at he
  exact ⟨u, hu, he.of_due due, hn⟩
theorem alu2_writes (s : State) (stl : Stl) (lat : Nat) (d a b : Reg) (f : Word → Word → Word)
    (h : NoUnderrun s [nx a, nx b]) :
    ∃ u, alu2 s stl lat d a b f = .next u ∧
      Ended (onCtx s fun t => putX t d (f (readX s (curCtx s) a) (readX s (curCtx s) b))) u stl
        ((curCtx (onCtx s fun t => putX t d (f (readX s (curCtx s) a) (readX s (curCtx s) b)))).nul >>> 1) none := by
  unfold alu2
  rw [instr_body s stl 0 _ _ h]
  exact finish_writes s stl 0 d lat _
theorem alu1_writes (s : State) (stl : Stl) (d a : Reg) (f : Word → Word) (h : NoUnderrun s [nx a]) :
    ∃ u, alu1 s stl d a f = .next u ∧
      Ended (onCtx s fun t => putX t d (f (readX s (curCtx s) a))) u stl
        ((curCtx (onCtx s fun t => putX t d (f (readX s (curCtx s) a)))).nul >>> 1) none := by
  unfold alu1
  rw [instr_body s stl 0 _ _ h]
  exact finish_writes s stl 0 d 1 _
theorem onCtx_onCtx (s : State) (f g : Ctx → Ctx) : onCtx (onCtx s f) g = onCtx s fun t => g (f t) :=
  modCtx_modCtx s s.cur.1 s.cur.2 f g
/-- An FP result: its register and its flags. -/
theorem fpDone_writes (s e : State) (stl : Stl) (port : Nat) (d : Reg) (lat : Nat) (r : FRes) (he : e.cur = s.cur) :
    ∃ u, finish s stl port (fpDone e s.cur.1 s.cur.2 d lat r) = .next u ∧
      Ended (onCtx e fun t => putX { t with fflags := t.fflags ||| r.flags } d (BitVec.ofNat 64 r.bits)) u stl
        ((curCtx (onCtx e fun t => putX { t with fflags := t.fflags ||| r.flags } d (BitVec.ofNat 64 r.bits))).nul >>> 1) none := by
  have h := finish_writes_on s (onCtx e fun t => { t with fflags := t.fflags ||| r.flags }) stl port d lat
    (BitVec.ofNat 64 r.bits) he
  rw [onCtx_onCtx] at h
  have g : raiseFlags e s.cur.1 s.cur.2 r.flags = onCtx e fun t => { t with fflags := t.fflags ||| r.flags } := by
    rw [← he]; rfl
  unfold fpDone
  rw [g]
  exact h

/-! ### Loads that may be performed later (R84, R85; log 4) -/

/-- No late load shares a byte with the access: nothing is performed before it. -/
theorem performOverlaps_none {s : State} {c : CoreId} {j : CtxId} {p : Place} {n : Nat}
    (h : ((ctxAt s c j).late.any fun l => overlap p n l.place l.n) = false) : performOverlaps s c j p n = s := by
  simp [performOverlaps, h]
/-- One does: every late load of the context is performed first. -/
theorem performOverlaps_some {s : State} {c : CoreId} {j : CtxId} {p : Place} {n : Nat}
    (h : ((ctxAt s c j).late.any fun l => overlap p n l.place l.n) = true) : performOverlaps s c j p n = performAll s c j := by
  simp [performOverlaps, h]
/-- A load that issues is performed, or stands last among its context's late loads. -/
theorem issueLoad_cases (s : State) (c : CoreId) (j : CtxId) (p : Place) (n : Nat) (dest : LoadDest) :
    issueLoad s c j p n dest = loadPlain (performOverlaps s c j p n) c j p n ∨
      ∃ bs, issueLoad s c j p n dest =
        (modCtx (beforeRead (performOverlaps s c j p n) c j) c j fun t => { t with late := t.late ++ [⟨p, n, dest⟩] }, bs, false) := by
  rcases h : (Config.loadLater (performOverlaps s c j p n).free && !peekPoisoned (performOverlaps s c j p n) c p n) with _ | _
  · exact .inl (by simp only [issueLoad, h]; rfl)
  · exact .inr ⟨_, by simp only [issueLoad, h, if_true]; rfl⟩
/-- A load of poisoned bytes is performed as it issues. -/
theorem issueLoad_poisoned {s : State} {c : CoreId} {p : Place} {n : Nat} (j : CtxId) (dest : LoadDest)
    (h : peekPoisoned (performOverlaps s c j p n) c p n = true) :
    issueLoad s c j p n dest = loadPlain (performOverlaps s c j p n) c j p n := by
  simp [issueLoad, h]
/-- A load that is performed without poison issues without. -/
theorem issueLoad_clean {s : State} {c : CoreId} {j : CtxId} {p : Place} {n : Nat} (dest : LoadDest)
    (h : (loadPlain (performOverlaps s c j p n) c j p n).2.2 = false) : (issueLoad s c j p n dest).2.2 = false := by
  rcases issueLoad_cases s c j p n dest with e | ⟨bs, e⟩ <;> simp [e, h]

/-! What the issue of a word leaves of its context. -/
@[simp] theorem issued_x (t : Ctx) : (issued t).x = t.x := rfl
@[simp] theorem issued_pc (t : Ctx) : (issued t).pc = t.pc := rfl
@[simp] theorem issued_status (t : Ctx) : (issued t).status = t.status := rfl
@[simp] theorem issued_run (t : Ctx) : (issued t).run = t.run := rfl
@[simp] theorem issued_wait (t : Ctx) : (issued t).wait = t.wait := rfl
@[simp] theorem issued_sbuf (t : Ctx) : (issued t).sbuf = t.sbuf := rfl
@[simp] theorem issued_late (t : Ctx) : (issued t).late = t.late := rfl

end Sys2Proof.Machine
end

