-- ==== Sys2Proof/Laws/Memory.lean ====
section
/-! SUPPORT. Sparse maps: a read after a write, and the canonical form that every operation keeps; then that every operation of
the abstract machine keeps the homes in canonical form. -/

namespace Sys2Proof.Machine

/-! ### Sparse maps -/

section
variable {α : Type}

theorem risingFrom_mono {lo lo' : Nat} (h : lo' ≤ lo) (m : SMap α) (w : risingFrom lo m = true) : risingFrom lo' m = true := by
  cases m with
  | nil => rfl
  | cons e m =>
    simp only [risingFrom, Bool.and_eq_true, decide_eq_true_eq] at w ⊢
    exact ⟨le_trans h w.1, w.2⟩
/-- A key below a rising list is not in it. -/
theorem sGet_below (dflt : α) (m : SMap α) (lo a : Nat) (w : risingFrom lo m = true) (h : a < lo) : sGet dflt m a = dflt := by
  cases m with
  | nil => rfl
  | cons e m =>
    simp only [risingFrom, Bool.and_eq_true, decide_eq_true_eq] at w
    have h1 : a ≠ e.1 := by omega
    have h2 : a < e.1 := by omega
    simp [sGet, h1, h2]
theorem risingFrom_sIns (m : SMap α) (lo a : Nat) (x : α) (w : risingFrom lo m = true) (h : lo ≤ a) :
    risingFrom lo (sIns m a x) = true := by
  induction m generalizing lo with
  | nil => simp [sIns, risingFrom, h]
  | cons e m ih =>
    simp only [risingFrom, Bool.and_eq_true, decide_eq_true_eq] at w
    simp only [sIns]
    split
    · simp [risingFrom, w.1, w.2]
    · split
      · next h1 h2 =>
        simp only [risingFrom, Bool.and_eq_true, decide_eq_true_eq]
        exact ⟨h, by omega, w.2⟩
      · next h1 h2 =>
        simp only [risingFrom, Bool.and_eq_true, decide_eq_true_eq]
        exact ⟨w.1, ih (e.1 + 1) w.2 (by omega)⟩
theorem risingFrom_sDel (m : SMap α) (lo a : Nat) (w : risingFrom lo m = true) : risingFrom lo (sDel m a) = true := by
  induction m generalizing lo with
  | nil => rfl
  | cons e m ih =>
    have w' := w
    simp only [risingFrom, Bool.and_eq_true, decide_eq_true_eq] at w
    simp only [sDel]
    split
    · exact risingFrom_mono (Nat.le_succ_of_le w.1) m w.2
    · split
      · exact w'
      · simp only [risingFrom, Bool.and_eq_true, decide_eq_true_eq]
        exact ⟨w.1, ih (e.1 + 1) w.2⟩
theorem risingFrom_filter (m : SMap α) (p : Nat × α → Bool) (lo : Nat) (w : risingFrom lo m = true) :
    risingFrom lo (m.filter p) = true := by
  induction m generalizing lo with
  | nil => rfl
  | cons e m ih =>
    simp only [risingFrom, Bool.and_eq_true, decide_eq_true_eq] at w
    rw [List.filter_cons]
    split
    · simp only [risingFrom, Bool.and_eq_true, decide_eq_true_eq]
      exact ⟨w.1, ih _ w.2⟩
    · exact ih _ (risingFrom_mono (Nat.le_succ_of_le w.1) m w.2)
theorem mem_sIns (m : SMap α) (a : Nat) (x : α) (e : Nat × α) (h : e ∈ sIns m a x) : e = (a, x) ∨ e ∈ m := by
  induction m with
  | nil => simpa [sIns] using h
  | cons f m ih =>
    simp only [sIns] at h
    split at h
    · next hk => subst hk; rcases List.mem_cons.1 h with h | h
                 · exact .inl h
                 · exact .inr (.tail _ h)
    · split at h
      · rcases List.mem_cons.1 h with h | h
        · exact .inl h
        · exact .inr h
      · rcases List.mem_cons.1 h with h | h
        · exact .inr (h ▸ .head _)
        · exact (ih h).imp_right (.tail _)
theorem mem_sDel (m : SMap α) (a : Nat) (e : Nat × α) (h : e ∈ sDel m a) : e ∈ m := by
  induction m with
  | nil => exact h
  | cons f m ih =>
    simp only [sDel] at h
    split at h
    · exact .tail _ h
    · split at h
      · exact h
      · rcases List.mem_cons.1 h with h | h
        · exact h ▸ .head _
        · exact .tail _ (ih h)

variable [DecidableEq α]

theorem sWf_iff (dflt : α) (m : SMap α) : sWf dflt m = true ↔ risingFrom 0 m = true ∧ ∀ e ∈ m, e.2 ≠ dflt := by
  simp [sWf, List.all_eq_true]
/-- A write keeps the canonical form. -/
theorem sWf_sPut (dflt : α) (m : SMap α) (a : Nat) (x : α) (w : sWf dflt m = true) : sWf dflt (sPut dflt m a x) = true := by
  rw [sWf_iff] at w ⊢
  unfold sPut
  split
  · exact ⟨risingFrom_sDel m 0 a w.1, fun e h => w.2 e (mem_sDel m a e h)⟩
  · next hx =>
    refine ⟨risingFrom_sIns m 0 a x w.1 (Nat.zero_le _), fun e h => ?_⟩
    rcases mem_sIns m a x e h with rfl | h
    · exact hx
    · exact w.2 e h
theorem sWf_filter (dflt : α) (m : SMap α) (p : Nat × α → Bool) (w : sWf dflt m = true) : sWf dflt (m.filter p) = true := by
  rw [sWf_iff] at w ⊢
  exact ⟨risingFrom_filter m p 0 w.1, fun e h => w.2 e (List.mem_of_mem_filter h)⟩
omit [DecidableEq α] in
theorem sGet_sIns (dflt : α) (m : SMap α) (a b : Nat) (x : α) (lo : Nat) (w : risingFrom lo m = true) :
    sGet dflt (sIns m a x) b = if b = a then x else sGet dflt m b := by
  induction m generalizing lo with
  | nil =>
    simp only [sIns, sGet]
    split <;> [rfl; (split <;> rfl)]
  | cons e m ih =>
    simp only [risingFrom, Bool.and_eq_true, decide_eq_true_eq] at w
    simp only [sIns]
    split
    · next h => subst h; simp only [sGet]; split <;> rfl
    · split
      · next h1 h2 =>
        simp only [sGet]
        by_cases hb : b = a
        · simp [hb]
        · simp only [hb, if_false]
          split
          · have : b ≠ e.1 := by omega
            have : b < e.1 := by omega
            simp [*]
          · rfl
      · next h1 h2 =>
        simp only [sGet, ih _ w.2]
        by_cases hb : b = a
        · have : b ≠ e.1 := by omega
          have : ¬ b < e.1 := by omega
          simp [hb, h1, h2]
        · simp [hb]
omit [DecidableEq α] in
theorem sGet_sDel (dflt : α) (m : SMap α) (a b : Nat) (lo : Nat) (w : risingFrom lo m = true) :
    sGet dflt (sDel m a) b = if b = a then dflt else sGet dflt m b := by
  induction m generalizing lo with
  | nil => simp only [sDel, sGet]; split <;> rfl
  | cons e m ih =>
    obtain ⟨k, v⟩ := e
    simp only [risingFrom, Bool.and_eq_true, decide_eq_true_eq] at w
    simp only [sDel]
    split
    · next h =>
      subst h
      by_cases hb : b = a
      · subst hb; simp [sGet_below dflt m (b + 1) b w.2 (Nat.lt_succ_self _)]
      · simp only [sGet, hb, if_false]
        split
        · exact sGet_below dflt m (a + 1) b w.2 (by omega)
        · rfl
    · split
      · next h1 h2 =>
        by_cases hb : b = a
        · simp [sGet, hb, h1, h2]
        · simp [hb]
      · next h1 h2 =>
        simp only [sGet, ih _ w.2]
        by_cases hb : b = a
        · simp [hb, h1, h2]
        · simp [hb]
/-- A read after a write. -/
theorem sGet_sPut (dflt : α) (m : SMap α) (a b : Nat) (x : α) (w : sWf dflt m = true) :
    sGet dflt (sPut dflt m a x) b = if b = a then x else sGet dflt m b := by
  have r := ((sWf_iff dflt m).1 w).1
  unfold sPut
  split
  · next h => rw [sGet_sDel dflt m a b 0 r]; simp [h]
  · exact sGet_sIns dflt m a b x 0 r

end

theorem memWf_putBytes (m : SMap Byte) (a : Nat) (bs : List Byte) (w : memWf m = true) : memWf (putBytes m a bs) = true := by
  induction bs generalizing m a with
  | nil => exact w
  | cons b bs ih => exact ih _ _ (sWf_sPut 0#8 m a b w)
/-- What a byte map reads after consecutive bytes have been written. -/
theorem sGet_putBytes (m : SMap Byte) (a : Nat) (bs : List Byte) (b : Nat) (w : memWf m = true) :
    sGet 0#8 (putBytes m a bs) b = if a ≤ b ∧ b < a + bs.length then bs.getD (b - a) 0#8 else sGet 0#8 m b := by
  induction bs generalizing m a with
  | nil =>
    rw [if_neg (by simp)]
    rfl
  | cons x bs ih =>
    rw [putBytes, ih _ _ (sWf_sPut 0#8 m a x w), sGet_sPut _ _ _ _ _ w]
    by_cases h : b = a
    · subst h
      rw [if_neg (by omega), if_pos rfl, if_pos ⟨le_refl _, by simp⟩]
      simp
    · rw [if_neg h]
      by_cases h1 : a + 1 ≤ b ∧ b < a + 1 + bs.length
      · have h3 : b - a = (b - (a + 1)) + 1 := by omega
        rw [if_pos h1, if_pos ⟨by omega, by simp only [List.length_cons]; omega⟩, h3, List.getD_cons_succ]
      · rw [if_neg h1, if_neg (by simp only [List.length_cons]; omega)]
theorem length_leBytes (n v : Nat) : (leBytes n v).length = n := by
  induction n generalizing v with
  | zero => rfl
  | succ n ih => simp [leBytes, ih]
theorem memWf_foldPut (l : List (Nat × Byte)) (m : SMap Byte) (w : memWf m = true) :
    memWf (l.foldl (fun m b => sPut 0#8 m b.1 b.2) m) = true := by
  induction l generalizing m with
  | nil => exact w
  | cons b l ih => exact ih _ (sWf_sPut 0#8 m b.1 b.2 w)

/-! ### Operations that leave the homes alone -/

@[simp] theorem touchSlice_mem (s : State) (pa : Nat) : (touchSlice s pa).mem = s.mem := by unfold touchSlice; split <;> rfl
@[simp] theorem touchWeight_mem (s : State) (d : DieId) (o : Nat) : (touchWeight s d o).mem = s.mem := rfl

/-! ### Every operation of the abstract machine keeps the canonical form -/

theorem MemInv.of_mem {s t : State} (h : MemInv s) (e : t.mem = s.mem) : MemInv t := by unfold MemInv; rw [e]; exact h
theorem MemInv.modCore {s : State} (h : MemInv s) (c : CoreId) (f : Core → Core) : MemInv (modCore s c f) := h.of_mem rfl
theorem MemInv.modCtx {s : State} (h : MemInv s) (c : CoreId) (j : CtxId) (f : Ctx → Ctx) : MemInv (modCtx s c j f) := h.of_mem rfl
theorem MemInv.modDie {s : State} (h : MemInv s) (d : DieId) (f : Die → Die) : MemInv (modDie s d f) := h.of_mem rfl
theorem MemInv.modHub {s : State} (h : MemInv s) (f : Hub → Hub) : MemInv (modHub s f) := h.of_mem rfl
theorem MemInv.modCluster {s : State} (h : MemInv s) (g : ClusterId) (f : Cluster → Cluster) : MemInv (modCluster s g f) :=
  h.of_mem rfl
theorem MemInv.modEngine {s : State} (h : MemInv s) (g : ClusterId) (f : Engine → Engine) : MemInv (modEngine s g f) :=
  h.of_mem rfl
theorem MemInv.modPort {s : State} (h : MemInv s) (p : PortId) (f : Port → Port) : MemInv (modPort s p f) := h.of_mem rfl
theorem MemInv.foldl {α : Type} {f : State → α → State} (hf : ∀ s a, MemInv s → MemInv (f s a)) (l : List α) {s : State}
    (h : MemInv s) : MemInv (l.foldl f s) := by
  induction l generalizing s with
  | nil => exact h
  | cons a l ih => exact ih (hf s a h)
theorem MemInv.touchSlice {s : State} (h : MemInv s) (pa : Nat) : MemInv (touchSlice s pa) := h.of_mem (touchSlice_mem s pa)
theorem MemInv.touchWeight {s : State} (h : MemInv s) (d : DieId) (o : Nat) : MemInv (touchWeight s d o) := h.of_mem rfl
theorem MemInv.homeWrite {s : State} (h : MemInv s) (pa : Nat) (bs : List Byte) : MemInv (homeWrite s pa bs) :=
  memWf_putBytes _ _ _ (h.touchSlice pa)
theorem MemInv.writeBackLine {s : State} (h : MemInv s) (c : CoreId) (line : Nat) (lim : Option Nat) :
    MemInv (writeBackLine s c line lim) := by
  unfold Machine.writeBackLine
  simp only []
  split
  · exact h
  · split
    · exact h
    · exact memWf_foldPut _ _ (h.touchSlice _)
theorem MemInv.writeBackAll {s : State} (h : MemInv s) (c : CoreId) (lim : Option Nat) : MemInv (writeBackAll s c lim) :=
  h.foldl (fun _ line i => i.writeBackLine c line lim) _
theorem MemInv.invalidateClean {s : State} (h : MemInv s) (c : CoreId) : MemInv (invalidateClean s c) := h.of_mem rfl
theorem MemInv.recallLine {s : State} (h : MemInv s) (line : Nat) : MemInv (recallLine s line) := by
  unfold Machine.recallLine
  split
  · exact h
  · exact (h.writeBackLine _ _ _).of_mem rfl
theorem MemInv.recallOther {s : State} (h : MemInv s) (c : CoreId) (line : Nat) : MemInv (recallOther s c line) := by
  unfold Machine.recallOther
  split
  · exact h
  · split
    · exact h
    · exact h.recallLine _
theorem MemInv.leaveLine {s : State} (h : MemInv s) (c : CoreId) (line : Nat) : MemInv (leaveLine s c line) := by
  have i := h.writeBackLine c line none
  unfold Machine.leaveLine
  simp only []
  split
  · exact i.of_mem rfl
  · exact i.of_mem rfl
theorem MemInv.l1Enter {s : State} (h : MemInv s) (c : CoreId) (line : Nat) : MemInv (l1Enter s c line) := by
  have key : ∀ n : State, MemInv n → MemInv (match freeWay (coreAt n c) line with
      | none => n
      | some b => Machine.modCore n c fun k => touchBank { k with l1 := ⟨line, b, []⟩ :: k.l1 } n.ns b) := by
    intro n i
    split
    · exact i
    · exact i.modCore _ _
  unfold Machine.l1Enter
  simp only []
  split
  · exact h.modCore _ _
  · exact key _ (MemInv.foldl (fun _ _ i => i.leaveLine c _) _ h)
theorem MemInv.fillSector {s : State} (h : MemInv s) (c : CoreId) (pa : Nat) : MemInv (fillSector s c pa) :=
  (((h.recallOther c (pa / 256)).touchSlice pa).l1Enter c (pa / 256)).of_mem rfl
theorem MemInv.fillWeight {s : State} (h : MemInv s) (c : CoreId) (d : DieId) (off : Nat) : MemInv (fillWeight s c d off) :=
  ((h.touchWeight d off).l1Enter c _).of_mem rfl
theorem MemInv.arrayWrite {s : State} (h : MemInv s) (c : CoreId) (off : Nat) (bs : List Byte) : MemInv (arrayWrite s c off bs) :=
  h.of_mem rfl
theorem MemInv.releaseAt {s : State} (h : MemInv s) (c : CoreId) (sc : Scope) (line : Option Nat) : MemInv (releaseAt s c sc line) := by
  unfold Machine.releaseAt
  simp only []
  split <;> exact h.of_mem rfl
theorem MemInv.advanceStamp {s : State} (h : MemInv s) (c : CoreId) : MemInv (advanceStamp s c) := h.of_mem rfl
theorem MemInv.ite {s t : State} {b : Prop} [Decidable b] (h : MemInv s) (k : MemInv t) : MemInv (if b then s else t) := by
  split
  · exact h
  · exact k
theorem MemInv.drainMem {s : State} (h : MemInv s) (c : CoreId) (pa : Nat) (u : Bool) (bs : List Byte) :
    MemInv (drainMem s c pa u bs) := by
  unfold Machine.drainMem
  simp only []
  split
  · exact ((h.recallOther c _).homeWrite pa bs).of_mem rfl
  · exact ((h.recallOther c _).l1Enter c _).of_mem rfl
theorem MemInv.countStore {s : State} (h : MemInv s) (c d : CoreId) : MemInv (countStore s c d) := by
  unfold Machine.countStore
  split <;> exact h.of_mem rfl
theorem MemInv.drainItem {s : State} (h : MemInv s) (c : CoreId) (it : SbItem) : MemInv (drainItem s c it) := by
  rcases it with ⟨p, bs, rel, sc, counted, e⟩ | ⟨pred, succ, sc, e⟩
  · rcases p with ⟨pa, u⟩ | ⟨o, off⟩ | ⟨d, off⟩
    · unfold Machine.drainItem
      simp only []
      split
      · have w := ((h.writeBackAll c none).recallOther c (pa / 256)).homeWrite pa bs
        exact (w.ite (w.modCore _ _)).advanceStamp c
      · have w := h.drainMem c pa u bs
        exact w.ite ((w.releaseAt _ _ _).ite (w.advanceStamp _))
    · have key : ∀ n : State, MemInv n → MemInv (if counted then Machine.countStore n c o else n) :=
        fun n i => (i.countStore c o).ite i
      unfold Machine.drainItem
      simp only []
      have w := ((h.writeBackAll c none).ite (b := (rel && wide sc) = true) h).arrayWrite o off bs
      exact key _ ((w.advanceStamp c).ite w)
    · exact h
  · have key : ∀ n : State, MemInv n → MemInv (if wide sc && succ.getLsbD 0 then Machine.invalidateClean n c else n) := by
      intro n i
      split
      · exact i.invalidateClean c
      · exact i
    unfold Machine.drainItem
    simp only []
    refine key _ ?_
    split
    · exact h.writeBackAll _ _
    · exact h
theorem MemInv.settle {s : State} (h : MemInv s) (c : CoreId) (j : CtxId) (want : SbItem → Bool) : MemInv (settle s c j want) :=
  MemInv.foldl (fun _ it i => i.drainItem c it.1) _ (h.modCtx _ _ _)
theorem MemInv.drainAll {s : State} (h : MemInv s) (c : CoreId) (j : CtxId) : MemInv (drainAll s c j) := h.settle c j _
theorem MemInv.beforeRead {s : State} (h : MemInv s) (c : CoreId) (j : CtxId) : MemInv (beforeRead s c j) := h.settle c j _
theorem MemInv.loadNow {s : State} (b : MemInv s) (c : CoreId) (j : CtxId) (p : Place) (n : Nat) :
    MemInv (loadNow s c j p n).1 := by
  rcases p with ⟨a, _ | _⟩ | ⟨o, off⟩ | ⟨d, off⟩ <;> unfold Machine.loadNow <;> dsimp only
  · split
    · exact b.modCore _ _
    · exact b.fillSector _ _
  · exact (b.recallOther c _).touchSlice a
  · exact b.modCore _ _
  · split
    · exact b.modCore _ _
    · exact b.fillWeight _ _ _
theorem MemInv.loadPlain {s : State} (h : MemInv s) (c : CoreId) (j : CtxId) (p : Place) (n : Nat) :
    MemInv (loadPlain s c j p n).1 := (h.beforeRead c j).loadNow c j p n
theorem MemInv.acquireForce {s : State} (h : MemInv s) (c : CoreId) (sc : Scope) (line : Nat) : MemInv (acquireForce s c sc line) := by
  unfold Machine.acquireForce
  split
  · exact h
  · split
    · exact h.writeBackAll _ _
    · exact h
theorem MemInv.loadAcquire {s : State} (h : MemInv s) (c : CoreId) (j : CtxId) (sc : Scope) (p : Place) (n : Nat) :
    MemInv (loadAcquire s c j sc p n).1 := by
  unfold Machine.loadAcquire
  split
  · exact h.loadPlain c j p n
  · split
    · exact ((((h.settle c j _).acquireForce c sc _).recallOther c _ |>.touchSlice _).invalidateClean c).modCore _ _
    · exact ((h.settle c j _).modCore _ _).invalidateClean c
    · exact ((h.settle c j _).loadPlain c j _ n).invalidateClean c
theorem MemInv.own {s : State} (h : MemInv s) (c : CoreId) (line : Nat) : MemInv (own s c line) := by
  have key : MemInv (allCores.foldl (fun s q =>
      if q == c || (l1Line (coreAt s q) line).isNone then s
      else Machine.modCore (Machine.writeBackLine s q line none) q fun k => dropLine k line) (Machine.recallOther s c line)) := by
    refine MemInv.foldl (fun n q i => ?_) _ (h.recallOther c line)
    split
    · exact i
    · exact (i.writeBackLine _ _ _).modCore _ _
  unfold Machine.own MemInv
  dsimp only
  exact key
theorem MemInv.atomicAt {s : State} (h : MemInv s) (c : CoreId) (j : CtxId) (p : Place) (n : Nat) (far acq rel : Bool)
    (f : List Byte → Option (List Byte)) : MemInv (atomicAt s c j p n far acq rel f).1 := by
  have inv : ∀ n : State, MemInv n → MemInv (if acq then Machine.invalidateClean n c else n) := by
    intro n i; split
    · exact i.invalidateClean c
    · exact i
  have start : MemInv (if rel then Machine.drainAll s c j else Machine.settle s c j fun it => itemMeets p n it ||
      (match it with | .fence _ _ _ _ => true | _ => false)) := by
    split
    · exact h.drainAll c j
    · exact h.settle c j _
  unfold Machine.atomicAt
  revert start
  generalize (if rel then Machine.drainAll s c j else _) = s1
  intro start
  rcases p with ⟨a, u⟩ | ⟨o, off⟩ | ⟨d, off⟩ <;> simp only []
  · have acqd : MemInv (if acq then Machine.acquireForce s1 c .pkg (a / 256) else s1) := by
      split
      · exact start.acquireForce _ _ _
      · exact start
    revert acqd
    generalize (if acq then Machine.acquireForce s1 c .pkg (a / 256) else s1) = s2
    intro acqd
    generalize hn : (!far && !u && (coreAt s2 c).l1k != 0) = near
    have owned : MemInv (if near then Machine.fillSector (Machine.own s2 c (a / 256)) c a
        else Machine.touchSlice (Machine.modCore (Machine.recallLine (Machine.writeBackLine s2 c (a / 256) none) (a / 256)) c fun k => dropLine k (a / 256)) a) := by
      split
      · exact (acqd.own _ _).fillSector _ _
      · exact (((acqd.writeBackLine _ _ _).recallLine _).modCore _ _).touchSlice _
    revert owned
    generalize (if near then Machine.fillSector (Machine.own s2 c (a / 256)) c a else _) = s3
    intro owned
    generalize (if near then poisoned (coreAt s3 c).l1Poison a n else poisoned s3.poison a n) = bad
    cases bad
    case true => exact owned
    case false =>
      refine inv _ ?_
      have rl : ∀ n : State, MemInv n → MemInv (if rel then Machine.releaseAt n c .pkg (some (a / 256)) else n) := by
        intro n i; split
        · exact i.releaseAt _ _ _
        · exact i
      refine rl _ ?_
      split
      · exact owned
      · split
        · exact owned.modCore _ _
        · exact owned.homeWrite _ _
  · have wb : MemInv (if rel then Machine.writeBackAll s1 c none else s1) := by
      split
      · exact start.writeBackAll _ _
      · exact start
    revert wb
    generalize (if rel then Machine.writeBackAll s1 c none else s1) = s2
    intro wb
    split
    · exact wb.modCore _ _
    · refine inv _ ?_
      have st : ∀ n : State, MemInv n → MemInv (if rel then Machine.advanceStamp n c else n) :=
        fun n i => (i.advanceStamp c).ite i
      refine st _ ?_
      split
      · exact wb.modCore _ _
      · exact (wb.modCore _ _).arrayWrite _ _ _
  · exact start
theorem MemInv.engineRead {s : State} (h : MemInv s) (p : Place) (n : Nat) : MemInv (engineRead s p n).1 := by
  rcases p with ⟨a, u⟩ | ⟨o, off⟩ | ⟨d, off⟩
  · exact (h.recallLine _).touchSlice a
  · exact h.modCore _ _
  · exact h.touchWeight _ _
theorem MemInv.engineWrite {s : State} (h : MemInv s) (p : Place) (bs : List Byte) : MemInv (engineWrite s p bs) := by
  rcases p with ⟨a, u⟩ | ⟨o, off⟩ | ⟨d, off⟩
  · exact (h.recallLine _).homeWrite a bs
  · exact h.arrayWrite _ _ _
  · exact h
theorem MemInv.engineRelease {s : State} (h : MemInv s) (p : Place) (bs : List Byte) : MemInv (engineRelease s p bs) := by
  unfold Machine.engineRelease
  simp only []
  split
  · exact (h.engineWrite _ bs).of_mem rfl
  · exact h.engineWrite _ bs
theorem MemInv.engineAcquire {s : State} (h : MemInv s) (x : Stand) (line : Nat) : MemInv (engineAcquire s x line) := by
  unfold Machine.engineAcquire
  split
  · exact h
  · split
    · exact h.writeBackAll _ _
    · exact h
theorem MemInv.releaseStamp {s : State} (h : MemInv s) (c : CoreId) (j : CtxId) (sc : Scope) : MemInv (releaseStamp s c j sc).1 := by
  unfold Machine.releaseStamp
  simp only []
  exact ((h.drainAll c j).releaseAt _ _ _).ite ((h.drainAll c j).advanceStamp c)
theorem MemInv.hartSettle {s : State} (h : MemInv s) (x : Hart) (want : HartStore → Bool) : MemInv (hartSettle s x want) := by
  refine MemInv.foldl (fun _ e i => i.engineWrite e.place e.bytes) _ ?_
  cases x <;> exact h.of_mem rfl
theorem MemInv.hartWrite {s : State} (h : MemInv s) (x : Hart) (p : Place) (bs : List Byte) (job : Word32) :
    MemInv (hartWrite s x p bs job) := by
  unfold Machine.hartWrite
  have w := h.hartSettle x (hartMeets p bs.length)
  refine MemInv.ite ?_ (w.engineWrite p bs)
  cases x <;> exact w.of_mem rfl
theorem MemInv.hartRead {s : State} (h : MemInv s) (x : Hart) (p : Place) (n : Nat) : MemInv (hartRead s x p n).1 :=
  (h.hartSettle x _).engineRead p n
theorem MemInv.hartRelease {s : State} (h : MemInv s) (x : Hart) (p : Place) (bs : List Byte) : MemInv (hartRelease s x p bs) :=
  (h.hartSettle x _).engineRelease p bs
theorem MemInv.performLoad {s : State} (h : MemInv s) (c : CoreId) (j : CtxId) (l : LateLoad) : MemInv (performLoad s c j l) := by
  unfold Machine.performLoad
  refine MemInv.ite (h.loadNow c j _ _) ?_
  unfold Machine.putLoad
  split <;> exact (h.loadNow c j _ _).of_mem rfl
theorem MemInv.performAll {s : State} (h : MemInv s) (c : CoreId) (j : CtxId) : MemInv (performAll s c j) :=
  MemInv.foldl (fun _ e i => i.performLoad c j e) _ (h.modCtx _ _ _)
theorem MemInv.performOverlaps {s : State} (h : MemInv s) (c : CoreId) (j : CtxId) (p : Place) (n : Nat) :
    MemInv (performOverlaps s c j p n) := by
  unfold Machine.performOverlaps
  exact (h.performAll c j).ite h
theorem MemInv.issueLoad {s : State} (h : MemInv s) (c : CoreId) (j : CtxId) (p : Place) (n : Nat) (dest : LoadDest) :
    MemInv (issueLoad s c j p n dest).1 := by
  have h' := h.performOverlaps c j p n
  rcases issueLoad_cases s c j p n dest with e | ⟨bs, e⟩ <;> rw [e]
  · exact h'.loadPlain c j p n
  · dsimp only
    exact (h'.beforeRead c j).modCtx _ _ _
theorem MemInv.walkReads {s : State} (h : MemInv s) (va : Word) (f lvl table : Nat) : MemInv (walkReads va f s lvl table) := by
  induction f generalizing s lvl table with
  | zero => exact h
  | succ f ih =>
    have h' := (h.recallLine ((table + 8 * vaIndex lvl va) / 256)).touchSlice (table + 8 * vaIndex lvl va)
    unfold Machine.walkReads
    simp only []
    split
    · exact h'
    · exact ih h' _ _
theorem MemInv.walkedAt {s : State} (h : MemInv s) (d : DieId) (w : Who) (kind : AccKind) (va : Word) : MemInv (walkedAt s d w kind va) := by
  unfold Machine.walkedAt
  refine h.ite ?_
  split
  · exact h.walkReads va 4 _ _
  · exact h
theorem MemInv.traceWrite {s : State} (h : MemInv s) (d : DieId) (bs : List Byte) : MemInv (traceWrite s d bs) := by
  unfold Machine.traceWrite
  simp only []
  split
  · exact h.modDie _ _
  · exact (MemInv.foldl (fun _ i a => a.homeWrite _ _) _ h).modDie _ _
theorem MemInv.traceIssue {s : State} (h : MemInv s) (c : CoreId) (j : CtxId) (p : Nat) : MemInv (traceIssue s c j p) := by
  unfold Machine.traceIssue
  simp only []
  split
  · exact h
  · refine MemInv.modCtx (MemInv.modCore ?_ _ _) _ _ _
    split <;> exact h.traceWrite _ _
theorem MemInv.advance {s : State} (h : MemInv s) (c : CoreId) (j : CtxId) (stl : Stl) (tk : Option Word) (sk : Bool)
    (post : Ctx → Ctx) : MemInv (advance s c j stl tk sk post) := h.of_mem (advance_mem s c j stl tk sk post)
theorem memInv_reset : MemInv State.reset := rfl

theorem vPut_get {α : Type} {n : Nat} (v : Vector α n) (i : Fin n) : vPut v i (v.get i) = v := by simp [vPut, Vector.get_eq_getElem]
theorem putHartBuf_self (s : State) : ∀ h : Hart, putHartBuf s h (hartBuf s h) = s
  | .copy g | .matrix g => congrArg (fun v => { s with clusters := v }) (vPut_get s.clusters g)
  | .merge d => congrArg (fun v => { s with dies := v }) (vPut_get s.dies d)
  | .port p => congrArg (fun v => { s with ports := v }) (vPut_get s.ports p)
/-- A hart with nothing buffered has nothing to perform. -/
theorem hartFlush_nil {s : State} {h : Hart} (he : hartBuf s h = []) : hartFlush s h = s := by
  simpa [hartFlush, hartSettle, he] using putHartBuf_self s h
theorem flushHarts_nil {s : State} (he : ∀ h, hartBuf s h = []) : flushHarts s = s := by
  have go (l : List Hart) : l.foldl hartFlush s = s := by
    induction l with
    | nil => rfl
    | cons h t ih => rw [List.foldl_cons, hartFlush_nil (he h), ih]
  exact go _

end Sys2Proof.Machine
end

