-- ==== Sys2Proof/Tests/Slice0.lean ====
section
/-! SUPPORT. Tests: what the decoder reads, what WellFormed refuses, and for every statement a state and operands that meet its
hypotheses. Expected values come from the spec's words, examples and tables. -/

namespace Sys2Proof.Tests
open Sys2Proof Sys2Proof.Machine Sys2Proof.Claims
set_option Elab.async false

/-- The decoder reads the words as the instruction, with nothing left. -/
def decodesTo (ws : List Word32) (i : Instr) : Prop := decode (ws.flatMap bytesOfWord) = .ok (i, [])

/-- Words of the family laid out by the fields of spec/opcode_table.json, fixed bits in binary. -/
theorem test_decode_system :
    decodesTo [5#3 ++ 0b0000000000000000000000#22 ++ 0b0000000#7] (.nop 5#3) ∧
    decodesTo [5#3 ++ 0b0000000000#10 ++ 19#5 ++ 0b0000001#7 ++ 0b0000000#7] (.trap 5#3 19#5) ∧
    decodesTo [5#3 ++ 0b0000000000000000000010#22 ++ 0b0000000#7] (.eret 5#3) ∧
    decodesTo [5#3 ++ 0b0000000000000000000011#22 ++ 0b0000000#7] (.wfi 5#3) ∧
    decodesTo [5#3 ++ 0b00000#5 ++ 13#5 ++ 22#5 ++ 0b0000100#7 ++ 0b0000000#7] (.tlbinv 5#3 13#5 22#5) ∧
    decodesTo [5#3 ++ 0b00000#5 ++ 13#5 ++ 0b000000000101#12 ++ 0b0000000#7] (.cflush 5#3 13#5) ∧
    decodesTo [5#3 ++ 0b00000#5 ++ 13#5 ++ 0b000000000110#12 ++ 0b0000000#7] (.cinv 5#3 13#5) ∧
    decodesTo [5#3 ++ 0b0000000000000000000111#22 ++ 0b0000000#7] (.ifence 5#3) ∧
    decodesTo [5#3 ++ 0b0000000000000000001000#22 ++ 0b0000000#7] (.bkpt 5#3) :=
  ⟨rfl, rfl, rfl, rfl, rfl, rfl, rfl, rfl, rfl⟩

/-- Words of the family laid out by the fields of spec/opcode_table.json, fixed bits in binary. -/
theorem test_decode_scalar :
    decodesTo [5#3 ++ 6#5 ++ 13#5 ++ 22#5 ++ 0b0000000#7 ++ 0b0000001#7] (.add 5#3 6#5 13#5 22#5) ∧
    decodesTo [5#3 ++ 6#5 ++ 13#5 ++ 22#5 ++ 0b0000001#7 ++ 0b0000001#7] (.sub 5#3 6#5 13#5 22#5) ∧
    decodesTo [5#3 ++ 6#5 ++ 13#5 ++ 22#5 ++ 0b0000010#7 ++ 0b0000001#7] (.and 5#3 6#5 13#5 22#5) ∧
    decodesTo [5#3 ++ 6#5 ++ 13#5 ++ 22#5 ++ 0b0000011#7 ++ 0b0000001#7] (.or 5#3 6#5 13#5 22#5) ∧
    decodesTo [5#3 ++ 6#5 ++ 13#5 ++ 22#5 ++ 0b0000100#7 ++ 0b0000001#7] (.xor 5#3 6#5 13#5 22#5) ∧
    decodesTo [5#3 ++ 6#5 ++ 13#5 ++ 22#5 ++ 0b0000101#7 ++ 0b0000001#7] (.andn 5#3 6#5 13#5 22#5) ∧
    decodesTo [5#3 ++ 6#5 ++ 13#5 ++ 22#5 ++ 0b0000110#7 ++ 0b0000001#7] (.sll 5#3 6#5 13#5 22#5) ∧
    decodesTo [5#3 ++ 6#5 ++ 13#5 ++ 22#5 ++ 0b0000111#7 ++ 0b0000001#7] (.srl 5#3 6#5 13#5 22#5) ∧
    decodesTo [5#3 ++ 6#5 ++ 13#5 ++ 22#5 ++ 0b0001000#7 ++ 0b0000001#7] (.sra 5#3 6#5 13#5 22#5) ∧
    decodesTo [5#3 ++ 6#5 ++ 13#5 ++ 22#5 ++ 0b0001001#7 ++ 0b0000001#7] (.rol 5#3 6#5 13#5 22#5) ∧
    decodesTo [5#3 ++ 6#5 ++ 13#5 ++ 22#5 ++ 0b0001010#7 ++ 0b0000001#7] (.ror 5#3 6#5 13#5 22#5) ∧
    decodesTo [5#3 ++ 6#5 ++ 13#5 ++ 22#5 ++ 0b0001011#7 ++ 0b0000001#7] (.slt 5#3 6#5 13#5 22#5) ∧
    decodesTo [5#3 ++ 6#5 ++ 13#5 ++ 22#5 ++ 0b0001100#7 ++ 0b0000001#7] (.sltu 5#3 6#5 13#5 22#5) ∧
    decodesTo [5#3 ++ 6#5 ++ 13#5 ++ 22#5 ++ 0b0001101#7 ++ 0b0000001#7] (.seq 5#3 6#5 13#5 22#5) ∧
    decodesTo [5#3 ++ 6#5 ++ 13#5 ++ 22#5 ++ 0b0001110#7 ++ 0b0000001#7] (.sne 5#3 6#5 13#5 22#5) ∧
    decodesTo [5#3 ++ 6#5 ++ 13#5 ++ 22#5 ++ 0b0001111#7 ++ 0b0000001#7] (.min 5#3 6#5 13#5 22#5) ∧
    decodesTo [5#3 ++ 6#5 ++ 13#5 ++ 22#5 ++ 0b0010000#7 ++ 0b0000001#7] (.max 5#3 6#5 13#5 22#5) ∧
    decodesTo [5#3 ++ 6#5 ++ 13#5 ++ 22#5 ++ 0b0010001#7 ++ 0b0000001#7] (.minu 5#3 6#5 13#5 22#5) ∧
    decodesTo [5#3 ++ 6#5 ++ 13#5 ++ 22#5 ++ 0b0010010#7 ++ 0b0000001#7] (.maxu 5#3 6#5 13#5 22#5) ∧
    decodesTo [5#3 ++ 6#5 ++ 13#5 ++ 0b000000010011#12 ++ 0b0000001#7] (.clz 5#3 6#5 13#5) ∧
    decodesTo [5#3 ++ 6#5 ++ 13#5 ++ 0b000000010100#12 ++ 0b0000001#7] (.ctz 5#3 6#5 13#5) ∧
    decodesTo [5#3 ++ 6#5 ++ 13#5 ++ 0b000000010101#12 ++ 0b0000001#7] (.popc 5#3 6#5 13#5) :=
  ⟨rfl, rfl, rfl, rfl, rfl, rfl, rfl, rfl, rfl, rfl, rfl, rfl, rfl, rfl, rfl, rfl, rfl, rfl, rfl, rfl, rfl, rfl⟩

/-- Words of the family laid out by the fields of spec/opcode_table.json, fixed bits in binary. -/
theorem test_decode_scalar_w :
    decodesTo [5#3 ++ 6#5 ++ 13#5 ++ 22#5 ++ 0b0000000#7 ++ 0b0000010#7] (.addW 5#3 6#5 13#5 22#5) ∧
    decodesTo [5#3 ++ 6#5 ++ 13#5 ++ 22#5 ++ 0b0000001#7 ++ 0b0000010#7] (.subW 5#3 6#5 13#5 22#5) ∧
    decodesTo [5#3 ++ 6#5 ++ 13#5 ++ 22#5 ++ 0b0000010#7 ++ 0b0000010#7] (.andW 5#3 6#5 13#5 22#5) ∧
    decodesTo [5#3 ++ 6#5 ++ 13#5 ++ 22#5 ++ 0b0000011#7 ++ 0b0000010#7] (.orW 5#3 6#5 13#5 22#5) ∧
    decodesTo [5#3 ++ 6#5 ++ 13#5 ++ 22#5 ++ 0b0000100#7 ++ 0b0000010#7] (.xorW 5#3 6#5 13#5 22#5) ∧
    decodesTo [5#3 ++ 6#5 ++ 13#5 ++ 22#5 ++ 0b0000101#7 ++ 0b0000010#7] (.andnW 5#3 6#5 13#5 22#5) ∧
    decodesTo [5#3 ++ 6#5 ++ 13#5 ++ 22#5 ++ 0b0000110#7 ++ 0b0000010#7] (.sllW 5#3 6#5 13#5 22#5) ∧
    decodesTo [5#3 ++ 6#5 ++ 13#5 ++ 22#5 ++ 0b0000111#7 ++ 0b0000010#7] (.srlW 5#3 6#5 13#5 22#5) ∧
    decodesTo [5#3 ++ 6#5 ++ 13#5 ++ 22#5 ++ 0b0001000#7 ++ 0b0000010#7] (.sraW 5#3 6#5 13#5 22#5) ∧
    decodesTo [5#3 ++ 6#5 ++ 13#5 ++ 22#5 ++ 0b0001001#7 ++ 0b0000010#7] (.rolW 5#3 6#5 13#5 22#5) ∧
    decodesTo [5#3 ++ 6#5 ++ 13#5 ++ 22#5 ++ 0b0001010#7 ++ 0b0000010#7] (.rorW 5#3 6#5 13#5 22#5) ∧
    decodesTo [5#3 ++ 6#5 ++ 13#5 ++ 0b000000010011#12 ++ 0b0000010#7] (.clzW 5#3 6#5 13#5) ∧
    decodesTo [5#3 ++ 6#5 ++ 13#5 ++ 0b000000010100#12 ++ 0b0000010#7] (.ctzW 5#3 6#5 13#5) ∧
    decodesTo [5#3 ++ 6#5 ++ 13#5 ++ 0b000000010101#12 ++ 0b0000010#7] (.popcW 5#3 6#5 13#5) :=
  ⟨rfl, rfl, rfl, rfl, rfl, rfl, rfl, rfl, rfl, rfl, rfl, rfl, rfl, rfl⟩

/-- Words of the family laid out by the fields of spec/opcode_table.json, fixed bits in binary. -/
theorem test_decode_mul_div :
    decodesTo [5#3 ++ 6#5 ++ 13#5 ++ 22#5 ++ 0b0000000#7 ++ 0b0000011#7] (.mul 5#3 6#5 13#5 22#5) ∧
    decodesTo [5#3 ++ 6#5 ++ 13#5 ++ 22#5 ++ 0b0000001#7 ++ 0b0000011#7] (.mulh 5#3 6#5 13#5 22#5) ∧
    decodesTo [5#3 ++ 6#5 ++ 13#5 ++ 22#5 ++ 0b0000010#7 ++ 0b0000011#7] (.mulhu 5#3 6#5 13#5 22#5) ∧
    decodesTo [5#3 ++ 6#5 ++ 13#5 ++ 22#5 ++ 0b0000011#7 ++ 0b0000011#7] (.div 5#3 6#5 13#5 22#5) ∧
    decodesTo [5#3 ++ 6#5 ++ 13#5 ++ 22#5 ++ 0b0000100#7 ++ 0b0000011#7] (.divu 5#3 6#5 13#5 22#5) ∧
    decodesTo [5#3 ++ 6#5 ++ 13#5 ++ 22#5 ++ 0b0000101#7 ++ 0b0000011#7] (.rem 5#3 6#5 13#5 22#5) ∧
    decodesTo [5#3 ++ 6#5 ++ 13#5 ++ 22#5 ++ 0b0000110#7 ++ 0b0000011#7] (.remu 5#3 6#5 13#5 22#5) ∧
    decodesTo [5#3 ++ 6#5 ++ 13#5 ++ 22#5 ++ 0b0001000#7 ++ 0b0000011#7] (.mulW 5#3 6#5 13#5 22#5) ∧
    decodesTo [5#3 ++ 6#5 ++ 13#5 ++ 22#5 ++ 0b0001011#7 ++ 0b0000011#7] (.divW 5#3 6#5 13#5 22#5) ∧
    decodesTo [5#3 ++ 6#5 ++ 13#5 ++ 22#5 ++ 0b0001100#7 ++ 0b0000011#7] (.divuW 5#3 6#5 13#5 22#5) ∧
    decodesTo [5#3 ++ 6#5 ++ 13#5 ++ 22#5 ++ 0b0001101#7 ++ 0b0000011#7] (.remW 5#3 6#5 13#5 22#5) ∧
    decodesTo [5#3 ++ 6#5 ++ 13#5 ++ 22#5 ++ 0b0001110#7 ++ 0b0000011#7] (.remuW 5#3 6#5 13#5 22#5) :=
  ⟨rfl, rfl, rfl, rfl, rfl, rfl, rfl, rfl, rfl, rfl, rfl, rfl⟩

/-- Words of the family laid out by the fields of spec/opcode_table.json, fixed bits in binary. -/
theorem test_decode_immediate :
    decodesTo [5#3 ++ 6#5 ++ 13#5 ++ 2748#12 ++ 0b0000100#7] (.addImm 5#3 6#5 13#5 2748#12) ∧
    decodesTo [5#3 ++ 6#5 ++ 13#5 ++ 2748#12 ++ 0b0000101#7] (.addWImm 5#3 6#5 13#5 2748#12) ∧
    decodesTo [5#3 ++ 6#5 ++ 13#5 ++ 2748#12 ++ 0b0000110#7] (.andImm 5#3 6#5 13#5 2748#12) ∧
    decodesTo [5#3 ++ 6#5 ++ 13#5 ++ 2748#12 ++ 0b0000111#7] (.orImm 5#3 6#5 13#5 2748#12) ∧
    decodesTo [5#3 ++ 6#5 ++ 13#5 ++ 2748#12 ++ 0b0001000#7] (.xorImm 5#3 6#5 13#5 2748#12) ∧
    decodesTo [5#3 ++ 6#5 ++ 13#5 ++ 2748#12 ++ 0b0001001#7] (.andnImm 5#3 6#5 13#5 2748#12) ∧
    decodesTo [5#3 ++ 6#5 ++ 13#5 ++ 0b000000#6 ++ 21#6 ++ 0b000101#6 ++ 1#1] (.sllImm 5#3 true 6#5 13#5 21#6) ∧
    decodesTo [5#3 ++ 6#5 ++ 13#5 ++ 0b000001#6 ++ 21#6 ++ 0b000101#6 ++ 1#1] (.srlImm 5#3 true 6#5 13#5 21#6) ∧
    decodesTo [5#3 ++ 6#5 ++ 13#5 ++ 0b000010#6 ++ 21#6 ++ 0b000101#6 ++ 1#1] (.sraImm 5#3 true 6#5 13#5 21#6) ∧
    decodesTo [5#3 ++ 6#5 ++ 13#5 ++ 0b000011#6 ++ 21#6 ++ 0b000101#6 ++ 1#1] (.rolImm 5#3 true 6#5 13#5 21#6) ∧
    decodesTo [5#3 ++ 6#5 ++ 13#5 ++ 0b000100#6 ++ 21#6 ++ 0b000101#6 ++ 1#1] (.rorImm 5#3 true 6#5 13#5 21#6) ∧
    decodesTo [5#3 ++ 6#5 ++ 13#5 ++ 22#5 ++ 27#5 ++ 0b00#2 ++ 0b0001100#7] (.sel 5#3 6#5 13#5 22#5 27#5) ∧
    decodesTo [5#3 ++ 6#5 ++ 13#5 ++ 11#6 ++ 38#6 ++ 0b0001101#7] (.bfx 5#3 6#5 13#5 11#6 38#6) ∧
    decodesTo [5#3 ++ 6#5 ++ 13#5 ++ 11#6 ++ 38#6 ++ 0b0001110#7] (.bfi 5#3 6#5 13#5 11#6 38#6) ∧
    decodesTo [5#3 ++ 6#5 ++ 0b0000000000#10 ++ 0b0000000#7 ++ 0b0001111#7, 0x9ABCDEF0#32] (.liw 5#3 6#5 0x9ABCDEF0#32) ∧
    decodesTo [5#3 ++ 6#5 ++ 0b0000000000#10 ++ 0b0000001#7 ++ 0b0001111#7, 0x9ABCDEF0#32] (.liwh 5#3 6#5 0x9ABCDEF0#32) ∧
    decodesTo [5#3 ++ 6#5 ++ 0b0000000000#10 ++ 0b0000010#7 ++ 0b0001111#7, 0x9ABCDEF0#32] (.addpc 5#3 6#5 0x9ABCDEF0#32) :=
  ⟨rfl, rfl, rfl, rfl, rfl, rfl, rfl, rfl, rfl, rfl, rfl, rfl, rfl, rfl, rfl, rfl, rfl⟩

/-- Words of the family laid out by the fields of spec/opcode_table.json, fixed bits in binary. -/
theorem test_decode_control :
    decodesTo [5#3 ++ 1#1 ++ 0b00000000#8 ++ 6844#13 ++ 0b0010000#7] (.br 5#3 true 6844#13) ∧
    decodesTo [5#3 ++ 1#1 ++ 0b001#3 ++ 13#5 ++ 6844#13 ++ 0b0010000#7] (.beqz 5#3 true 13#5 6844#13) ∧
    decodesTo [5#3 ++ 1#1 ++ 0b010#3 ++ 13#5 ++ 6844#13 ++ 0b0010000#7] (.bnez 5#3 true 13#5 6844#13) ∧
    decodesTo [5#3 ++ 1#1 ++ 0b011#3 ++ 13#5 ++ 6844#13 ++ 0b0010000#7] (.bltz 5#3 true 13#5 6844#13) ∧
    decodesTo [5#3 ++ 1#1 ++ 0b100#3 ++ 13#5 ++ 6844#13 ++ 0b0010000#7] (.bgez 5#3 true 13#5 6844#13) ∧
    decodesTo [5#3 ++ 1#1 ++ 0b101#3 ++ 13#5 ++ 6844#13 ++ 0b0010000#7] (.bgtz 5#3 true 13#5 6844#13) ∧
    decodesTo [5#3 ++ 1#1 ++ 0b110#3 ++ 13#5 ++ 6844#13 ++ 0b0010000#7] (.blez 5#3 true 13#5 6844#13) ∧
    decodesTo [5#3 ++ 6#5 ++ 109517#17 ++ 0b0010001#7] (.bal 5#3 6#5 109517#17) ∧
    decodesTo [5#3 ++ 0b00000#5 ++ 13#5 ++ 0b000000000000#12 ++ 0b0010010#7] (.jr 5#3 13#5) ∧
    decodesTo [5#3 ++ 6#5 ++ 13#5 ++ 0b000000000001#12 ++ 0b0010010#7] (.jal 5#3 6#5 13#5) ∧
    decodesTo [5#3 ++ 6#5 ++ 0b00000#5 ++ 2067#12 ++ 0b0010110#7] (.sysr 5#3 6#5 2067#12) ∧
    decodesTo [5#3 ++ 0b00000#5 ++ 13#5 ++ 2067#12 ++ 0b0010111#7] (.sysw 5#3 13#5 2067#12) :=
  ⟨rfl, rfl, rfl, rfl, rfl, rfl, rfl, rfl, rfl, rfl, rfl, rfl⟩

/-- Words of the family laid out by the fields of spec/opcode_table.json, fixed bits in binary. -/
theorem test_decode_loads :
    decodesTo [5#3 ++ 6#5 ++ 13#5 ++ 341#9 ++ 0b000#3 ++ 0b0011000#7] (.ldB 5#3 6#5 13#5 341#9) ∧
    decodesTo [5#3 ++ 6#5 ++ 13#5 ++ 341#9 ++ 0b001#3 ++ 0b0011000#7] (.ldBu 5#3 6#5 13#5 341#9) ∧
    decodesTo [5#3 ++ 6#5 ++ 13#5 ++ 341#9 ++ 0b010#3 ++ 0b0011000#7] (.ldH 5#3 6#5 13#5 341#9) ∧
    decodesTo [5#3 ++ 6#5 ++ 13#5 ++ 341#9 ++ 0b011#3 ++ 0b0011000#7] (.ldHu 5#3 6#5 13#5 341#9) ∧
    decodesTo [5#3 ++ 6#5 ++ 13#5 ++ 341#9 ++ 0b100#3 ++ 0b0011000#7] (.ldW 5#3 6#5 13#5 341#9) ∧
    decodesTo [5#3 ++ 6#5 ++ 13#5 ++ 341#9 ++ 0b101#3 ++ 0b0011000#7] (.ldWu 5#3 6#5 13#5 341#9) ∧
    decodesTo [5#3 ++ 6#5 ++ 13#5 ++ 341#9 ++ 0b110#3 ++ 0b0011000#7] (.ldD 5#3 6#5 13#5 341#9) ∧
    decodesTo [5#3 ++ 6#5 ++ 13#5 ++ 341#9 ++ 0b000#3 ++ 0b0011001#7] (.stB 5#3 6#5 13#5 341#9) ∧
    decodesTo [5#3 ++ 6#5 ++ 13#5 ++ 341#9 ++ 0b010#3 ++ 0b0011001#7] (.stH 5#3 6#5 13#5 341#9) ∧
    decodesTo [5#3 ++ 6#5 ++ 13#5 ++ 341#9 ++ 0b100#3 ++ 0b0011001#7] (.stW 5#3 6#5 13#5 341#9) ∧
    decodesTo [5#3 ++ 6#5 ++ 13#5 ++ 341#9 ++ 0b110#3 ++ 0b0011001#7] (.stD 5#3 6#5 13#5 341#9) ∧
    decodesTo [5#3 ++ 6#5 ++ 13#5 ++ 341#9 ++ 0b111#3 ++ 0b0011001#7] (.stQ 5#3 6#5 13#5 341#9) ∧
    decodesTo [5#3 ++ 6#5 ++ 13#5 ++ 0b000000#6 ++ 2#3 ++ 0b000#3 ++ 0b0011010#7] (.ldBAcq 5#3 6#5 13#5 .die) ∧
    decodesTo [5#3 ++ 6#5 ++ 13#5 ++ 0b000000#6 ++ 2#3 ++ 0b001#3 ++ 0b0011010#7] (.ldBuAcq 5#3 6#5 13#5 .die) ∧
    decodesTo [5#3 ++ 6#5 ++ 13#5 ++ 0b000000#6 ++ 2#3 ++ 0b010#3 ++ 0b0011010#7] (.ldHAcq 5#3 6#5 13#5 .die) ∧
    decodesTo [5#3 ++ 6#5 ++ 13#5 ++ 0b000000#6 ++ 2#3 ++ 0b011#3 ++ 0b0011010#7] (.ldHuAcq 5#3 6#5 13#5 .die) ∧
    decodesTo [5#3 ++ 6#5 ++ 13#5 ++ 0b000000#6 ++ 2#3 ++ 0b100#3 ++ 0b0011010#7] (.ldWAcq 5#3 6#5 13#5 .die) ∧
    decodesTo [5#3 ++ 6#5 ++ 13#5 ++ 0b000000#6 ++ 2#3 ++ 0b101#3 ++ 0b0011010#7] (.ldWuAcq 5#3 6#5 13#5 .die) ∧
    decodesTo [5#3 ++ 6#5 ++ 13#5 ++ 0b000000#6 ++ 2#3 ++ 0b110#3 ++ 0b0011010#7] (.ldDAcq 5#3 6#5 13#5 .die) :=
  ⟨rfl, rfl, rfl, rfl, rfl, rfl, rfl, rfl, rfl, rfl, rfl, rfl, rfl, rfl, rfl, rfl, rfl, rfl, rfl⟩

/-- Words of the family laid out by the fields of spec/opcode_table.json, fixed bits in binary. -/
theorem test_decode_stores :
    decodesTo [5#3 ++ 0b00000#5 ++ 13#5 ++ 22#5 ++ 1#1 ++ 2#3 ++ 0b000#3 ++ 0b0011011#7] (.stBRel 5#3 true .die 13#5 22#5) ∧
    decodesTo [5#3 ++ 0b00000#5 ++ 13#5 ++ 22#5 ++ 1#1 ++ 2#3 ++ 0b010#3 ++ 0b0011011#7] (.stHRel 5#3 true .die 13#5 22#5) ∧
    decodesTo [5#3 ++ 0b00000#5 ++ 13#5 ++ 22#5 ++ 1#1 ++ 2#3 ++ 0b100#3 ++ 0b0011011#7] (.stWRel 5#3 true .die 13#5 22#5) ∧
    decodesTo [5#3 ++ 0b00000#5 ++ 13#5 ++ 22#5 ++ 1#1 ++ 2#3 ++ 0b110#3 ++ 0b0011011#7] (.stDRel 5#3 true .die 13#5 22#5) ∧
    decodesTo [5#3 ++ 0b00000#5 ++ 13#5 ++ 22#5 ++ 1#1 ++ 2#3 ++ 0b111#3 ++ 0b0011011#7] (.stQRel 5#3 true .die 13#5 22#5) ∧
    decodesTo [5#3 ++ 6#5 ++ 13#5 ++ 341#9 ++ 0b000#3 ++ 0b0011100#7] (.stBCnt 5#3 6#5 13#5 341#9) ∧
    decodesTo [5#3 ++ 6#5 ++ 13#5 ++ 341#9 ++ 0b010#3 ++ 0b0011100#7] (.stHCnt 5#3 6#5 13#5 341#9) ∧
    decodesTo [5#3 ++ 6#5 ++ 13#5 ++ 341#9 ++ 0b100#3 ++ 0b0011100#7] (.stWCnt 5#3 6#5 13#5 341#9) ∧
    decodesTo [5#3 ++ 6#5 ++ 13#5 ++ 341#9 ++ 0b110#3 ++ 0b0011100#7] (.stDCnt 5#3 6#5 13#5 341#9) ∧
    decodesTo [5#3 ++ 0b00000#5 ++ 13#5 ++ 2748#12 ++ 0b0011101#7] (.pfch 5#3 13#5 2748#12) :=
  ⟨rfl, rfl, rfl, rfl, rfl, rfl, rfl, rfl, rfl, rfl⟩

/-- Words of the family laid out by the fields of spec/opcode_table.json, fixed bits in binary. -/
theorem test_decode_atomics :
    decodesTo [5#3 ++ 6#5 ++ 13#5 ++ 22#5 ++ 2#2 ++ 1#1 ++ 0b0000010000#10 ++ 1#1] (.amoSwap 5#3 true true .rel 6#5 13#5 22#5) ∧
    decodesTo [5#3 ++ 6#5 ++ 13#5 ++ 22#5 ++ 2#2 ++ 1#1 ++ 0b0001010000#10 ++ 1#1] (.amoAdd 5#3 true true .rel 6#5 13#5 22#5) ∧
    decodesTo [5#3 ++ 6#5 ++ 13#5 ++ 22#5 ++ 2#2 ++ 1#1 ++ 0b0010010000#10 ++ 1#1] (.amoAnd 5#3 true true .rel 6#5 13#5 22#5) ∧
    decodesTo [5#3 ++ 6#5 ++ 13#5 ++ 22#5 ++ 2#2 ++ 1#1 ++ 0b0011010000#10 ++ 1#1] (.amoOr 5#3 true true .rel 6#5 13#5 22#5) ∧
    decodesTo [5#3 ++ 6#5 ++ 13#5 ++ 22#5 ++ 2#2 ++ 1#1 ++ 0b0100010000#10 ++ 1#1] (.amoXor 5#3 true true .rel 6#5 13#5 22#5) ∧
    decodesTo [5#3 ++ 6#5 ++ 13#5 ++ 22#5 ++ 2#2 ++ 1#1 ++ 0b0101010000#10 ++ 1#1] (.amoMin 5#3 true true .rel 6#5 13#5 22#5) ∧
    decodesTo [5#3 ++ 6#5 ++ 13#5 ++ 22#5 ++ 2#2 ++ 1#1 ++ 0b0110010000#10 ++ 1#1] (.amoMax 5#3 true true .rel 6#5 13#5 22#5) ∧
    decodesTo [5#3 ++ 6#5 ++ 13#5 ++ 22#5 ++ 2#2 ++ 1#1 ++ 0b0111010000#10 ++ 1#1] (.amoMinu 5#3 true true .rel 6#5 13#5 22#5) ∧
    decodesTo [5#3 ++ 6#5 ++ 13#5 ++ 22#5 ++ 2#2 ++ 1#1 ++ 0b1000010000#10 ++ 1#1] (.amoMaxu 5#3 true true .rel 6#5 13#5 22#5) ∧
    decodesTo [5#3 ++ 6#5 ++ 13#5 ++ 22#5 ++ 0b000#3 ++ 1#1 ++ 2#2 ++ 1#1 ++ 0b0100010#7] (.amocas 5#3 true true .rel 6#5 13#5 22#5) :=
  ⟨rfl, rfl, rfl, rfl, rfl, rfl, rfl, rfl, rfl, rfl⟩

/-- Words of the family laid out by the fields of spec/opcode_table.json, fixed bits in binary. -/
theorem test_decode_sync :
    decodesTo [5#3 ++ 0b000000000000000#15 ++ 2#3 ++ 1#2 ++ 2#2 ++ 0b0100101#7] (.fence 5#3 .die 1#2 2#2) ∧
    decodesTo [5#3 ++ 0b00000#5 ++ 13#5 ++ 6#5 ++ 0b0000000#7 ++ 0b0100110#7] (.arrive 5#3 13#5 6#3) ∧
    decodesTo [5#3 ++ 6#5 ++ 0b00000#5 ++ 6#5 ++ 0b0000001#7 ++ 0b0100110#7] (.waitb 5#3 6#5 6#3) ∧
    decodesTo [5#3 ++ 0b0000000000000000000010#22 ++ 0b0100110#7] (.phase 5#3) ∧
    decodesTo [5#3 ++ 6#5 ++ 0b00000000000000011#17 ++ 0b0100110#7] (.qwait 5#3 6#5) ∧
    decodesTo [5#3 ++ 0b00000#5 ++ 13#5 ++ 0b000000000100#12 ++ 0b0100110#7] (.sleep 5#3 13#5) ∧
    decodesTo [5#3 ++ 6#5 ++ 0b000000000#9 ++ 166#8 ++ 0b0100111#7] (.wany 5#3 6#5 166#8) :=
  ⟨rfl, rfl, rfl, rfl, rfl, rfl, rfl⟩

/-- Words of the family laid out by the fields of spec/opcode_table.json, fixed bits in binary. -/
theorem test_decode_float :
    decodesTo [5#3 ++ 6#5 ++ 13#5 ++ 22#5 ++ 3#3 ++ 0b0000#4 ++ 0b0101000#7] (.fadd 5#3 .rup 6#5 13#5 22#5) ∧
    decodesTo [5#3 ++ 6#5 ++ 13#5 ++ 22#5 ++ 3#3 ++ 0b0001#4 ++ 0b0101000#7] (.fsub 5#3 .rup 6#5 13#5 22#5) ∧
    decodesTo [5#3 ++ 6#5 ++ 13#5 ++ 22#5 ++ 3#3 ++ 0b0010#4 ++ 0b0101000#7] (.fmul 5#3 .rup 6#5 13#5 22#5) ∧
    decodesTo [5#3 ++ 6#5 ++ 13#5 ++ 22#5 ++ 0b0000011#7 ++ 0b0101000#7] (.fmin 5#3 6#5 13#5 22#5) ∧
    decodesTo [5#3 ++ 6#5 ++ 13#5 ++ 22#5 ++ 0b0000100#7 ++ 0b0101000#7] (.fmax 5#3 6#5 13#5 22#5) ∧
    decodesTo [5#3 ++ 6#5 ++ 13#5 ++ 22#5 ++ 0b0000101#7 ++ 0b0101000#7] (.fsgn 5#3 6#5 13#5 22#5) ∧
    decodesTo [5#3 ++ 6#5 ++ 13#5 ++ 0b000000000110#12 ++ 0b0101000#7] (.fexp2 5#3 6#5 13#5) ∧
    decodesTo [5#3 ++ 6#5 ++ 13#5 ++ 0b000000000111#12 ++ 0b0101000#7] (.flog2 5#3 6#5 13#5) ∧
    decodesTo [5#3 ++ 6#5 ++ 13#5 ++ 0b000000001000#12 ++ 0b0101000#7] (.frcp 5#3 6#5 13#5) ∧
    decodesTo [5#3 ++ 6#5 ++ 13#5 ++ 0b000000001001#12 ++ 0b0101000#7] (.frsq 5#3 6#5 13#5) ∧
    decodesTo [5#3 ++ 6#5 ++ 13#5 ++ 22#5 ++ 27#5 ++ 0b00#2 ++ 0b0101001#7] (.ffma 5#3 6#5 13#5 22#5 27#5) ∧
    decodesTo [5#3 ++ 6#5 ++ 13#5 ++ 22#5 ++ 27#5 ++ 0b01#2 ++ 0b0101001#7] (.ffms 5#3 6#5 13#5 22#5 27#5) ∧
    decodesTo [5#3 ++ 6#5 ++ 13#5 ++ 22#5 ++ 0b0000#4 ++ 4#3 ++ 0b0101010#7] (.fcmp 5#3 .gt 6#5 13#5 22#5) :=
  ⟨rfl, rfl, rfl, rfl, rfl, rfl, rfl, rfl, rfl, rfl, rfl, rfl, rfl⟩

/-- Words of the family laid out by the fields of spec/opcode_table.json, fixed bits in binary. -/
theorem test_decode_float_conversions :
    decodesTo [5#3 ++ 6#5 ++ 13#5 ++ 0b000000000#9 ++ 3#3 ++ 0b0101011#7] (.fcvtI32F32 5#3 .rup 6#5 13#5) ∧
    decodesTo [5#3 ++ 6#5 ++ 13#5 ++ 0b000000001#9 ++ 3#3 ++ 0b0101011#7] (.fcvtUint32F32 5#3 .rup 6#5 13#5) ∧
    decodesTo [5#3 ++ 6#5 ++ 13#5 ++ 0b000000010#9 ++ 3#3 ++ 0b0101011#7] (.fcvtI64F32 5#3 .rup 6#5 13#5) ∧
    decodesTo [5#3 ++ 6#5 ++ 13#5 ++ 0b000000011#9 ++ 3#3 ++ 0b0101011#7] (.fcvtUint64F32 5#3 .rup 6#5 13#5) ∧
    decodesTo [5#3 ++ 6#5 ++ 13#5 ++ 0b000000100#9 ++ 3#3 ++ 0b0101011#7] (.fcvtF32I32 5#3 .rup 6#5 13#5) ∧
    decodesTo [5#3 ++ 6#5 ++ 13#5 ++ 0b000000101#9 ++ 3#3 ++ 0b0101011#7] (.fcvtF32Uint32 5#3 .rup 6#5 13#5) ∧
    decodesTo [5#3 ++ 6#5 ++ 13#5 ++ 0b000000110#9 ++ 3#3 ++ 0b0101011#7] (.fcvtF32I64 5#3 .rup 6#5 13#5) ∧
    decodesTo [5#3 ++ 6#5 ++ 13#5 ++ 0b000000111#9 ++ 3#3 ++ 0b0101011#7] (.fcvtF32Uint64 5#3 .rup 6#5 13#5) ∧
    decodesTo [5#3 ++ 6#5 ++ 13#5 ++ 0b000001000#9 ++ 3#3 ++ 0b0101011#7] (.fcvtBf16F32 5#3 .rup 6#5 13#5) ∧
    decodesTo [5#3 ++ 6#5 ++ 13#5 ++ 0b000001001000#12 ++ 0b0101011#7] (.fcvtF32Bf16 5#3 6#5 13#5) ∧
    decodesTo [5#3 ++ 6#5 ++ 13#5 ++ 0b000001010#9 ++ 3#3 ++ 0b0101011#7] (.fcvtE4m3F32 5#3 .rup 6#5 13#5) ∧
    decodesTo [5#3 ++ 6#5 ++ 13#5 ++ 0b000001011#9 ++ 3#3 ++ 0b0101011#7] (.fcvtE5m2F32 5#3 .rup 6#5 13#5) ∧
    decodesTo [5#3 ++ 6#5 ++ 13#5 ++ 0b000001100000#12 ++ 0b0101011#7] (.fcvtF32E4m3 5#3 6#5 13#5) ∧
    decodesTo [5#3 ++ 6#5 ++ 13#5 ++ 0b000001101000#12 ++ 0b0101011#7] (.fcvtF32E5m2 5#3 6#5 13#5) :=
  ⟨rfl, rfl, rfl, rfl, rfl, rfl, rfl, rfl, rfl, rfl, rfl, rfl, rfl, rfl⟩

/-- Words of the family laid out by the fields of spec/opcode_table.json, fixed bits in binary. -/
theorem test_decode_vector :
    decodesTo [5#3 ++ 6#5 ++ 13#5 ++ 22#5 ++ 5#3 ++ 0b00000110#8 ++ 3#3] (.vadd 5#3 .i16 6#5 13#5 22#5 5#3) ∧
    decodesTo [5#3 ++ 6#5 ++ 13#5 ++ 22#5 ++ 5#3 ++ 0b00010110#8 ++ 3#3] (.vsub 5#3 .i16 6#5 13#5 22#5 5#3) ∧
    decodesTo [5#3 ++ 6#5 ++ 13#5 ++ 22#5 ++ 5#3 ++ 0b00100110#8 ++ 3#3] (.vmul 5#3 .i16 6#5 13#5 22#5 5#3) ∧
    decodesTo [5#3 ++ 6#5 ++ 13#5 ++ 22#5 ++ 5#3 ++ 0b00110110#8 ++ 3#3] (.vfma 5#3 .i16 6#5 13#5 22#5 5#3) ∧
    decodesTo [5#3 ++ 6#5 ++ 13#5 ++ 22#5 ++ 5#3 ++ 0b01000110#8 ++ 3#3] (.vmin 5#3 .i16 6#5 13#5 22#5 5#3) ∧
    decodesTo [5#3 ++ 6#5 ++ 13#5 ++ 22#5 ++ 5#3 ++ 0b01010110#8 ++ 3#3] (.vmax 5#3 .i16 6#5 13#5 22#5 5#3) ∧
    decodesTo [5#3 ++ 6#5 ++ 13#5 ++ 2#5 ++ 5#3 ++ 0b01100110#8 ++ 1#3] (.vred 5#3 .bf16 6#5 13#5 .max 5#3) ∧
    decodesTo [5#3 ++ 6#5 ++ 13#5 ++ 22#5 ++ 5#3 ++ 0b01110110#8 ++ 1#3] (.vdot 5#3 .bf16 6#5 13#5 22#5 5#3) ∧
    decodesTo [5#3 ++ 6#5 ++ 13#5 ++ 0b00000#5 ++ 5#3 ++ 0b1000011000#10 ++ 1#1] (.vsqsum 5#3 .bf16 6#5 13#5 5#3) ∧
    decodesTo [5#3 ++ 6#5 ++ 13#5 ++ 22#5 ++ 5#3 ++ 0b10000110#8 ++ 3#3] (.vaddSs 5#3 .i16 6#5 13#5 22#5 5#3) ∧
    decodesTo [5#3 ++ 6#5 ++ 13#5 ++ 22#5 ++ 5#3 ++ 0b10010110#8 ++ 3#3] (.vand 5#3 .i16 6#5 13#5 22#5 5#3) ∧
    decodesTo [5#3 ++ 6#5 ++ 13#5 ++ 22#5 ++ 5#3 ++ 0b10100110#8 ++ 3#3] (.vor 5#3 .i16 6#5 13#5 22#5 5#3) ∧
    decodesTo [5#3 ++ 6#5 ++ 13#5 ++ 22#5 ++ 5#3 ++ 0b10110110#8 ++ 3#3] (.vxor 5#3 .i16 6#5 13#5 22#5 5#3) ∧
    decodesTo [5#3 ++ 6#5 ++ 13#5 ++ 22#5 ++ 5#3 ++ 0b11000110#8 ++ 3#3] (.vshl 5#3 .i16 6#5 13#5 22#5 5#3) ∧
    decodesTo [5#3 ++ 6#5 ++ 13#5 ++ 22#5 ++ 5#3 ++ 0b11010110#8 ++ 3#3] (.vshr 5#3 .i16 6#5 13#5 22#5 5#3) ∧
    decodesTo [5#3 ++ 6#5 ++ 13#5 ++ 22#5 ++ 5#3 ++ 0b11100110#8 ++ 3#3] (.vsra 5#3 .i16 6#5 13#5 22#5 5#3) ∧
    decodesTo [5#3 ++ 6#5 ++ 13#5 ++ 22#5 ++ 5#3 ++ 0b11110110#8 ++ 3#3] (.vsubSs 5#3 .i16 6#5 13#5 22#5 5#3) :=
  ⟨rfl, rfl, rfl, rfl, rfl, rfl, rfl, rfl, rfl, rfl, rfl, rfl, rfl, rfl, rfl, rfl, rfl⟩

/-- Words of the family laid out by the fields of spec/opcode_table.json, fixed bits in binary. -/
theorem test_decode_vector_conversions :
    decodesTo [5#3 ++ 6#5 ++ 13#5 ++ 3#5 ++ 5#3 ++ 0b0000#4 ++ 0b0110101#7] (.vcvtBf16F32 5#3 .rup 6#5 13#5 5#3) ∧
    decodesTo [5#3 ++ 6#5 ++ 13#5 ++ 0#5 ++ 5#3 ++ 0b0001#4 ++ 0b0110101#7] (.vcvtF32Bf16 5#3 .rne 6#5 13#5 5#3) ∧
    decodesTo [5#3 ++ 6#5 ++ 13#5 ++ 3#5 ++ 5#3 ++ 0b0010#4 ++ 0b0110101#7] (.vcvtI32F32 5#3 .rup 6#5 13#5 5#3) ∧
    decodesTo [5#3 ++ 6#5 ++ 13#5 ++ 3#5 ++ 5#3 ++ 0b0011#4 ++ 0b0110101#7] (.vcvtF32I32 5#3 .rup 6#5 13#5 5#3) ∧
    decodesTo [5#3 ++ 6#5 ++ 13#5 ++ 0#5 ++ 5#3 ++ 0b0100#4 ++ 0b0110101#7] (.vcvtI16I32 5#3 .rne 6#5 13#5 5#3) ∧
    decodesTo [5#3 ++ 6#5 ++ 13#5 ++ 0#5 ++ 5#3 ++ 0b0101#4 ++ 0b0110101#7] (.vcvtI8I16 5#3 .rne 6#5 13#5 5#3) ∧
    decodesTo [5#3 ++ 6#5 ++ 13#5 ++ 0#5 ++ 5#3 ++ 0b0110#4 ++ 0b0110101#7] (.vcvtI32I16 5#3 .rne 6#5 13#5 5#3) ∧
    decodesTo [5#3 ++ 6#5 ++ 13#5 ++ 0#5 ++ 5#3 ++ 0b0111#4 ++ 0b0110101#7] (.vcvtI16I8 5#3 .rne 6#5 13#5 5#3) ∧
    decodesTo [5#3 ++ 0b00#2 ++ 3#3 ++ 13#5 ++ 22#5 ++ 5#3 ++ 1#1 ++ 4#3 ++ 0b0110110#7] (.vcmpFloat 5#3 .bf16 .gt 3#3 13#5 22#5 5#3) ∧
    decodesTo [5#3 ++ 1#2 ++ 3#3 ++ 13#5 ++ 22#5 ++ 5#3 ++ 0b0#1 ++ 4#3 ++ 0b0110111#7] (.vcmpInteger 5#3 .i16 .gt 3#3 13#5 22#5 5#3) :=
  ⟨rfl, rfl, rfl, rfl, rfl, rfl, rfl, rfl, rfl, rfl⟩

/-- Words of the family laid out by the fields of spec/opcode_table.json, fixed bits in binary. -/
theorem test_decode_vector_moves :
    decodesTo [5#3 ++ 6#5 ++ 13#5 ++ 22#5 ++ 5#3 ++ 0b0000#4 ++ 0b0111000#7] (.vsel 5#3 6#5 13#5 22#5 5#3) ∧
    decodesTo [5#3 ++ 6#5 ++ 13#5 ++ 0b00000#5 ++ 5#3 ++ 0b0001#4 ++ 0b0111000#7] (.vbcast32 5#3 6#5 13#5 5#3) ∧
    decodesTo [5#3 ++ 6#5 ++ 13#5 ++ 0b00000#5 ++ 5#3 ++ 0b0010#4 ++ 0b0111000#7] (.vbcast16 5#3 6#5 13#5 5#3) ∧
    decodesTo [5#3 ++ 6#5 ++ 13#5 ++ 0b00000#5 ++ 5#3 ++ 0b0011#4 ++ 0b0111000#7] (.vbcast8 5#3 6#5 13#5 5#3) ∧
    decodesTo [5#3 ++ 6#5 ++ 13#5 ++ 0b00000#5 ++ 5#3 ++ 0b0100#4 ++ 0b0111000#7] (.vmov 5#3 6#5 13#5 5#3) ∧
    decodesTo [5#3 ++ 6#5 ++ 13#5 ++ 22#5 ++ 0b0000101#7 ++ 0b0111000#7] (.vext32 5#3 6#5 13#5 22#5) ∧
    decodesTo [5#3 ++ 6#5 ++ 13#5 ++ 22#5 ++ 0b0000110#7 ++ 0b0111000#7] (.vext16 5#3 6#5 13#5 22#5) ∧
    decodesTo [5#3 ++ 6#5 ++ 13#5 ++ 22#5 ++ 0b0000111#7 ++ 0b0111000#7] (.vext8 5#3 6#5 13#5 22#5) ∧
    decodesTo [5#3 ++ 6#5 ++ 13#5 ++ 22#5 ++ 5#3 ++ 0b1000#4 ++ 0b0111000#7] (.vperm32 5#3 6#5 13#5 22#5 5#3) ∧
    decodesTo [5#3 ++ 6#5 ++ 13#5 ++ 22#5 ++ 5#3 ++ 0b1001#4 ++ 0b0111000#7] (.vperm16 5#3 6#5 13#5 22#5 5#3) ∧
    decodesTo [5#3 ++ 6#5 ++ 13#5 ++ 22#5 ++ 5#3 ++ 0b1010#4 ++ 0b0111000#7] (.vperm8 5#3 6#5 13#5 22#5 5#3) ∧
    decodesTo [5#3 ++ 6#5 ++ 13#5 ++ 22#5 ++ 5#3 ++ 0b1011#4 ++ 0b0111000#7] (.vslide32 5#3 6#5 13#5 22#5 5#3) ∧
    decodesTo [5#3 ++ 6#5 ++ 13#5 ++ 22#5 ++ 5#3 ++ 0b1100#4 ++ 0b0111000#7] (.vslide16 5#3 6#5 13#5 22#5 5#3) ∧
    decodesTo [5#3 ++ 6#5 ++ 13#5 ++ 22#5 ++ 5#3 ++ 0b1101#4 ++ 0b0111000#7] (.vslide8 5#3 6#5 13#5 22#5 5#3) :=
  ⟨rfl, rfl, rfl, rfl, rfl, rfl, rfl, rfl, rfl, rfl, rfl, rfl, rfl, rfl⟩

/-- Words of the family laid out by the fields of spec/opcode_table.json, fixed bits in binary. -/
theorem test_decode_masks :
    decodesTo [5#3 ++ 0b00#2 ++ 6#3 ++ 0b00#2 ++ 2#3 ++ 0b00#2 ++ 7#3 ++ 0b0000000#7 ++ 0b0111001#7] (.mand 5#3 6#3 2#3 7#3) ∧
    decodesTo [5#3 ++ 0b00#2 ++ 6#3 ++ 0b00#2 ++ 2#3 ++ 0b00#2 ++ 7#3 ++ 0b0000001#7 ++ 0b0111001#7] (.mor 5#3 6#3 2#3 7#3) ∧
    decodesTo [5#3 ++ 0b00#2 ++ 6#3 ++ 0b00#2 ++ 2#3 ++ 0b00#2 ++ 7#3 ++ 0b0000010#7 ++ 0b0111001#7] (.mxor 5#3 6#3 2#3 7#3) ∧
    decodesTo [5#3 ++ 0b00#2 ++ 6#3 ++ 0b00#2 ++ 2#3 ++ 0b000000000011#12 ++ 0b0111001#7] (.mnot 5#3 6#3 2#3) ∧
    decodesTo [5#3 ++ 6#5 ++ 0b00#2 ++ 2#3 ++ 0b000000000100#12 ++ 0b0111001#7] (.mpop 5#3 6#5 2#3) ∧
    decodesTo [5#3 ++ 6#5 ++ 0b00#2 ++ 2#3 ++ 0b000000000101#12 ++ 0b0111001#7] (.mfirst 5#3 6#5 2#3) :=
  ⟨rfl, rfl, rfl, rfl, rfl, rfl⟩

/-- Words of the family laid out by the fields of spec/opcode_table.json, fixed bits in binary. -/
theorem test_decode_vector_memory :
    decodesTo [5#3 ++ 6#5 ++ 13#5 ++ 2748#12 ++ 0b0111010#7] (.vld 5#3 6#5 13#5 2748#12) ∧
    decodesTo [5#3 ++ 6#5 ++ 13#5 ++ 2748#12 ++ 0b0111011#7] (.vst 5#3 6#5 13#5 2748#12) ∧
    decodesTo [5#3 ++ 6#5 ++ 13#5 ++ 22#5 ++ 5#3 ++ 0b0000#4 ++ 0b0111100#7] (.vlds32 5#3 6#5 13#5 22#5 5#3) ∧
    decodesTo [5#3 ++ 6#5 ++ 13#5 ++ 22#5 ++ 5#3 ++ 0b0001#4 ++ 0b0111100#7] (.vlds16 5#3 6#5 13#5 22#5 5#3) ∧
    decodesTo [5#3 ++ 6#5 ++ 13#5 ++ 22#5 ++ 5#3 ++ 0b0010#4 ++ 0b0111100#7] (.vlds8 5#3 6#5 13#5 22#5 5#3) ∧
    decodesTo [5#3 ++ 6#5 ++ 13#5 ++ 22#5 ++ 5#3 ++ 0b0011#4 ++ 0b0111100#7] (.vsts32 5#3 6#5 13#5 22#5 5#3) ∧
    decodesTo [5#3 ++ 6#5 ++ 13#5 ++ 22#5 ++ 5#3 ++ 0b0100#4 ++ 0b0111100#7] (.vsts16 5#3 6#5 13#5 22#5 5#3) ∧
    decodesTo [5#3 ++ 6#5 ++ 13#5 ++ 22#5 ++ 5#3 ++ 0b0101#4 ++ 0b0111100#7] (.vsts8 5#3 6#5 13#5 22#5 5#3) ∧
    decodesTo [5#3 ++ 6#5 ++ 13#5 ++ 22#5 ++ 5#3 ++ 0b0110#4 ++ 0b0111100#7] (.vgth32 5#3 6#5 13#5 22#5 5#3) ∧
    decodesTo [5#3 ++ 6#5 ++ 13#5 ++ 22#5 ++ 5#3 ++ 0b0111#4 ++ 0b0111100#7] (.vgth16 5#3 6#5 13#5 22#5 5#3) ∧
    decodesTo [5#3 ++ 6#5 ++ 13#5 ++ 22#5 ++ 5#3 ++ 0b1000#4 ++ 0b0111100#7] (.vgth8 5#3 6#5 13#5 22#5 5#3) ∧
    decodesTo [5#3 ++ 6#5 ++ 13#5 ++ 22#5 ++ 5#3 ++ 0b1001#4 ++ 0b0111100#7] (.vsct32 5#3 6#5 13#5 22#5 5#3) ∧
    decodesTo [5#3 ++ 6#5 ++ 13#5 ++ 22#5 ++ 5#3 ++ 0b1010#4 ++ 0b0111100#7] (.vsct16 5#3 6#5 13#5 22#5 5#3) ∧
    decodesTo [5#3 ++ 6#5 ++ 13#5 ++ 22#5 ++ 5#3 ++ 0b1011#4 ++ 0b0111100#7] (.vsct8 5#3 6#5 13#5 22#5 5#3) ∧
    decodesTo [5#3 ++ 6#5 ++ 13#5 ++ 0b00000#5 ++ 5#3 ++ 0b0000#4 ++ 0b0111101#7] (.vexp2 5#3 6#5 13#5 5#3) ∧
    decodesTo [5#3 ++ 6#5 ++ 13#5 ++ 0b00000#5 ++ 5#3 ++ 0b0001#4 ++ 0b0111101#7] (.vlog2 5#3 6#5 13#5 5#3) ∧
    decodesTo [5#3 ++ 6#5 ++ 13#5 ++ 0b00000#5 ++ 5#3 ++ 0b0010#4 ++ 0b0111101#7] (.vrcp 5#3 6#5 13#5 5#3) ∧
    decodesTo [5#3 ++ 6#5 ++ 13#5 ++ 0b00000#5 ++ 5#3 ++ 0b0011#4 ++ 0b0111101#7] (.vrsq 5#3 6#5 13#5 5#3) :=
  ⟨rfl, rfl, rfl, rfl, rfl, rfl, rfl, rfl, rfl, rfl, rfl, rfl, rfl, rfl, rfl, rfl, rfl, rfl⟩

/-- Words of the family laid out by the fields of spec/opcode_table.json, fixed bits in binary. -/
theorem test_decode_matrix :
    decodesTo [5#3 ++ 0b0000000000#10 ++ 33#12 ++ 0b1000000#7] (.mlease 5#3 33#12) ∧
    decodesTo [5#3 ++ 0b0000000000000000000000#22 ++ 0b1000001#7] (.mrel 5#3) ∧
    decodesTo [5#3 ++ 0b0000000000#10 ++ 3#5 ++ 0b0000001#7 ++ 0b1000001#7] (.mshape 5#3 3#5) ∧
    decodesTo [5#3 ++ 0b0000000000000000000010#22 ++ 0b1000001#7] (.mzacc 5#3) ∧
    decodesTo [5#3 ++ 0b0000000000000000000011#22 ++ 0b1000001#7] (.mswap 5#3) ∧
    decodesTo [5#3 ++ 0b00000#5 ++ 13#5 ++ 0b000000000100#12 ++ 0b1000001#7] (.mgang 5#3 13#5) ∧
    decodesTo [5#3 ++ 0b00000#5 ++ 13#5 ++ 0b000000000101#12 ++ 0b1000001#7] (.mwaitMatrix 5#3 13#5) ∧
    decodesTo [5#3 ++ 6#5 ++ 6#5 ++ 0b00000000000#11 ++ 1#1 ++ 0b1000010#7] (.mldw 5#3 true 6#5 6#3) ∧
    decodesTo [5#3 ++ 6#5 ++ 6#5 ++ 22#5 ++ 27#5 ++ 0b0#1 ++ 1#1 ++ 0b1000011#7] (.mmul 5#3 true 6#5 6#3 22#5 27#5) ∧
    decodesTo [5#3 ++ 6#5 ++ 6#5 ++ 22#5 ++ 27#5 ++ 0b0#1 ++ 1#1 ++ 0b1000100#7] (.mmult 5#3 true 6#5 6#3 22#5 27#5) ∧
    decodesTo [5#3 ++ 6#5 ++ 13#5 ++ 22#5 ++ 0b0000000#7 ++ 0b1000101#7] (.mrd 5#3 6#5 13#5 22#5) ∧
    decodesTo [5#3 ++ 6#5 ++ 13#5 ++ 22#5 ++ 0b0000000#7 ++ 0b1000110#7] (.mst 5#3 6#5 13#5 22#5) :=
  ⟨rfl, rfl, rfl, rfl, rfl, rfl, rfl, rfl, rfl, rfl, rfl, rfl⟩

/-- Words of the family laid out by the fields of spec/opcode_table.json, fixed bits in binary. -/
theorem test_decode_copy :
    decodesTo [5#3 ++ 6#5 ++ 13#5 ++ 22#5 ++ 27#5 ++ 0b00#2 ++ 0b1001000#7] (.cpy 5#3 6#5 13#5 22#5 27#5) ∧
    decodesTo [5#3 ++ 6#5 ++ 13#5 ++ 0b000000000000#12 ++ 0b1001001#7] (.cpy2 5#3 6#5 13#5) ∧
    decodesTo [5#3 ++ 6#5 ++ 13#5 ++ 0b000000000001#12 ++ 0b1001001#7] (.cpyt 5#3 6#5 13#5) ∧
    decodesTo [5#3 ++ 6#5 ++ 13#5 ++ 0b000000000010#12 ++ 0b1001001#7] (.cgth 5#3 6#5 13#5) ∧
    decodesTo [5#3 ++ 6#5 ++ 13#5 ++ 0b000000000011#12 ++ 0b1001001#7] (.cdec 5#3 6#5 13#5) ∧
    decodesTo [5#3 ++ 6#5 ++ 13#5 ++ 0b00000#5 ++ 3#3 ++ 0b0100#4 ++ 0b1001001#7] (.cenc 5#3 .rup 6#5 13#5) ∧
    decodesTo [5#3 ++ 0b0000000000000000000000#22 ++ 0b1001010#7] (.cseal 5#3) ∧
    decodesTo [5#3 ++ 0b0000000000000000000001#22 ++ 0b1001010#7] (.cstage 5#3) ∧
    decodesTo [5#3 ++ 0b0000000000#10 ++ 33#12 ++ 0b1001011#7] (.cwait 5#3 33#12) :=
  ⟨rfl, rfl, rfl, rfl, rfl, rfl, rfl, rfl, rfl⟩

/-- Words of the family laid out by the fields of spec/opcode_table.json, fixed bits in binary. -/
theorem test_decode_rings :
    decodesTo [5#3 ++ 6#5 ++ 13#5 ++ 22#5 ++ 27#5 ++ 0b00#2 ++ 0b1001100#7] (.rbind 5#3 6#3 13#5 22#5 27#5) ∧
    decodesTo [5#3 ++ 6#5 ++ 0b00000#5 ++ 6#5 ++ 0b0000000#7 ++ 0b1001101#7] (.racq 5#3 6#5 6#3) ∧
    decodesTo [5#3 ++ 6#5 ++ 0b00000#5 ++ 6#5 ++ 0b0000001#7 ++ 0b1001101#7] (.rrel 5#3 6#5 6#3) ∧
    decodesTo [5#3 ++ 6#5 ++ 0b00000#5 ++ 6#5 ++ 0b0000010#7 ++ 0b1001101#7] (.rstat 5#3 6#5 6#3) ∧
    decodesTo [5#3 ++ 30#5 ++ 6#5 ++ 0b000000000000#12 ++ 0b1001110#7] (.sbindRing 5#3 2#2 6#3) ∧
    decodesTo [5#3 ++ 30#5 ++ 13#5 ++ 22#5 ++ 27#5 ++ 0b01#2 ++ 0b1001110#7] (.sbindAddr 5#3 2#2 13#5 22#5 27#5) ∧
    decodesTo [5#3 ++ 30#5 ++ 0b00000000000000000#17 ++ 0b1001111#7] (.sunbind 5#3 2#2) :=
  ⟨rfl, rfl, rfl, rfl, rfl, rfl, rfl⟩

/-- Words of the family laid out by the fields of spec/opcode_table.json, fixed bits in binary. -/
theorem test_decode_merge :
    decodesTo [5#3 ++ 6#5 ++ 13#5 ++ 0b000000000000#12 ++ 0b1010000#7] (.mopen 5#3 6#5 13#5) ∧
    decodesTo [5#3 ++ 6#5 ++ 13#5 ++ 22#5 ++ 0b0000001#7 ++ 0b1010000#7] (.mclasp 5#3 6#5 13#5 22#5) ∧
    decodesTo [5#3 ++ 6#5 ++ 13#5 ++ 0b000000000010#12 ++ 0b1010000#7] (.mzero 5#3 6#5 13#5) ∧
    decodesTo [5#3 ++ 6#5 ++ 13#5 ++ 0b000000000011#12 ++ 0b1010000#7] (.mwaitMerge 5#3 6#5 13#5) ∧
    decodesTo [5#3 ++ 6#5 ++ 13#5 ++ 0b000000000100#12 ++ 0b1010000#7] (.mstat 5#3 6#5 13#5) ∧
    decodesTo [5#3 ++ 0b00000#5 ++ 13#5 ++ 22#5 ++ 27#5 ++ 0b00#2 ++ 0b1010001#7] (.mput 5#3 13#5 22#5 27#5) :=
  ⟨rfl, rfl, rfl, rfl, rfl, rfl⟩

/-- Words of the family laid out by the fields of spec/opcode_table.json, fixed bits in binary. -/
theorem test_decode_bus :
    decodesTo [5#3 ++ 6#5 ++ 13#5 ++ 22#5 ++ 27#5 ++ 1#2 ++ 0b1010100#7] (.kred 5#3 .k16 6#5 13#5 22#5 27#5) ∧
    decodesTo [5#3 ++ 6#5 ++ 13#5 ++ 22#5 ++ 27#5 ++ 1#2 ++ 0b1010101#7] (.kmax 5#3 .k16 6#5 13#5 22#5 27#5) ∧
    decodesTo [5#3 ++ 6#5 ++ 13#5 ++ 22#5 ++ 27#5 ++ 3#2 ++ 0b1010110#7] (.krbs 5#3 .bsm4bnd 6#5 13#5 22#5 27#5) ∧
    decodesTo [5#3 ++ 6#5 ++ 13#5 ++ 0b000000000000#12 ++ 0b1010111#7] (.kwait 5#3 6#5 13#5) ∧
    decodesTo [5#3 ++ 6#5 ++ 13#5 ++ 0b000000000001#12 ++ 0b1010111#7] (.kstat 5#3 6#5 13#5) :=
  ⟨rfl, rfl, rfl, rfl, rfl⟩

/-- Words of the family laid out by the fields of spec/opcode_table.json, fixed bits in binary. -/
theorem test_decode_charms :
    decodesTo [5#3 ++ 6#5 ++ 9#5 ++ 2748#12 ++ 0b1011000#7] (.spawn 5#3 6#5 9#5 2748#12) ∧
    decodesTo [5#3 ++ 0b00000#5 ++ 13#5 ++ 0b000000000000#12 ++ 0b1011001#7] (.hexit 5#3 13#5) ∧
    decodesTo [5#3 ++ 6#5 ++ 9#5 ++ 0b000000000001#12 ++ 0b1011001#7] (.hjoin 5#3 6#5 9#5) ∧
    decodesTo [5#3 ++ 6#5 ++ 0b00000000000000010#17 ++ 0b1011001#7] (.hstat 5#3 6#5) ∧
    decodesTo [5#3 ++ 0b00000#5 ++ 13#5 ++ 0b000000000000#12 ++ 0b1011010#7] (.loop 5#3 13#5) ∧
    decodesTo [5#3 ++ 6#5 ++ 13#5 ++ 22#5 ++ 0b0000000#7 ++ 0b1011011#7] (.rng 5#3 6#5 13#5 22#5) :=
  ⟨rfl, rfl, rfl, rfl, rfl, rfl⟩

/-- Words the spec prints: the examples of the instruction chapters (R127–R190, R201–R211). -/
theorem test_words_instruction_chapters :
    decodesTo [0x0531C082#32] (.subW 0#3 5#5 6#5 7#5) ∧
    decodesTo [0x052FFF84#32] (.addImm 0#3 5#5 5#5 0xFFF#12) ∧
    decodesTo [0x0530260B#32] (.srlImm 0#3 true 5#5 6#5 12#6) ∧
    decodesTo [0x0530640D#32] (.bfx 0#3 5#5 6#5 3#6 8#6) ∧
    decodesTo [0x0531C828#32] (.fadd 0#3 .rtz 5#5 6#5 7#5) ∧
    decodesTo [0x0531D029#32] (.ffma 0#3 5#5 6#5 7#5 8#5) ∧
    decodesTo [0x053000AB#32] (.fcvtI32F32 0#3 .rtz 5#5 6#5) ∧
    decodesTo [0x00080012#32] (.jr 0#3 1#5) ∧
    decodesTo [0x0028005A#32] (.loop 0#3 5#5) ∧
    decodesTo [0x0802405B#32] (.rng 0#3 8#5 0#5 9#5) ∧
    decodesTo [0x07180358#32] (.spawn 0#3 7#5 3#5 6#12) ∧
    decodesTo [0x091800D9#32] (.hjoin 0#3 9#5 3#5) ∧
    decodesTo [0x05000816#32] (.sysr 0#3 5#5 0x010#12) ∧
    decodesTo [0x00000000#32] (.nop 0#3) ∧
    decodesTo [0x07200F19#32] (.stD 0#3 7#5 4#5 3#9) ∧
    decodesTo [0x08300399#32] (.stQ 0#3 8#5 6#5 0#9) ∧
    decodesTo [0x0031CF1B#32] (.stDRel 0#3 false .pkg 6#5 7#5) ∧
    decodesTo [0x0950061C#32] (.stWCnt 0#3 9#5 10#5 1#9) ∧
    decodesTo [0x0030801D#32] (.pfch 0#3 6#5 256#12) ∧
    decodesTo [0x0531C0A1#32] (.amoAdd 0#3 true false .plain 5#5 6#5 7#5) ∧
    decodesTo [0x0531C5A2#32] (.amocas 0#3 true true .acq 5#5 6#5 7#5) ∧
    decodesTo [0x00000D25#32] (.fence 0#3 .cl 2#2 2#2) ∧
    decodesTo [0x00001FA5#32] (.fence 0#3 .pkg 3#2 3#2) ∧
    decodesTo [0x0110C030#32] (.vadd 0#3 .f32 1#5 2#5 3#5 0#3) ∧
    decodesTo [0x042991B1#32] (.vfma 0#3 .bf16 4#5 5#5 6#5 2#3) ∧
    decodesTo [0x07400330#32] (.vred 0#3 .f32 7#5 8#5 .sum 0#3) ∧
    decodesTo [0x0110003D#32] (.vexp2 0#3 1#5 2#5 0#3) ∧
    decodesTo [0x03214136#32] (.vcmpFloat 0#3 .f32 .lt 3#3 4#5 5#5 0#3) ∧
    decodesTo [0x05180239#32] (.mpop 0#3 5#5 3#3) ∧
    decodesTo [0x032800B8#32] (.vbcast32 0#3 3#5 5#5 0#3) ∧
    decodesTo [0x051182B8#32] (.vext32 0#3 5#5 2#5 6#5) ∧
    decodesTo [0x0111C638#32] (.vslide16 0#3 1#5 2#5 7#5 0#3) ∧
    decodesTo [0x0130013A#32] (.vld 0#3 1#5 6#5 2#12) ∧
    decodesTo [0x0248C43C#32] (.vgth8 0#3 2#5 9#5 3#5 0#3) ∧
    decodesTo [0x1C10004E#32] (.sbindRing 0#3 0#2 2#3) ∧
    decodesTo [0x1D52D8CE#32] (.sbindAddr 0#3 1#2 10#5 11#5 12#5) ∧
    decodesTo [0x1D00004F#32] (.sunbind 0#3 1#2) ∧
    decodesTo [0x0552D848#32] (.cpy 0#3 5#5 10#5 11#5 12#5) ∧
    decodesTo [0x000001CB#32] (.cwait 0#3 3#12) ∧
    decodesTo [0x0000004A#32] (.cseal 0#3) ∧
    decodesTo [0x000000CA#32] (.cstage 0#3) ∧
    decodesTo [0x0252D84C#32] (.rbind 0#3 2#3 10#5 11#5 12#5) ∧
    decodesTo [0x0500C04D#32] (.racq 0#3 5#5 3#3) ∧
    decodesTo [0x0000C080#32] (.trap 0#3 3#5) ∧
    decodesTo [0x00000100#32] (.eret 0#3) ∧
    decodesTo [0x00000180#32] (.wfi 0#3) ∧
    decodesTo [0x0052C200#32] (.tlbinv 0#3 10#5 11#5) ∧
    decodesTo [0x00500280#32] (.cflush 0#3 10#5) ∧
    decodesTo [0x00500300#32] (.cinv 0#3 10#5) ∧
    decodesTo [0x00000380#32] (.ifence 0#3) ∧
    decodesTo [0x00000400#32] (.bkpt 0#3) :=
  ⟨rfl, rfl, rfl, rfl, rfl, rfl, rfl, rfl, rfl, rfl, rfl, rfl, rfl, rfl, rfl, rfl, rfl, rfl, rfl, rfl, rfl, rfl, rfl, rfl, rfl, rfl, rfl, rfl, rfl, rfl, rfl, rfl, rfl, rfl, rfl, rfl, rfl, rfl, rfl, rfl, rfl, rfl, rfl, rfl, rfl, rfl, rfl, rfl, rfl, rfl, rfl⟩

/-- Words the spec prints: the programs of chapters 11 to 14, 19 and 20. -/
theorem test_words_programs :
    decodesTo [0x0B50010A#32] (.sllImm 0#3 false 11#5 10#5 2#6) ∧
    decodesTo [0x0B598001#32] (.add 0#3 11#5 11#5 6#5) ∧
    decodesTo [0x0C580218#32] (.ldW 0#3 12#5 11#5 0#9) ∧
    decodesTo [0x0D3B0581#32] (.slt 0#3 13#5 7#5 12#5) ∧
    decodesTo [0x0840208A#32] (.srlImm 0#3 false 8#5 8#5 1#6) ∧
    decodesTo [0x048FFE90#32] (.bnez 0#3 false 8#5 0x1FFD#13) ∧
    decodesTo [0x094A9A0C#32] (.sel 0#3 9#5 9#5 10#5 13#5) ∧
    decodesTo [0x12D00410#32] (.beqz 0#3 true 13#5 8#13) ∧
    decodesTo [0x00000110#32] (.br 0#3 false 2#13) ∧
    decodesTo [0x0E07FF84#32] (.addImm 0#3 14#5 0#5 0xFFF#12) ∧
    decodesTo [0x1443C05B#32] (.rng 0#3 20#5 8#5 15#5) ∧
    decodesTo [0x14A3E00D#32] (.bfx 0#3 20#5 20#5 31#6 0#6) ∧
    decodesTo [0x1AAFFF88#32] (.xorImm 0#3 26#5 21#5 0xFFF#12) ∧
    decodesTo [0x1A06B00C#32] (.sel 0#3 26#5 0#5 26#5 24#5) ∧
    decodesTo [0x00638F1B#32] (.stDRel 0#3 false .pkg 12#5 14#5) ∧
    decodesTo [0x00000026#32] (.arrive 0#3 0#5 0#3) ∧
    decodesTo [0x00884026#32] (.arrive 0#3 17#5 1#3) ∧
    decodesTo [0x100040A6#32] (.waitb 0#3 16#5 1#3) ∧
    decodesTo [0x0831CA54#32] (.kred 0#3 .k8 8#5 6#5 7#5 5#5) ∧
    decodesTo [0x09400057#32] (.kwait 0#3 9#5 8#5) ∧
    decodesTo [0x0A4000D7#32] (.kstat 0#3 10#5 8#5) ∧
    decodesTo [0x00580059#32] (.hexit 0#3 11#5) ∧
    decodesTo [0x09500050#32] (.mopen 0#3 9#5 10#5) ∧
    decodesTo [0x0F500298#32] (.ldWu 0#3 15#5 10#5 0#9) ∧
    decodesTo [0x1BC80701#32] (.sne 0#3 27#5 25#5 0#5) ∧
    decodesTo [0x0056F251#32] (.mput 0#3 10#5 27#5 25#5) ∧
    decodesTo [0x155500D0#32] (.mclasp 0#3 21#5 10#5 20#5) ∧
    decodesTo [0x095001D0#32] (.mwaitMerge 0#3 9#5 10#5) ∧
    decodesTo [0x09500150#32] (.mzero 0#3 9#5 10#5) ∧
    decodesTo [0x09500250#32] (.mstat 0#3 9#5 10#5) ∧
    decodesTo [0x00415248#32] (.cpy 0#3 0#5 8#5 5#5 9#5) ∧
    decodesTo [0x00580226#32] (.sleep 0#3 11#5) ∧
    decodesTo [0x0063831B#32] (.stDRel 0#3 false .core 12#5 14#5) ∧
    decodesTo [0x0F0000A6#32] (.waitb 0#3 15#5 0#3) ∧
    decodesTo [0x63190032#32] (.vadd 3#3 .i32 3#5 3#5 4#5 0#3) ∧
    decodesTo [0x65080332#32] (.vred 3#3 .i32 5#5 1#5 .sum 0#3) ∧
    decodesTo [0x302802B8#32] (.vext32 1#3 16#5 5#5 0#5) ∧
    decodesTo [0x10202A19#32] (.stW 0#3 16#5 4#5 10#9) :=
  ⟨rfl, rfl, rfl, rfl, rfl, rfl, rfl, rfl, rfl, rfl, rfl, rfl, rfl, rfl, rfl, rfl, rfl, rfl, rfl, rfl, rfl, rfl, rfl, rfl, rfl, rfl, rfl, rfl, rfl, rfl, rfl, rfl, rfl, rfl, rfl, rfl, rfl, rfl⟩

/-- LIW of −2 as the spec assembles it (R133). -/
theorem test_words_liw : decodesTo [0x0500000F#32, 0xFFFFFFFE#32] (.liw 0#3 5#5 0xFFFFFFFE#32) := rfl

/-- Headers are no instructions, and reserved encodings are refused by name: majors without an instruction, fn7 and fn2 beyond
their tables, fields that must be zero (R109, R121, R127, R128, R131, R138, R153). -/
theorem test_decode_refuses :
    decode (bytesOfWord 0x0000C0FF#32) = .error .header ∧ decode (bytesOfWord 0x00000B01#32) = .error .selector ∧
    decode (bytesOfWord 0x00000582#32) = .error .selector ∧ decode (bytesOfWord 0x00000383#32) = .error .selector ∧
    decode (bytesOfWord 0x0000008C#32) = .error .selector ∧ decode (bytesOfWord 0x0E000010#32) = .error .selector ∧
    decode (bytesOfWord 0x09300399#32) = .error .literal ∧ decode (bytesOfWord 0x00100110#32) = .error .reservedField ∧
    decode (bytesOfWord 0x0000018F#32 ++ bytesOfWord 0#32) = .error .selector :=
  ⟨rfl, rfl, rfl, rfl, rfl, rfl, rfl, rfl, rfl⟩

/-- An ill-formed term for each check of WellFormed, refused by it. -/
theorem test_wellFormed_refuses :
    (Instr.sllImm 0#3 true 1#5 2#5 32#6).wf = false ∧ (Instr.srlImm 0#3 true 1#5 2#5 32#6).wf = false ∧
    (Instr.sraImm 0#3 true 1#5 2#5 63#6).wf = false ∧ (Instr.rolImm 0#3 true 1#5 2#5 32#6).wf = false ∧
    (Instr.rorImm 0#3 true 1#5 2#5 32#6).wf = false ∧ (Instr.bfx 0#3 1#5 2#5 31#6 33#6).wf = false ∧
    (Instr.bfi 0#3 1#5 2#5 63#6 1#6).wf = false ∧ (Instr.stQ 0#3 3#5 2#5 0#9).wf = false ∧
    (Instr.stQRel 0#3 false .pkg 2#5 3#5).wf = false ∧ (Instr.fence 0#3 .pkg 0#2 3#2).wf = false ∧
    (Instr.fence 0#3 .pkg 3#2 0#2).wf = false ∧ (Instr.fadd 0#3 .sr 1#5 2#5 3#5).wf = false ∧
    (Instr.fsub 0#3 .sr 1#5 2#5 3#5).wf = false ∧ (Instr.fmul 0#3 .sr 1#5 2#5 3#5).wf = false ∧
    (Instr.vsqsum 0#3 .i32 1#5 2#5 0#3).wf = false ∧ (Instr.vaddSs 0#3 .i32 1#5 2#5 3#5 0#3).wf = false ∧
    (Instr.vsubSs 0#3 .f32 1#5 2#5 3#5 0#3).wf = false ∧ (Instr.vand 0#3 .f32 1#5 2#5 3#5 0#3).wf = false ∧
    (Instr.vor 0#3 .bf16 1#5 2#5 3#5 0#3).wf = false ∧ (Instr.vxor 0#3 .f32 1#5 2#5 3#5 0#3).wf = false ∧
    (Instr.vshl 0#3 .f32 1#5 2#5 3#5 0#3).wf = false ∧ (Instr.vshr 0#3 .f32 1#5 2#5 3#5 0#3).wf = false ∧
    (Instr.vsra 0#3 .f32 1#5 2#5 3#5 0#3).wf = false ∧ (Instr.vcvtF32Bf16 0#3 .rtz 1#5 2#5 0#3).wf = false ∧
    (Instr.vcvtI16I32 0#3 .rup 1#5 2#5 0#3).wf = false ∧ (Instr.vcvtI8I16 0#3 .rdn 1#5 2#5 0#3).wf = false ∧
    (Instr.vcvtI32I16 0#3 .sr 1#5 2#5 0#3).wf = false ∧ (Instr.vcvtI16I8 0#3 .rtz 1#5 2#5 0#3).wf = false ∧
    (Instr.vcmpFloat 0#3 .i8 .eq 1#3 2#5 3#5 0#3).wf = false ∧ (Instr.vcmpFloat 0#3 .f32 .eq 0#3 2#5 3#5 0#3).wf = false ∧
    (Instr.vcmpInteger 0#3 .f32 .eq 1#3 2#5 3#5 0#3).wf = false ∧ (Instr.vcmpInteger 0#3 .i8 .eq 0#3 2#5 3#5 0#3).wf = false ∧
    (Instr.mand 0#3 0#3 1#3 2#3).wf = false ∧ (Instr.mor 0#3 0#3 1#3 2#3).wf = false ∧ (Instr.mxor 0#3 0#3 1#3 2#3).wf = false ∧
    (Instr.mnot 0#3 0#3 1#3).wf = false ∧ (Instr.mlease 0#3 0#12).wf = false ∧ (Instr.mlease 0#3 65#12).wf = false ∧
    (Instr.mshape 0#3 0#5).wf = false ∧ (Instr.mshape 0#3 5#5).wf = false ∧ (Instr.cwait 0#3 2048#12).wf = false ∧
    (Instr.spawn 0#3 1#5 0#5 1#12).wf = false ∧ (Instr.spawn 0#3 1#5 11#5 1#12).wf = false ∧ (Instr.hjoin 0#3 1#5 11#5).wf = false := by
  decide

/-! ### States for the witnesses -/

/-- A bare team on core 0, whose ctx0 issues in U mode; its first 4 GiB are mapped onto the same physical addresses. -/
def base : State := State.reset.withFetchWord 32 0x05200084
/-- The same with its ctx0 changed. -/
def up (f : Ctx → Ctx) : State := onCtx base f
/-- The same with core 0 changed. -/
def upCore (f : Core → Core) : State := modCore base 0 f
/-- ctx0 in S mode. -/
def supervisor : State := up fun t => { t with status := 4#64 }
/-- x1 holds a value. -/
def holding (v : Word) : State := up fun t => putX t 1#5 v
/-- The same in the first charm: ctx1 issues as ctx0 did. -/
def charm : State := { modCtx base 0 1 fun _ => ctxAt base 0 0 with cur := (0, 1) }

/-- Every map of the package in its form, store by store. -/
def mapsOk (s : State) : Bool :=
  memWf s.mem && s.cores.toList.all (fun k => sWf 0#8 k.array) &&
  s.dies.toList.all (fun k => sWf 0#8 k.weights && k.wins.all fun w => sWf 0#32 w.bezel) &&
  s.clusters.toList.all (fun k => sWf 0#32 k.engine.wb && sWf 0#32 k.engine.vb && sWf 0#16 k.engine.w) &&
  s.hub.launches.all fun l => l.engines.all fun e => sWf 0#32 e.2.wb && sWf 0#32 e.2.vb && sWf 0#16 e.2.w
theorem maps_of_ok {s : State} (h : mapsOk s = true) : MapsInv s := by
  simp only [mapsOk, Bool.and_eq_true, List.all_eq_true] at h
  obtain ⟨⟨⟨⟨h1, h2⟩, h3⟩, h4⟩, h5⟩ := h
  refine ⟨h1, fun c => h2 _ ?_, fun d => (h3 _ ?_).1, fun d w hw => (h3 _ ?_).2 w hw, fun g => ?_, fun l hl e he => ?_⟩
  · simp [coreAt, Vector.get]
  · simp [dieAt, Vector.get]
  · simp [dieAt, Vector.get]
  · obtain ⟨⟨a, b⟩, c⟩ := h4 (clusterAt s g) (by simp [clusterAt, Vector.get])
    exact ⟨a, b, c⟩
  · obtain ⟨⟨a, b⟩, c⟩ := h5 l hl e he
    exact ⟨a, b, c⟩

theorem of_all_cores {s : State} {p : Core → Bool} (h : s.cores.toList.all p = true) (c : CoreId) : p (coreAt s c) = true :=
  List.all_eq_true.1 h _ (by simp [coreAt, Vector.get])

theorem ok_of {ε α : Type} {x : Except ε α} {a : α} (h : x.toOption = some a) : x = .ok a := by
  cases x <;> simp_all [Except.toOption]
theorem error_of {ε α : Type} {x : Except ε α} {e : ε} (h : (match x with | .ok _ => none | .error e => some e) = some e) :
    x = .error e := by
  cases x <;> simp_all

theorem notWithin {t : Ctx} (h : t.wait = .none) : ¬Within t := by
  rintro (⟨p, i, e⟩ | e) <;> exact Wait.noConfusion (h.symm.trans e)
theorem notWithin_sleep {t : Ctx} {n : Nat} {w : Bool} (h : t.wait = .sleep n w) : ¬Within t := by
  rintro (⟨p, i, e⟩ | e) <;> exact Wait.noConfusion (h.symm.trans e)
theorem notStopsFirst {s : State} {c : CoreId} {j : CtxId} (h : (coreAt s c).stopReq = .none) : ¬StopsFirst s c j := fun e => e.1 h

/-! ### Witnesses: each theorem shows states and operands that meet the hypotheses of the statement it is named after -/

theorem test_witness_ScalarRegister : NoUnderrun base [nx 1#5, nx 2#5] ∧
    NoUnderrun (up fun t => { t with status := 1#64 }) [nx 1#5, nx 2#5] ∧ NoUnderrun base [nx 1#5] := by
  unfold NoUnderrun; decide +kernel

theorem test_witness_ScalarMulDiv : NoUnderrun base [nx 3#5, nx 0#5] := by unfold NoUnderrun; decide +kernel

theorem test_witness_ScalarImmediateAndOther : NoUnderrun base [nx 1#5] ∧ (31#6).toNat < 32 ∧ NoUnderrun base [nx 1#5, nx 2#5, nx 3#5] ∧
    (0#6).toNat + ((63#6).toNat + 1) ≤ 64 ∧ NoUnderrun base [nx 4#5, nx 1#5] := by unfold NoUnderrun; decide +kernel

theorem test_witness_FloatArithmetic : NoUnderrun base [nx 1#5, nx 2#5, nx 3#5] := by unfold NoUnderrun; decide +kernel

theorem test_witness_FloatConversions : NoUnderrun base [nx 1#5] := by unfold NoUnderrun; decide +kernel

theorem test_witness_FloatRoundingAndInvalid : (0 : Int) ≤ 0 ∧ (0 : Int) < 1 ∧ 1 % 2 ^ ((1 : Int) - 0).toNat ≠ 0 ∧
    (flNan (f32 0x7FC00000#32) || flNan (f32 0#32)) = true ∧ (flNan (f32 0#32) || flNan (f32 0xFF800001#32)) = true := by
  decide +kernel

/-- Taken and not taken; a target that is a header and one that is not; a link at its place and elsewhere. -/
theorem test_witness_BranchesAndJumps : NoUnderrun base [nx 1#5] ∧ header base (targetAt base ((0x1FFF#13).toInt)) = true ∧
    header base (targetAt base ((0#13).toInt)) = false ∧ (reads base 1#5).toInt = 0 ∧ (reads (holding 1#64) 1#5).toInt ≠ 0 ∧
    (reads (holding (-1#64)) 1#5).toInt < 0 ∧ 0 < (reads (holding 1#64) 1#5).toInt ∧
    header (holding 0x10000#64) (reads (holding 0x10000#64) 1#5) = true ∧ header base (reads base 1#5) = false ∧
    ((curCtx base).npc.addr = (curCtx base).pc.addr + 4#64 ∧ (curCtx base).nnpc.addr = (curCtx base).pc.addr + 8#64 ∧
      endOfBlock base = (curCtx base).pc.addr + 12#64) ∧
    header base (targetAt base ((0x1FFFF#17).toInt)) = true ∧
    ¬endOfBlock (up fun t => { t with pc := ⟨0x1000C#64, 0x10000#64⟩ }) =
      (curCtx (up fun t => { t with pc := ⟨0x1000C#64, 0x10000#64⟩ })).pc.addr + 12#64 := by
  unfold NoUnderrun; decide +kernel

/-- The last place at which LOOP may stand, and the next one. -/
theorem test_witness_HardwareLoop : NoUnderrun base [nx 1#5] ∧
    (curCtx base).pc.addr.toNat + 12 = (endOfBlock base).toNat ∧
    (endOfBlock (up fun t => { t with pc := ⟨0x1000C#64, 0x10000#64⟩ })).toNat <
      (curCtx (up fun t => { t with pc := ⟨0x1000C#64, 0x10000#64⟩ })).pc.addr.toNat + 12 := by
  unfold NoUnderrun; decide +kernel

/-- A Power Stop due in U mode and in S mode, and one that S mode has held. -/
def powerDue (st : Word) (done : Bool) : State := up fun t => { t with status := st, powerStop := true, powerDone := done }
theorem test_witness_TrapsAndDoubleTraps : ¬StopsFirst base 0 0 ∧ (ctxAt base 0 0).status.getLsbD 2 = false ∧
    (ctxAt supervisor 0 0).status.getLsbD 2 = true ∧ Cause.illegal ≠ Cause.interrupt ∧ Cause.illegal ≠ Cause.powerStop ∧
    (∀ m : Fin 2, let s := powerDue (BitVec.ofNat 64 (4 * m.val)) false
      ¬StopsFirst s 0 0 ∧ ¬Within (ctxAt s 0 0) ∧ (ctxAt s 0 0).trapDue = none ∧ (ctxAt s 0 0).powerStop = true ∧
        (ctxAt s 0 0).powerDone = false ∧ (coreAt s 0).dbg.halt = false ∧ interruptible s 0 = false) ∧
    (let s := powerDue 4#64 true
     (ctxAt s 0 0).status.getLsbD 2 = true ∧ (ctxAt s 0 0).powerDone = true ∧ s.cur = (0, 0)) := by
  refine ⟨notStopsFirst ?_, ?_, ?_, ?_, ?_, fun m => ⟨notStopsFirst ?_, notWithin ?_, ?_⟩, ?_⟩ <;> first | decide +kernel | (revert m; decide +kernel)

theorem test_witness_TrapReturn : sMode supervisor = true ∧ traced supervisor supervisor.cur.1 = false := by decide +kernel

/-- A result of x1 that is due in a later cycle. -/
def early (schk : Word) : State := up fun t => { t with status := schk, inflight := [⟨1, 0#512, t.cyc + 1⟩] }
theorem test_witness_RegisterTiming : (curCtx (early 1#64)).status.getLsbD 0 = true ∧ 1#5 ≠ 0#5 ∧
    ((curCtx (early 1#64)).inflight.find? fun e => e.reg == (1#5).toNat && decide ((curCtx (early 1#64)).cyc < e.due)) =
      some ⟨1, 0#512, (curCtx (early 1#64)).cyc + 1⟩ ∧
    (∀ e ∈ (curCtx base).inflight, e.reg = (1#5).toNat → e.due ≤ (curCtx base).cyc) ∧
    NoUnderrun (early 1#64) [nx 2#5] ∧ NoUnderrun (early 0#64) [nx 1#5, nx 2#5] := by unfold NoUnderrun; decide +kernel

/-- A register that U mode may name, the first and last that only S mode may, the first that no table lists; an arrival pending on a
channel; LC and LBLK with no loop active. -/
theorem test_witness_SpecialRegisters : sysregValue base 0x000 = some (curCtx base).status ∧ sysregValue base 0x081 ≠ none ∧
    privilegedNumber 0x001 ∧ privilegedNumber 0x007 ∧ privilegedNumber 0x813 ∧ sMode supervisor = true ∧ sMode base = false ∧
    sysregValue supervisor 0x811 ≠ none ∧ unlistedNumber base 0x008 ∧ unlistedNumber base 0x082 ∧ ¬privilegedNumber 0x082 ∧
    NoUnderrun base [nx 1#5] ∧ (coreAt base 0).arr.getLsbD 7 = false ∧ loopOn (curCtx base).lblk = false ∧
    traced base base.cur.1 = false ∧ (coreAt (upCore fun k => { k with arr := 0x80#8 }) 0).arr.getLsbD 7 = true ∧
    sysregValue (upCore fun k => { k with arr := 0x80#8 }) 0x02F ≠ none := by
  unfold NoUnderrun privilegedNumber unlistedNumber; decide +kernel

/-- An interrupt that is pending and one that is not; a debugger and none; a trap that is due. -/
theorem test_witness_SystemInstructions :
    sMode supervisor = true ∧ sMode base = false ∧ (coreAt base 0).dbg.attach = false ∧
    (let s := modCore supervisor 0 fun k => { k with ienab := 2#2, door := true }
     (coreAt s 0).ienab.getLsbD 1 = true ∧ (coreAt s 0).door = true) ∧
    ((coreAt supervisor 0).ienab.getLsbD 0 = false ∧ (coreAt supervisor 0).ienab.getLsbD 1 = false ∧ (coreAt supervisor 0).stopReq = .none) ∧
    (ctxAt (up fun t => { t with trapDue := some 0x10008#64 }) 0 0).trapDue = some 0x10008#64 ∧
    (coreAt (up fun t => { t with trapDue := some 0x10008#64 }) 0).stopReq = .none ∧
    ¬Within (ctxAt (up fun t => { t with trapDue := some 0x10008#64 }) 0 0) ∧ Within (ctxAt (up fun t => { t with wait := .wfi }) 0 0) := by
  refine ⟨?_, ?_, ?_, ?_, ?_, ?_, ?_, notWithin ?_, .inr ?_⟩ <;> decide +kernel


/-- x1 = 0x10040, an address that is mapped. -/
def addressed : State := holding 0x10040#64
/-- The same with its sector poisoned. -/
def spoiled : State := { addressed with poison := [0x10040 / 64] }
/-- x1 = 0x10041. -/
def misaligned : State := holding 0x10041#64
/-- An address whose upper bits are no window and no mapped page. -/
def unmapped : State := holding 0xF00000000#64

/-- A line of core 0's L1 with the byte at 0x10040 dirty, or clean. -/
def lined (dirty : Option Nat) : State := upCore fun k => { k with l1 := [⟨0x10040 / 256, 39, [(0x40, ⟨7#8, dirty⟩)]⟩] }
/-- A late load of the byte at 0x10040. -/
def loading : State := up fun t => { t with late := [⟨.mem 0x10040 false, 1, .x 1#5 false⟩] }
/-- Plain loads, performed at once or later, that read no poison or some. -/
theorem test_witness_PlainLoads_bytes :
    (issueLoad (walkedBy addressed .load 0x10040#64) 0 0 (.mem 0x10040 false) 8 (.x 1#5 false)).2.2 = false ∧
    (issueLoad (walkedBy spoiled .load 0x10040#64) 0 0 (.mem 0x10040 false) 8 (.x 1#5 false)).2.2 = true := by
  constructor
  · exact issueLoad_clean _ (by decide +kernel)
  · rw [issueLoad_poisoned _ _ (by decide +kernel)]; decide +kernel
theorem test_witness_PlainLoadsAndTheirBytes : NoUnderrun addressed [nx 1#5] ∧
    reads addressed 1#5 = 0x10040#64 ∧ Reaches addressed .load 0x10040#64 8 (.mem 0x10040 false) ∧ Unheld addressed ∧
    Reaches spoiled .load 0x10040#64 8 (.mem 0x10040 false) ∧ Unheld spoiled ∧
    Faults misaligned .load 0x10041#64 8 ⟨.misaligned, 0#8, false, false, 0x10041#64⟩ ∧
    (∃ t, Faults unmapped .load 0xF00000000#64 8 t) ∧
    (0x10041#64).toNat % 2 ≠ 0 ∧ watched misaligned 0 0 true false 0x10041#64 2 = none ∧
    MapsInv base ∧ (curCtx base).sbuf = [] ∧ l1Byte (curCore (lined (some 0))) 0x10040 = some ⟨7#8, some 0⟩ ∧ base.owner = [] ∧
    (curCtx base).late = [] ∧ (∃ l ∈ (curCtx loading).late, overlap (.mem 0x10040 false) 1 l.place l.n = true) ∧
    (loadPlain loading 0 0 (.mem 0x10040 false) 1).2.2 = false ∧ NoFence base ∧
    (curCtx (up fun t => { t with sbuf := [.store (.mem 0 false) [1#8] false .pkg false 0 none] })).sbuf =
      [] ++ [.store (.mem 0 false) [1#8] false .pkg false 0 none] ∧ (∀ d o, Place.mem 0 false ≠ .weight d o) := by
  refine ⟨?_, ?_, ?_, ?_, ?_, ?_, ?_, ⟨⟨.loadPageFault, 0#8, false, false, 0xF00000000#64⟩, ?_⟩, ?_, ?_, maps_of_ok ?_, ?_, ?_, ?_, ?_, ?_, ?_, ?_, ?_, ?_⟩ <;>
    first
    | (intro d o; exact Place.noConfusion)
    | (intro it h; rw [show (curCtx base).sbuf = [] by decide +kernel] at h; cases h)
    | (unfold NoUnderrun; decide +kernel)
    | (unfold Reaches; decide +kernel)
    | (unfold Faults; decide +kernel)
    | (unfold Unheld; decide +kernel)
    | decide +kernel

/-- The acquire of four bytes at 0x10040, after the reads of its page walk. -/
def acquired (s : State) : State × List Byte × Bool :=
  loadAcquire (performOverlaps (walkedBy s .load 0x10040#64) 0 0 (.mem 0x10040 false) 4) 0 0 .sys (.mem 0x10040 false) 4
/-- Core 1, of the same cluster, has released the line at 0x10040 with stamp 3 and holds one byte of it dirty, of stamp 2. -/
def released : State :=
  { modCore base 1 fun k => { k with l1 := [⟨0x10040 / 256, 39, [(0x40, ⟨7#8, some 2⟩)]⟩] } with lrr := [(0x10040 / 256, ⟨1, 3, .cl⟩)] }
theorem test_witness_AcquireLoadsAndTheirBytes : NoUnderrun addressed [nx 1#5] ∧ Reaches addressed .load 0x10040#64 4 (.mem 0x10040 false) ∧
    Unheld addressed ∧ (acquired addressed).2.2 = false ∧ (acquired spoiled).2.2 = true ∧
    Faults misaligned .load 0x10041#64 8 ⟨.misaligned, 0#8, false, false, 0x10041#64⟩ ∧ MapsInv base ∧ Scope.cl ≠ .core ∧
    (curCtx base).sbuf = [] ∧ base.lrr = [] ∧ base.owner = [] ∧ (curCore base).l1 = [] ∧ (curCore base).l1k ≠ 0 ∧
    l1Byte (curCore (lined (some 0))) 0x10040 = some ⟨7#8, some 0⟩ ∧
    (released.lrr.find? (·.1 == 0x10040 / 256) = some (0x10040 / 256, ⟨1, 3, .cl⟩) ∧ (1 : CoreId) ≠ released.cur.1 ∧
      within released .cl released.cur.1 1 = true ∧ within released .cl 1 released.cur.1 = true ∧
      HoldsDirty released 1 0x10040 7#8 3) := by
  refine ⟨?_, ?_, ?_, ?_, ?_, ?_, maps_of_ok ?_, ?_, ?_, ?_, ?_, ?_, ?_, ?_, ?_, ?_, ?_, ?_,
    ⟨2, ?_, ⟨⟨0x10040 / 256, 39, [(0x40, ⟨7#8, some 2⟩)]⟩, ?_, ?_⟩, ?_⟩⟩ <;>
    first
    | (unfold NoUnderrun; decide +kernel)
    | (unfold Reaches; decide +kernel)
    | (unfold Faults; decide +kernel)
    | (unfold Unheld; decide +kernel)
    | decide +kernel

theorem test_witness_StoresAndDrains : NoUnderrun addressed [nx 2#5, nx 1#5] ∧ NoUnderrun addressed [nx 2#5, nx 3#5, nx 1#5] ∧
    Reaches addressed .store 0x10040#64 16 (.mem 0x10040 false) ∧
    (∃ t, Faults addressed .counted 0x10040#64 8 t) ∧ Faults misaligned .store 0x10041#64 8 ⟨.misaligned, 0#8, false, false, 0x10041#64⟩ ∧
    PutsArrived addressed ∧
    Unheld (onCtx (performOverlaps (walkedBy addressed .store 0x10040#64) 0 0 (.mem 0x10040 false) 8) fun t =>
      endsDiscard (buffered (.mem 0x10040 false) (lowBytes 8 5) true .pkg false (keeps addressed 0x10040#64) t)) ∧ MapsInv base ∧
    (coreAt (upCore fun k => { k with l1k := 0 }) 0).l1k = 0 ∧ (coreAt base 0).l1k ≠ 0 ∧ base.owner = [] := by
  refine ⟨?_, ?_, ?_, ⟨⟨.access, 0#8, false, false, 0x10040#64⟩, ?_⟩, ?_, ?_, ?_, maps_of_ok ?_, ?_, ?_, ?_⟩ <;>
    first
    | (unfold NoUnderrun; decide +kernel)
    | (unfold Reaches; decide +kernel)
    | (unfold Faults; decide +kernel)
    | (unfold Unheld; decide +kernel)
    | (unfold PutsArrived; decide +kernel)
    | decide +kernel

/-- A fence with and without W, a line and none, the modes of TLBINV. -/
theorem test_witness_CacheInstructions : NoUnderrun addressed [nx 1#5, nx 2#5] ∧ MapsInv base ∧ (2#2).getLsbD 1 = true ∧
    (1#2).getLsbD 1 = false ∧ PutsArrived base ∧ lineOf addressed 0 0 .load (reads addressed 1#5) = .ok (some (0x10040 / 256)) ∧
    Unheld addressed ∧ lineOf (holding 0x0200000000000000#64) 0 0 .load 0x0200000000000000#64 = .ok none ∧
    (let s := onCtx addressed fun t => { t with status := 4#64 }
     sMode s = true ∧ NoUnderrun s [nx 1#5, nx 2#5] ∧ lineOf s 0 0 .store (reads s 1#5) = .ok (some (0x10040 / 256)) ∧
     (s.cores.toList.all fun k => k.ctxs.toList.all fun t => t.sbuf.isEmpty) = true ∧ PutsArrived s ∧ (∀ d, (dieAt s d).puts = [])) := by
  refine ⟨?_, maps_of_ok ?_, ?_, ?_, ?_, ?_, ?_, ?_, ?_, ?_, ?_, ?_, ?_, ?_⟩ <;>
    first
    | (unfold NoUnderrun; decide +kernel)
    | (unfold Unheld; decide +kernel)
    | (unfold PutsArrived; decide +kernel)
    | decide +kernel
    | (refine ok_of ?_; decide +kernel)

theorem test_witness_AtomicsAndHome : NoUnderrun addressed [nx 1#5, nx 2#5] ∧ NoUnderrun addressed [nx 3#5, nx 1#5, nx 2#5] ∧
    Reaches addressed .atomic 0x10040#64 8 (.mem 0x10040 false) ∧ Unheld addressed ∧ PutsArrived addressed ∧
    (amoMade addressed true true .ar 2#5 (fun _ _ y => y) (walkedBy addressed .atomic 0x10040#64) (.mem 0x10040 false)).2.2 = false ∧
    (amoMade spoiled true true .plain 2#5 (fun _ _ y => y) (walkedBy spoiled .atomic 0x10040#64) (.mem 0x10040 false)).2.2 = true ∧
    Faults misaligned .atomic 0x10041#64 4 ⟨.misaligned, 0#8, false, false, 0x10041#64⟩ ∧
    MapsInv base ∧ 0x100F8 % 256 + 8 = 256 ∧ (curCtx base).sbuf = [] ∧ (base.cores.toList.all fun k => k.l1.isEmpty) = true ∧
    base.owner = [] ∧ poisoned base.poison 0x100F8 8 = false ∧ (leBytes 8 1).length = 8 ∧ poisoned (coreAt base 0).arrayPoison 0 8 = false := by
  refine ⟨?_, ?_, ?_, ?_, ?_, ?_, ?_, ?_, maps_of_ok ?_, ?_, ?_, ?_, ?_, ?_, ?_, ?_⟩ <;>
    first
    | (unfold NoUnderrun; decide +kernel)
    | (unfold Reaches; decide +kernel)
    | (unfold Faults; decide +kernel)
    | (unfold Unheld; decide +kernel)
    | (unfold PutsArrived; decide +kernel)
    | decide +kernel

/-- Two cores of one team, and channel 0 of both set to that pair. -/
def paired : State :=
  let f (k : Core) : Core := { k with team := k.team.map fun b => { b with n := 2 }, bmask := vPut k.bmask 0 0x300#64 }
  modCore (upCore f) 1 fun _ => { curCore (upCore f) with
    lcore := 1#10, team := (curCore (upCore f)).team.map fun b => { b with tci := 1 } }
/-- A credit; an arrival that stands and none, on the first and the last channel; a group of one core and of two; a ready channel. -/
theorem test_witness_ClusterBarriers : NoUnderrun base [nx 1#5] ∧ Unheld base ∧ PutsArrived base ∧
    0 < (curCtx (up fun t => { t with credit := vPut t.credit 7 1 })).credit.get (7#3).toFin ∧
    (curCtx base).credit.get (0#3).toFin = 0 ∧ (curCore base).arr.getLsbD (7#3).toNat = false ∧
    (let s := upCore fun k => { k with bmask := vPut k.bmask 7 3#64 }
     NoUnderrun s [nx 1#5] ∧ Unheld s ∧ PutsArrived s ∧ (curCtx s).credit.get (7#3).toFin = 0 ∧ (curCore s).arr.getLsbD (7#3).toNat = false ∧
       groupOf s s.cur.1 7#3 = [s.cur.1] ∧ (curCore s).dbg.halt = false ∧ (curCore s).dbg.queued = []) ∧
    (NoUnderrun paired [nx 1#5] ∧ Unheld paired ∧ PutsArrived paired ∧ (curCtx paired).credit.get (0#3).toFin = 0 ∧
      (curCore paired).arr.getLsbD (0#3).toNat = false ∧ groupOf paired paired.cur.1 0#3 ≠ [paired.cur.1]) ∧
    (sMode supervisor = true ∧ sMode base = false) ∧
    (curCore (upCore fun k => { k with arr := 0x81#8 })).arr.getLsbD (0#3).toNat = true ∧ NoStop base ∧
    ((curCore (upCore fun k => { k with bmask := vPut k.bmask 0 0#64 })).bmask.get (0#3).toFin).toNat % 4 ≠ 3 ∧
    (∀ k : BitVec 3, ¬(chan (curCore base).ready k = 1 ∧ chan 0xFF#8 k = 1)) ∧
    (let q := curCore (upCore fun k => { k with ready := 0x81#8, start := 1#3 })
     (chan q.ready 7#3 = 1 ∧ chan 0xFF#8 7#3 = 1) ∧
     ∀ m : BitVec 3, (m - q.start).toNat < (7#3 - q.start).toNat → ¬(chan q.ready m = 1 ∧ chan 0xFF#8 m = 1)) := by
  refine ⟨?_, ?_, ?_, ?_, ?_, ?_, ⟨?_, ?_, ?_, ?_, ?_, ?_, ?_, ?_⟩, ⟨?_, ?_, ?_, ?_, ?_, ?_⟩, ?_, ?_, ?_, ?_, ?_, ?_⟩ <;>
    first
    | (unfold NoUnderrun; decide +kernel)
    | (unfold Unheld; decide +kernel)
    | (unfold PutsArrived; decide +kernel)
    | (unfold NoStop; decide +kernel)
    | decide +kernel

/-- The gates open, at the last count that opens them and with all allowances without a gate; and closed. -/
theorem test_witness_PhaseAndQuiescence : charm.cur.2 ≠ 0 ∧ base.cur.2 = 0 ∧
    0 < (curCtx (up fun t => { t with phaseCredit := 1 })).phaseCredit ∧ (curCtx base).phaseCredit = 0 ∧ GatesOpen base 0 ∧
    ¬GatesOpen (upCore fun k => { k with allow := #v[0#8, 255#8, 255#8] }) 0 ∧ NoStop base ∧ NoUnderrun base [nx 1#5] ∧
    (∀ last told, (curCtx base).wait ≠ .qwait last told) ∧ (∀ dl w, (curCtx base).wait ≠ .sleep dl w) ∧ Unheld base ∧
    (0 : CoreId) ∈ teamCores base 0 ∧ (reads base 1#5).toNat % 2 ^ 32 = 0 ∧ 0 < (reads (holding 0xFFFFFFFF#64) 1#5).toNat % 2 ^ 32 ∧
    ¬Within (curCtx base) := by
  refine ⟨?_, ?_, ?_, ?_, fun l => Or.inl ?_, fun h => ?_, ?_, ?_, fun a b h => ?_, fun a b h => ?_, ?_, ?_, ?_, ?_, notWithin ?_⟩
  case refine_6 =>
    rcases h 0 with h | h
    · exact absurd h (by decide +kernel)
    · have := h 0 (by decide +kernel) (Or.inl (by decide +kernel))
      revert this; unfold NotBehind; decide +kernel
  case refine_9 => exact Wait.noConfusion ((by decide +kernel : (curCtx base).wait = .none).symm.trans h)
  case refine_10 => exact Wait.noConfusion ((by decide +kernel : (curCtx base).wait = .none).symm.trans h)
  all_goals
    first
    | (unfold NoUnderrun; decide +kernel)
    | (unfold Unheld; decide +kernel)
    | (unfold NoStop; decide +kernel)
    | (revert l; decide +kernel)
    | decide +kernel


/-- Mask m1 has element 0 alone, x1 an address. -/
def masked : State := modCore addressed 0 fun k => putM k 1#3 1#64
/-- v28 bound to an address stream at 0x10040. -/
def streaming : State :=
  modCore base 0 fun k => boundAs 0#2 ⟨.addr, .unset, 0#32, 16#32, 0x10040#64, 64#64, 0#3, 0, false, false, 0⟩ k

theorem test_witness_VectorElements : VecGoes base (.vadd 0#3 .f32 1#5 2#5 3#5 0#3) [nm 0#3] ⟨[2#5, 3#5], some 1#5, false⟩ ∧
    VecGoes base (.vfma 0#3 .i8 1#5 2#5 3#5 7#3) [nm 7#3] ⟨[2#5, 3#5], some 1#5, true⟩ ∧ (VType.i8 ≠ .f32 ∧ VType.i8 ≠ .bf16) ∧
    ¬(VType.bf16 ≠ .f32 ∧ VType.bf16 ≠ .bf16) := by unfold VecGoes NoUnderrun; decide +kernel

theorem test_witness_VectorReductionsAndConversions :
    VecGoes base (.vred 0#3 .f32 1#5 2#5 .sum 0#3) [nm 0#3] ⟨[2#5], some 1#5, false⟩ ∧
    VecGoes base (.vdot 0#3 .i16 1#5 2#5 3#5 0#3) [nm 0#3] ⟨[2#5, 3#5], some 1#5, false⟩ ∧
    VecGoes base (.vsqsum 0#3 .bf16 1#5 2#5 0#3) [nm 0#3] ⟨[2#5], some 1#5, false⟩ ∧
    VecGoes base (.vcvtBf16F32 0#3 .sr 1#5 2#5 0#3) [nm 0#3] ⟨[2#5], some 1#5, false⟩ ∧
    VecGoes base (.vexp2 0#3 1#5 2#5 0#3) [nm 0#3] ⟨[2#5], some 1#5, false⟩ := by unfold VecGoes NoUnderrun; decide +kernel

theorem test_witness_VectorMasksAndMoves :
    VecGoes base (.vcmpFloat 0#3 .f32 .lt 1#3 2#5 3#5 0#3) [nm 0#3] ⟨[2#5, 3#5], none, false⟩ ∧
    VecGoes base (.vcmpInteger 0#3 .i8 .geu 1#3 2#5 3#5 0#3) [nm 0#3] ⟨[2#5, 3#5], none, false⟩ ∧
    VecGoes base (.mand 0#3 1#3 2#3 3#3) [nm 2#3, nm 3#3] {} ∧ VecGoes base (.mpop 0#3 1#5 2#3) [nm 2#3] {} ∧
    VecGoes base (.vsel 0#3 1#5 2#5 3#5 0#3) [nm 0#3] ⟨[2#5, 3#5], some 1#5, false⟩ ∧
    VecGoes base (.vbcast32 0#3 1#5 2#5 0#3) [nm 0#3, nx 2#5] ⟨[], some 1#5, false⟩ ∧
    VecGoes base (.vslide8 0#3 1#5 2#5 3#5 0#3) [nm 0#3, nx 3#5] ⟨[2#5], some 1#5, false⟩ ∧
    VecGoes base (.vext32 0#3 1#5 2#5 3#5) [nx 3#5] ⟨[2#5], none, false⟩ := by unfold VecGoes NoUnderrun; decide +kernel

/-- Element 0 is the one active element under m1, so its address is the one the gathers and scatters below reach. -/
theorem test_masked_active : actives 16 (vmask masked ⟨[], some 2#5, false⟩ 1#3) = [0] := by decide +kernel

theorem loadsElement_clean {s : State} {d : Reg} {p : Place} {n i : Nat} (hb : boundStream s s.cur.1 d = none)
    (h : (loadPlain (performOverlaps s s.cur.1 s.cur.2 p n) s.cur.1 s.cur.2 p n).2.2 = false) : (loadsElement s d p n i).2.2 = false := by
  simp [loadsElement, hb, issueLoad_clean _ h]
/-- One active element, loaded, stored, and stored to an address that faults; a stream as destination; a charm. -/
theorem test_witness_VectorMemoryAndResults :
    VecGoes addressed (.vld 0#3 2#5 1#5 0#12) [nx 1#5] ⟨[], some 2#5, false⟩ ∧ Unheld addressed ∧
    Reaches addressed .load 0x10040#64 64 (.mem 0x10040 false) ∧
    (loadsElement (walkedBy addressed .load 0x10040#64) 2#5 (.mem 0x10040 false) 64 0).2.2 = false ∧
    VecGoes addressed (.vst 0#3 2#5 1#5 0#12) [nx 1#5] ⟨[2#5], none, false⟩ ∧
    Reaches addressed .store 0x10040#64 64 (.mem 0x10040 false) ∧
    VecGoes masked (.vlds32 0#3 2#5 1#5 3#5 1#3) [nm 1#3, nx 1#5, nx 3#5] ⟨[], some 2#5, false⟩ ∧ readHeld masked 0 0 = false ∧
    Unwatched masked true false 4 [(0, 0x10040#64)] ∧
    (∃ t got, Gathers 2#5 4 [(0, 0x10040#64)] masked t got) ∧
    VecGoes masked (.vsct32 0#3 2#5 1#5 3#5 1#3) [nm 1#3, nx 1#5] ⟨[2#5, 3#5], none, false⟩ ∧
    Unwatched masked false true 4 [(0, 0x10040#64)] ∧
    (∃ t, Scatters 4 (fun _ => 0) [(0, 0x10040#64)] masked t none) ∧
    (∃ t tr, Scatters 4 (fun _ => 0) [(0, 0x10041#64)] masked t (some tr)) ∧
    (∃ f, GatherFails 2#5 4 [(0, 0x10041#64)] masked 0x10041#64 f) ∧
    boundStream base 0 1#5 = none ∧ boundStream streaming 0 28#5 = some 0#2 ∧
    streamPlace (walkedBy streaming .store (streamEa (streamAt streaming 0 0#2))) 0 0 0#2 .sink = .ok (.mem 0x10040 false) ∧ charm.cur.2 ≠ 0 ∧
    NoUnderrun charm ([nm 0#3] ++ ([2#5, 3#5].filter fun r => (boundStream charm 0 r).isNone).map nv) := by
  refine ⟨?_, ?_, ?_, loadsElement_clean ?_ ?_, ?_, ?_, ?_, ?_, ?_,
    ⟨_, _, .mem 0x10040 false, [], ?_, loadsElement_clean ?_ ?_, ⟨rfl, rfl⟩, rfl⟩, ?_, ?_,
    ⟨_, Or.inl ⟨.mem 0x10040 false, ?_, rfl, rfl⟩⟩, ⟨_, ⟨.misaligned, 0#8, false, false, 0x10041#64⟩, Or.inr ⟨_, ?_, rfl, rfl⟩⟩,
    ⟨⟨.misaligned, 0#8, false, false, 0x10041#64⟩, Or.inl ⟨?_, rfl⟩⟩,
    ?_, ?_, ?_, ?_, ?_⟩ <;>
    first
    | (unfold VecGoes NoUnderrun; decide +kernel)
    | (unfold NoUnderrun; decide +kernel)
    | (unfold Unheld; decide +kernel)
    | (unfold Reaches; decide +kernel)
    | (unfold Unwatched; decide +kernel)
    | decide +kernel
    | (refine ok_of ?_; decide +kernel)


theorem some_of {ε α : Type} {x : Except ε α} (h : x.toOption.isSome = true) : ∃ a, x = .ok a := by
  cases x with
  | ok a => exact ⟨a, rfl⟩
  | error e => cases h

/-- A grant of one bank; x1 a window offset, x2 a slot size, x3 a slot count. -/
def ringed (off slot n : Nat) : State := onCtx (upCore fun k => { k with grant := 1 }) fun t =>
  putX (putX (putX t 1#5 (BitVec.ofNat 64 (2 * 2 ^ 56 + off))) 2#5 (BitVec.ofNat 64 slot)) 3#5 (BitVec.ofNat 64 n)
/-- Ring 7 of core 0. -/
def ringIs (r : Ring) : State := modRing base 0 7#3 fun _ => r
def ring1 : Ring := { (default : Ring) with bound := true, slot := 64, count := 2, free := 1, filled := 1 }

/-- The largest ring of a bank, an unbinding; a slot size that is no multiple of 16, a used ring. -/
theorem test_witness_RingBinding : NoUnderrun (ringed 0 16 512) [nx 1#5, nx 2#5, nx 3#5] ∧
    (let s := ringed 0 16 512
     Bindable s (reads s 1#5) (reads s 2#5) (reads s 3#5) 0 ∧ (ringAt s 0 7#3).strm = false ∧ (ringAt s 0 7#3).held = false ∧
       ringBusy s 0 7#3 = false ∧ (reads s 3#5).toNat % 2 ^ 16 ≠ 0) ∧
    (let s := ringed 0 24 1
     (reads s 3#5).toNat % 2 ^ 16 ≠ 0 ∧ ∀ off, ¬Bindable s (reads s 1#5) (reads s 2#5) (reads s 3#5) off) ∧
    (reads (ringed 0 0 0) 3#5).toNat % 2 ^ 16 = 0 ∧ (ringAt (ringIs { ring1 with strm := true }) 0 7#3).strm = true ∧ (3 : BitVec 3) ≠ 4#3 := by
  refine ⟨?_, ?_, ⟨?_, fun off h => ?_⟩, ?_, ?_, ?_⟩
  case refine_4 => exact absurd h.2.1 (by decide +kernel)
  all_goals
    first
    | (unfold NoUnderrun; decide +kernel)
    | (unfold Bindable; decide +kernel)
    | decide +kernel

theorem test_witness_RingAcquireAndRelease :
    (let r := ringAt (ringIs ring1) 0 7#3
     r.bound = true ∧ r.strm = false ∧ r.held = false ∧ 0 < r.filled ∧ r.cons = none ∧ r.free < 2 ^ 13 ∧ r.filled < 2 ^ 13 ∧
       r.head < 2 ^ 12 ∧ r.tail < 2 ^ 12) ∧
    Unheld (ringIs ring1) ∧ PutsArrived (ringIs ring1) ∧ NoStop (ringIs ring1) ∧
    (let r := ringAt (ringIs { ring1 with side := true, free := 0 }) 0 7#3
     r.bound = true ∧ r.strm = false ∧ r.held = false ∧ ¬(if r.side then 0 < r.free ∧ r.prod = none else 0 < r.filled ∧ r.cons = none)) ∧
    (let s := onCtx (ringIs { ring1 with held := true }) fun t => { t with ringsHeld := [(7, true)] }
     (ringAt s 0 7#3).bound = true ∧ (ringAt s 0 7#3).strm = false ∧ (ringAt s 0 7#3).held = true ∧ Unheld s ∧ PutsArrived s ∧
       ∃ e ∈ (curCtx s).ringsHeld, e = ((7#3).toNat, true)) ∧
    (ringAt base 0 7#3).bound = false := by
  unfold Unheld PutsArrived NoStop; and_intros <;> decide +kernel

/-- A ring's stream that is untouched, partly used and at its slot's last group. -/
theorem test_witness_Streams :
    (ctxAt (ringIs ring1) 0 0).run = .on ∧ (ringIs ring1).cur.2 = 0 ∧ unbindHeld (ringIs ring1) 0 0 3#2 = false ∧
    ((ringAt (ringIs ring1) 0 7#3).bound = true ∧ (ringAt (ringIs ring1) 0 7#3).slot % 64 = 0 ∧ (ringAt (ringIs ring1) 0 7#3).strm = false) ∧
    (ringAt base 0 7#3).bound = false ∧ NoUnderrun (ringIs ring1) [nx 1#5, nx 2#5, nx 3#5] ∧ charm.cur.2 ≠ 0 ∧
    (streamAt base 0 0#2).kind = .unbound ∧ (streamAt streaming 0 0#2).kind = .addr ∧
    (∀ off : Fin 2,
      let s := modCore (ringIs { ring1 with slot := 128, strm := true, held := true }) 0
        (boundAs 0#2 ⟨.ring, .source, 0#32, 0#32, 0#64, 0#64, 7#3, 64 * off.val, true, false, 0⟩)
      let b := streamAt s 0 0#2
      b.kind = .ring ∧ b.holds = true ∧ b.off = 64 * off.val ∧ (b.off + 64 < (ringAt s 0 b.ring).slot ↔ off = 0)) ∧
    (let s := modCore (ringIs { ring1 with strm := true }) 0 (boundAs 0#2 ⟨.ring, .unset, 0#32, 0#32, 0#64, 0#64, 7#3, 0, false, false, 0⟩)
     (streamAt s 0 0#2).kind = .ring ∧ (streamAt s 0 0#2).holds = false) ∧
    ((curCtx base).inflight = [] ∧ (let r := ringAt (ringIs { ring1 with free := 0 }) 0 7#3; ¬(0 < r.free ∧ r.prod = none))) := by
  unfold NoUnderrun; and_intros <;> decide +kernel

/-- The engine of core 0's cluster changed. -/
def engined (f : Engine → Engine) : State := modEngine base (clusterOf base 0) f
/-- Core 0 holds the lease with a count of one. -/
def leased : State := engined fun e => { e with holder := some 0, count := 1 }

theorem test_witness_MatrixLeaseAndImmediate :
    (1 ≤ (1#12).toNat ∧ (64#12).toNat ≤ 64) ∧ ¬1 ≤ (0#12).toNat ∧ ¬(65#12).toNat ≤ 64 ∧ base.cur.2 = 0 ∧ charm.cur.2 ≠ 0 ∧
    (engineOf leased).holder = some leased.cur.1 ∧ (engineOf leased).used = 0 ∧
    (engineOf (engined fun e => { e with holder := some 0, count := 1, used := 1 })).used ≠ 0 ∧ (engineOf base).holder ≠ some base.cur.1 ∧
    NoStop base ∧
    (let s := engined fun e => { e with waiting := [0, 1] }
     (engineAt s (clusterOf base 0)).holder = none ∧ (0 : CoreId).val ∈ (engineAt s (clusterOf base 0)).waiting ∧
       (∀ m ∈ (engineAt s (clusterOf base 0)).waiting, m < 1024)) ∧
    Leased leased ∧ Unheld leased ∧ PutsArrived leased ∧ lead (engineOf leased).strip ∧
    (∀ x ∈ [clusterOf leased 0], (engineAt leased x).queue = []) ∧
    NoUnderrun leased [nx 1#5, nx 2#5] ∧
    (let s := onCtx leased fun t => putX t 1#5 1#64
     (reads s 1#5).getLsbD 0 = true ∧ (engineOf s).queue = [] ∧ (engineOf s).strip = none) ∧
    (let s := (gangOf (clusterOf leased 0)).foldl (fun s g => modEngine s g fun e => { e with joining := true }) leased
     (∀ x ∈ gangOf (clusterOf s 0), x ≠ clusterOf s 0 → (engineAt s x).joining = true) ∧ (engineOf s).strip = none) ∧
    (engineOf (engined fun e => { e with strip := some 3#2 })).strip ≠ none ∧ (reads leased 1#5).getLsbD 0 = false ∧
    (namedEngine base 0 (jobNumber base 0#32) = some (clusterOf base 0)) ∧
    (((engineAt base (clusterOf base 0)).cseq - 0#32).toNat < 2 ^ 31 ∧ 2 ^ 31 ≤ ((engineAt base (clusterOf base 0)).cseq - 1#32).toNat) ∧
    VecGoes base (.mrd 0#3 1#5 2#5 3#5) [nx 2#5, nx 3#5] ⟨[], some 1#5, false⟩ ∧ (reads base 2#5).toNat < 512 ∧ (reads base 3#5).toNat < 8 ∧
    (engineOf base).vbPoison.contains ((reads base 2#5).toNat * 8 + (reads base 3#5).toNat) = false ∧ 512 ≤ (reads (holding 512#64) 1#5).toNat ∧
    NoUnderrun charm [nx 1#5, nx 2#5] := by
  unfold Leased NoStop Unheld PutsArrived lead VecGoes NoUnderrun; and_intros <;> decide +kernel

/-- Products that end at the bank's last row and one row beyond it. -/
theorem test_witness_MatrixCommands : (1 ≤ (4#5).toNat ∧ (4#5).toNat ≤ 4) ∧ 4 < (5#5).toNat ∧ NoUnderrun leased [nx 1#5, nx 2#5] ∧
    (let s := onCtx leased fun t => putX (putX t 2#5 511#64) 3#5 1#64
     (1 ≤ (reads s 3#5).toNat ∧ (reads s 3#5).toNat ≤ 512 ∧ (reads s 2#5).toNat + (reads s 3#5).toNat ≤ 512) ∧ Leased s ∧ lead (engineOf s).strip ∧
     (engineOf s).queue.length < 16 ∧ Unheld s ∧ PutsArrived s ∧ s.cur.2 = 0 ∧ NoUnderrun s [nx 2#5, nx 3#5]) ∧
    (let s := onCtx leased fun t => putX (putX t 2#5 511#64) 3#5 2#64
     ¬(reads s 2#5).toNat + (reads s 3#5).toNat ≤ 512) ∧
    (let s := modRing leased 0 7#3 fun _ => ring1
     (ringAt s 0 7#3).bound = true ∧ (ringAt s 0 7#3).strm = false ∧ (ringAt s 0 7#3).slot % 64 = 0 ∧ Leased s) ∧
    ¬(ringAt leased 0 7#3).bound = true ∧ ¬Leased base ∧ ¬(some 2#2 : Option (BitVec 2)) = none ∧
    ((reads addressed 1#5).toNat % 64 = 0 ∧ (reads addressed 2#5).toNat < 512 ∧ region (reads addressed 1#5) = 0) ∧
    (reads misaligned 1#5).toNat % 64 ≠ 0 ∧ 16 ≤ (engineOf (modEngine leased 0 fun e => { e with queue := List.replicate 16 default })).queue.length ∧
    (let s := onCtx addressed fun t => putX t 2#5 512#64
     512 ≤ (reads s 2#5).toNat ∧ (reads s 1#5).toNat % 64 = 0 ∧ region (reads s 1#5) = 0) ∧
    (let s := holding 0x0200000000000000#64
     (reads s 1#5).toNat % 64 = 0 ∧ region (reads s 1#5) ≠ 0 ∧
       ∃ t, place s (whoOf s s.cur.1 s.cur.2) .store (reads s 1#5) 512 64 = .fault t) ∧
    NoUnderrun charm [nx 1#5, nx 2#5] := by
  unfold Leased Unheld PutsArrived lead NoUnderrun; and_intros <;>
    first
    | decide +kernel
    | exact ⟨⟨.unallocatedWindow, 0#8, false, false, 0x0200000000000000#64⟩, by decide +kernel⟩

/-- A command at the head of core 0's engine. -/
def commanding (op : MOp) : State := engined fun e =>
  { e with queue := [{ (default : MCmd) with seq := 1#32, op := op, who := whoOf base 0 0, buf := List.replicate 64 0#8 }] }
/-- What lets the engine complete its head command. -/
def headGoes (s : State) : Bool :=
  match (engineAt s (clusterOf base 0)).queue with
  | q :: _ => !q.suspended && !enginePaused s q.who && (engineAt s (clusterOf base 0)).strip.isNone &&
      decide (opRing q.op = none ∨ streamBytes (engineAt s (clusterOf base 0)) q.op ≤ q.buf.length)
  | [] => false
/-- A gang whose strip 0 has an MZACC at its head that comes after command 2 of strip 1, where command `n` is pending. -/
def ganging (n : Word32) : State :=
  modEngine (modEngine base 0 fun e =>
    { e with strip := some 0#2, queue := [{ (default : MCmd) with seq := 1#32, op := .zacc, ahead := [(1, 2#32)] }] }) 1 fun e =>
    { e with strip := some 1#2, queue := [{ (default : MCmd) with seq := n, op := .ldw true 7#3 }] }
theorem test_witness_MatrixEngine : (4 : Nat) ≤ 4 ∧ sWf 0#32 (engineAt base 0).wb = true ∧ headGoes (commanding (.shape 4)) = true ∧
    headGoes (commanding .zacc) = true ∧
    headGoes (modEngine (commanding (.ldw true 7#3)) (clusterOf base 0) fun e => { e with bands := 0 }) = true ∧
    (engineAt (commanding (.ldw true 7#3)) (clusterOf base 0)).wakingBands = false ∧
    headGoes (modEngine (commanding (.mul false true 7#3 511 1)) (clusterOf base 0) fun e => { e with bands := 1 }) = true ∧
    (let s := commanding (.st 0x10040#64 511 7)
     let q := (engineAt s (clusterOf base 0)).queue.headD default
     headGoes s = true ∧ (0 < 7 ∧ 7 < 8) ∧ (engineAt s (clusterOf base 0)).vbPoison.contains (511 * 8 + 7) = false ∧
       placeAt (walkedAt (begunCmd s (clusterOf base 0) q) 0 q.who .store (0x10040#64 + BitVec.ofNat 64 (64 * 7))) 0 q.who .store
         (0x10040#64 + BitVec.ofNat 64 (64 * 7)) 64 64 = .ok (.mem 0x10200 false)) ∧
    (let s := modEngine (commanding (.leave [])) (clusterOf base 0) fun e => { e with strip := some 0#2 }
     (engineAt s (clusterOf base 0)).strip ≠ none ∧ ∀ x ∈ gangOf (clusterOf base 0), x ≠ clusterOf base 0 → (engineAt s x).queue = []) ∧
    (let s := ganging 2#32
     (engineAt s 0).queue ≠ [] ∧ (engineAt s 0).strip = some 0#2 ∧ isGanged .zacc = true ∧ ∃ x ∈ pendingIn s 0, x ∈ [(1, 2#32)]) ∧
    (let s := ganging 3#32
     (engineAt s 1).queue ≠ [] ∧ (engineAt s 1).strip = some 1#2 ∧
       ∃ l ∈ (engineAt s (leadOf 1)).queue, isGanged l.op = true ∧ ((1 : ClusterId).val, 3#32) ∉ l.ahead) := by
  refine ⟨?_, ?_, ?_, ?_, ?_, ?_, ?_, ?_, ?_, ⟨?_, ?_, ?_, ⟨(1, 2#32), ?_, ?_⟩⟩, ?_⟩ <;> decide +kernel

/-- A CPY of 65 bytes to 0x10060 from 0x10040, in core 0's unit. -/
def copying (started : Bool) (idx : Nat) : CopyJob :=
  { (default : CopyJob) with
    seq := 1#32, form := .cpy, who := whoOf base 0 0, started := started, idx := idx
    desc := BitVec.ofNat 512 (0x10060 + 0x10040 * 2 ^ 64 + 65 * 2 ^ 128) }
def copyingState (b : CopyJob) : State := modCluster base (clusterOf base 0) fun k => { k with jobs := [b] }
theorem test_witness_CopyQueue : NoUnderrun addressed [nx 1#5, nx 2#5, nx 3#5] ∧ Room addressed ∧ (reads addressed 1#5).toNat % 64 = 0 ∧
    (let s := modCluster addressed (clusterOf base 0) fun k => { k with jobs := List.replicate 64 default }
     64 ≤ (copyUnit s).jobs.length ∧ (reads s 1#5).toNat % 64 = 0 ∧ NoUnderrun s [nx 1#5, nx 2#5, nx 3#5]) ∧
    (reads misaligned 1#5).toNat % 64 ≠ 0 ∧ RMode.rup ≠ .sr ∧ NoFence addressed ∧
    Reaches addressed .load (0x10040#64 + 16#64) 8 (.mem 0x10050 false) ∧ (loadPlain addressed 0 0 (.mem 0x10050 false) 8).2.2 = false ∧
    (openBatches base ((curCtx base).batches ++ [(curCtx base).openJobs])).length ≤ 255 ∧ Unheld base ∧ PutsArrived base ∧
    (let s := onCtx (copyingState (copying true 0)) fun t => { t with batches := List.replicate 256 [1#32] }
     255 < (openBatches s ((curCtx s).batches ++ [(curCtx s).openJobs])).length ∧ (1#12).toNat < (openBatches s (curCtx s).batches).length ∧
       NoStop s) ∧
    (openBatches base (curCtx base).batches).length ≤ (0#12).toNat ∧ 2048 ≤ (2048#12).toNat ∧ (2047#12).toNat < 2048 ∧
    dueEntries base 0 = [] ∧
    (let s := copyingState (copying false 0)
     JobIs s (clusterOf base 0) (copying false 0) ∧ enginePaused s (copying false 0).who = false ∧
       (copying false 0).desc.toNat / 2 ^ 128 % 2 ^ 40 ≠ 0) ∧
    (∀ idx : Fin 2,
     let s := copyingState (copying true (64 * idx.val))
     JobIs s (clusterOf base 0) (copying true (64 * idx.val)) ∧
       (match loadFor (hartOrder s (clusterOf base 0) 1#32) (.copy (clusterOf base 0)) (whoOf base 0 0) (BitVec.ofNat 64 (0x10040 + 64 * idx.val)) (if idx = 0 then 32 else 1) with
        | .ok r => decide (placeAt r.1 0 (whoOf base 0 0) .store (BitVec.ofNat 64 (0x10060 + 64 * idx.val)) (if idx = 0 then 32 else 1) 1 =
            .ok (.mem (0x10060 + 64 * idx.val) false))
        | .error _ => false) = true) ∧
    (let b : CopyJob := { (default : CopyJob) with seq := 1#32, form := .cpy2, who := whoOf base 0 0, started := true, desc := BitVec.ofNat 512 (2 ^ 511 - 1) }
     producerOf (copyingState { b with desc := BitVec.allOnes 512 }) 0 7#3 = some { b with desc := BitVec.allOnes 512 } ∧
       (engineAt (copyingState b) (clusterOf base 0)).queue = []) := by
  and_intros <;>
    first
    | (intro it h; rw [show (curCtx addressed).sbuf = [] by decide +kernel] at h; cases h)
    | (unfold NoUnderrun; decide +kernel)
    | (unfold Unheld; decide +kernel)
    | (unfold PutsArrived; decide +kernel)
    | (unfold NoStop; decide +kernel)
    | (unfold JobIs; decide +kernel)
    | decide +kernel


/-- A merge window at 0x10040, its unit holding it, and x1 its address. -/
def window1 : MWin := { (default : MWin) with pa := 0x10040, who := whoOf base 0 0, n := 2, g := 4, lim := 0x3F800000#32,
                                              total := 0x10200#64, gen := 1#32, state := 1#2 }
def windowed (ws : List MWin) : State := modDie addressed (paDie addressed 0x10040) fun k => { k with wins := ws }
/-- A window object of one contributor and 2^22 elements: the largest that staging holds. -/
def objectHeld : State :=
  { addressed with mem := putBytes addressed.mem 0x10040 (leBytes 64 (0x3F800000 * 2 ^ 64 + 2 ^ 96 + 2 ^ 22 * 2 ^ 128 + 0x10200 * 2 ^ 192)) }
/-- The object at 0x10040 as MOPEN reads it. -/
def objectOf (s : State) : Nat :=
  homeNat (touchSlice (recallLine (engineAcquire (toUnit s 1#5) (.die (paDie s 0x10040)) (0x10040 / 256)) (0x10040 / 256)) 0x10040) 0x10040 64
/-- An object that breaks no rule of R165, as the statement says it. -/
def goodObject (v : Nat) : Prop :=
  let n := v / 2 ^ 96 % 2 ^ 9
  let g := v / 2 ^ 128 % 2 ^ 32
  let lim : Word32 := BitVec.ofNat 32 (v / 2 ^ 64)
  ¬(n = 0 ∨ 256 < n ∨ g = 0 ∨ 2 ^ 24 < n * g * 4 ∨ flNan (f32 lim) = true ∨ ltFl (.fin false 0 0) (f32 lim) = false ∨
    v / 2 ^ 192 % 2 ^ 6 ≠ 0 ∨ winReserved (BitVec.ofNat 512 v) = true)
def roomFor (s : State) (v : Nat) : Prop :=
  ((dieAt s (paDie s 0x10040)).wins.map fun w => w.n * w.g * 4).sum + v / 2 ^ 96 % 2 ^ 9 * (v / 2 ^ 128 % 2 ^ 32) * 4 ≤ 2 ^ 24

/-- x2 the address of a put's source, x3 a descriptor of one element. -/
def putting (src : Word) : State := onCtx addressed fun t => putX (putX t 2#5 src) 3#5 0x100#64
theorem not_zero {t : Ctx} (h : t.wait = .none) (p i : Nat) : t.wait ≠ .zero p i := fun e => Wait.noConfusion (h.symm.trans e)
theorem test_witness_MergeOpenAndInstructions : NoUnderrun addressed [nx 1#5, nx 2#5, nx 3#5] ∧ WindowAt addressed 1#5 0x10040 ∧
    Unheld addressed ∧ PutsArrived addressed ∧ winAt (windowed [window1]) 0 0x10040 = some window1 ∧
    WindowAt (windowed [window1]) 1#5 0x10040 ∧ winAt addressed 0 0x10040 = none ∧ paDie addressed 0x10040 = 0 ∧
    beingZeroed (windowed [window1]) 0 0x10040 = false ∧
    ¬goodObject (objectOf addressed) ∧ goodObject (objectOf objectHeld) ∧ roomFor objectHeld (objectOf objectHeld) ∧
    (let s := modDie objectHeld 0 fun k => { k with wins := [{ window1 with pa := 0x20000 }] }
     goodObject (objectOf s) ∧ ¬roomFor s (objectOf s) ∧ winAt s 0 0x10040 = none) ∧
    (putCount (reads (putting 0) 3#5) = 1 ∧ SourceAt (atWindow (putting 0x10080#64) 1#5) 0x10080#64 1 [.mem 0x10080 false] ∧
      ∃ t vs, ReadsInTurn 0 0 [.mem 0x10080 false] (walkedBy (atWindow (putting 0x10080#64) 1#5) .load 0x10080#64) t vs) ∧
    (let here := atWindow (putting 0xF00000000#64) 1#5
     watched here 0 0 true false 0xF00000000#64 4 = none ∧ ∃ f, place here (whoOf here 0 0) .load 0xF00000000#64 4 4 = .fault f) ∧
    (window1.state ≠ 3#2 ∧ window1.state ≠ 2#2 ∧ window1.ended = false) ∧
    ((curCtx (windowed [window1])).wait = .none ∧
      (curCtx (onCtx (windowed [window1]) fun t => { t with wait := .merge 0x10040 1#32 0 })).wait = .merge 0x10040 window1.gen window1.born ∧
      (1#32, 1) ≠ (window1.gen, window1.born) ∧ (0#32, 0) ≠ (window1.gen, window1.born)) ∧
    ({ window1 with state := 3#2 } : MWin).state = 3#2 ∧ zeroing (windowed [window1]) window1 = false ∧ window1.g = 4 ∧
    (∀ p i, (curCtx (windowed [window1])).wait ≠ .zero p i) ∧
    ∃ t, ZeroesElement 0 window1 0 (onCtx (toUnit (windowed [window1]) 1#5) endsDiscard) t := by
  refine ⟨?_, ⟨false, ?_⟩, ?_, ?_, ?_, ⟨false, ?_⟩, ?_, ?_, ?_, ?_, ?_, ?_, ?_, ⟨?_, ⟨?_, ⟨.mem 0x10080 false, ?_⟩, rfl, ?_⟩,
    ⟨_, _, ?_, _, ⟨rfl, rfl⟩, rfl⟩⟩, ⟨?_, ⟨⟨.loadPageFault, 0#8, false, false, 0xF00000000#64⟩, ?_⟩⟩, ?_, ?_, ?_, ?_, ?_, not_zero ?_,
    ⟨_, .inl ⟨.mem 0x10200 false, ?_, rfl⟩⟩⟩
  all_goals
    first
    | (unfold NoUnderrun; decide +kernel)
    | (unfold Reaches; decide +kernel)
    | (intro i h; match i, h with | 0, _ => decide +kernel)
    | (unfold Unheld; decide +kernel)
    | (unfold PutsArrived; decide +kernel)
    | (unfold goodObject roomFor; decide +kernel)
    | (unfold goodObject; decide +kernel)
    | (unfold roomFor; decide +kernel)
    | decide +kernel

/-- ctx0 within an MZERO, at its second or its last element. -/
def window2 : MWin := { window1 with zeroer := some (0, 0) }
def zeroingState (i : Fin 2) : State := onCtx (windowed [window2]) fun t => { t with wait := .zero 0x10040 (1 + 2 * i.val) }
/-- A window in the middle of its commit, one that is being zeroed, and one of a single element, none zeroed yet. -/
theorem test_witness_MergeOpenAndInstructions_zero :
    (∀ i : Fin 2, ZeroStands (zeroingState i) window2 (1 + 2 * i.val) ∧ NoUnderrun (zeroingState i) [nx 1#5] ∧
      ∃ t, ZeroesElement 0 window2 (1 + 2 * i.val) (zeroingState i) t) ∧
    (1 + 1 < window2.g ∧ window2.g ≤ 3 + 1) ∧
    (let w : MWin := { window1 with state := 2#2 }
     winAt (windowed [w]) 0 0x10040 = some w ∧ (curCtx (windowed [w])).wait = .none ∧ w.state = 2#2) ∧
    zeroing (modCtx (windowed [{ window1 with zeroer := some (0, 1) }]) 0 1 fun t => { t with wait := .zero 0x10040 1 })
      { window1 with zeroer := some (0, 1) } = true ∧
    (let w : MWin := { window1 with g := 1 }
     winAt (windowed [w]) 0 0x10040 = some w ∧ w.state ≠ 2#2 ∧ zeroing (windowed [w]) w = false ∧ w.g ≤ 1 ∧
       ∃ t, ZeroesElement 0 w 0 (onCtx (toUnit (windowed [w]) 1#5) endsDiscard) t) := by
  refine ⟨fun i => ⟨⟨?_, ?_, ?_⟩, ?_, ⟨_, .inl ⟨.mem (0x10204 + 8 * i.val) false, ?_, rfl⟩⟩⟩, ?_, ?_, ?_,
    ⟨?_, ?_, ?_, ?_, ⟨_, .inl ⟨.mem 0x10200 false, ?_, rfl⟩⟩⟩⟩ <;>
    first
    | decide +kernel
    | (unfold NoUnderrun; revert i; decide +kernel)
    | (revert i; decide +kernel)

/-- A window in the middle of its commit, and one that holds a single element of its total, at an address. -/
def committing (i : Nat) : MWin := { window1 with state := 2#2, elem := i }
def single (va : Word) : MWin := { window1 with g := 1, total := va }
/-- Core 0 is frozen, so that what others store to its window is held. -/
def frozenState : State := modCore (windowed [{ single 0x0100000000000000#64 with who := whoOf base 1 0 }]) 0 fun k =>
  { k with grant := 1, frozen := true }
/-- The last contributor in range and the first out of it; a descriptor of another generation; a reserved bit. -/
theorem test_witness_MergeUnit : MapsInv (windowed [window1]) ∧ WindowAt addressed 1#5 0x10040 ∧ NoUnderrun addressed [nx 1#5, nx 2#5] ∧
    winAt (windowed [window1]) 0 window1.pa = some window1 ∧ winAt addressed 0 0x10040 = none ∧
    ¬current window1 0#64 ∧ current window1 (BitVec.ofNat 64 (2 ^ 40 + 2)) ∧ window1.n ≤ contributor (BitVec.ofNat 64 (2 ^ 40 + 2)) ∧
    current window1 (BitVec.ofNat 64 (2 ^ 40 + 1)) ∧
    ¬(window1.n ≤ contributor (BitVec.ofNat 64 (2 ^ 40 + 1)) ∨ contributor (BitVec.ofNat 64 (2 ^ 40 + 1)) ∈ window1.clasped ∨
      ¬wellPut (BitVec.ofNat 64 (2 ^ 40 + 1))) ∧
    ¬wellPut (BitVec.ofNat 64 (2 ^ 40 + 2 ^ 13)) ∧
    (let p : MPut := ⟨whoOf base 0 0, 0x10040, none, BitVec.ofNat 64 (2 ^ 40 + 1 + 4 * 2 ^ 8), [1#32, 2#32, 3#32, 4#32]⟩
     let s := modDie (windowed [window1]) 0 fun k => { k with puts := [p] }
     (dieAt s 0).puts = [p] ∧ p.pa = window1.pa ∧ current window1 p.desc ∧ putCount p.desc = 4 ∧ putOffset p.desc + 4 = window1.g ∧
       wellPut p.desc ∧ winAt s 0 0x10040 = some window1) ∧
    (let w := committing 3
     winAt (windowed [w]) 0 w.pa = some w ∧ w.state = 2#2 ∧ w.suspended = false ∧ enginePaused (windowed [w]) w.who = false ∧
       w.elem < w.g ∧ (∀ c < w.n, (c * w.g + w.elem) / 16 ∉ w.bezelPoison) ∧
       (match loadFor (windowed [w]) (.merge 0) w.who (totalVa w w.elem) 4 with
        | .ok r => decide (placeAt (walkedAt r.1 0 w.who .store (totalVa w w.elem)) 0 w.who .store (totalVa w w.elem) 4 1 =
            .ok (.mem 0x1020C false))
        | .error _ => false) = true) ∧
    (let w := committing 4
     winAt (windowed [w]) 0 w.pa = some w ∧ w.state = 2#2 ∧ w.suspended = false ∧ enginePaused (windowed [w]) w.who = false ∧ w.g ≤ w.elem) ∧
    (let w := single 0x10200#64
     winAt (windowed [w]) 0 w.pa = some w ∧ w.state ≠ 2#2 ∧ zeroing (windowed [w]) w = false) ∧
    (∃ t, ZeroesTotal 0 (single 0x10200#64) (single 0x10200#64).g 0 (windowed [single 0x10200#64]) t) ∧
    (let w : MWin := { single 0x0100000000000000#64 with who := whoOf base 1 0 }
     placeAt (walkedAt frozenState 0 w.who .store (totalVa w 0)) 0 w.who .store (totalVa w 0) 4 1 = .held) := by
  refine ⟨maps_of_ok ?_, ⟨false, ?_⟩, ?_, ?_, ?_, ?_, ?_, ?_, ?_, ?_, ?_, ?_, ?_, ?_, ?_, ⟨_, _, ⟨.inl ⟨.mem 0x10200 false, ?_, rfl⟩, rfl⟩⟩, ?_⟩ <;>
    first
    | (unfold NoUnderrun; decide +kernel)
    | (unfold Reaches; decide +kernel)
    | (unfold current; decide +kernel)
    | (unfold wellPut; decide +kernel)
    | (unfold current wellPut; decide +kernel)
    | decide +kernel

/-- Fifteen jobs at the port, and sixteen. -/
def ported (f : Port → Port) : State := modPort addressed (myPort base) f
theorem test_witness_BusInstructions : NoUnderrun addressed [nx 1#5, nx 2#5, nx 3#5] ∧
    (reads addressed 1#5).toNat % sourceStep (.krbs .bsm8) = 0 ∧ (reads addressed 2#5).toNat % resultStep (.kred .k32) = 0 ∧
    (reads misaligned 1#5).toNat % sourceStep (.kmax .k16) ≠ 0 ∧
    (let s := ported fun p => { p with jobs := List.replicate 15 default }
     ((portAt s (myPort s)).jobs.filter (!·.ghost)).length < 16 ∧ Unheld s ∧ PutsArrived s) ∧
    (let s := ported fun p => { p with jobs := List.replicate 16 default }
     16 ≤ ((portAt s (myPort s)).jobs.filter (!·.ghost)).length) ∧
    2 ^ 33 ≤ (reads (holding 0x200000000#64) 1#5).toNat ∧ (reads (holding 0x1FFFFFFFF#64) 1#5).toNat < 2 ^ 33 ∧ NoStop addressed ∧
    (let job : BusJob := { (default : BusJob) with seq := 1#32 }
     let s := modPort (holding 1#64) 0 fun p => { p with jobs := [job], seq := 2#32 }
     job ∈ (portAt s 0).jobs ∧ job.seq.toNat = (reads s 1#5).toNat % 2 ^ 32 ∧ job.ghost = false ∧
       (portAt s 0).jobs.find? (fun b => b.seq == BitVec.ofNat 32 (reads s 1#5).toNat && !b.ghost) = some job) ∧
    (let job : BusJob := { (default : BusJob) with seq := 1#32, status := 1 }
     let s := modPort (holding 1#64) 0 fun p => { p with ended := [job], seq := 2#32 }
     (portAt s 0).jobs = [] ∧ (portAt s 0).ended.find? (fun b => b.seq == BitVec.ofNat 32 (reads s 1#5).toNat) = some job ∧ Unheld s) ∧
    (let s := holding 0xFFFFFFFF#64
     (portAt s 0).jobs = [] ∧ (portAt s 0).ended = [] ∧ (portAt s 0).wrapped = false ∧
       (portAt s 0).seq.toNat ≤ (reads s 1#5).toNat % 2 ^ 32) ∧
    (let s := modPort (holding 0#64) 0 fun p => { p with seq := 1#32 }
     (portAt s 0).jobs = [] ∧ (portAt s 0).ended = [] ∧ (portAt s 0).wrapped = false ∧ ¬(portAt s 0).seq.toNat ≤ (reads s 1#5).toNat % 2 ^ 32) ∧
    (let s := modPort (holding 0#64) 0 fun p => { p with wrapped := true, seq := 0xFFFFFFFF#32 }
     (portAt s 0).jobs = [] ∧ (portAt s 0).ended = [] ∧ (portAt s 0).wrapped = true ∧
       (BitVec.ofNat 32 (reads s 1#5).toNat - (portAt s 0).seq).toNat < 2 ^ 31) ∧
    (let s := modPort (holding 0x80000000#64) 0 fun p => { p with wrapped := true }
     (portAt s 0).jobs = [] ∧ (portAt s 0).ended = [] ∧ (portAt s 0).wrapped = true ∧
       ¬(BitVec.ofNat 32 (reads s 1#5).toNat - (portAt s 0).seq).toNat < 2 ^ 31) := by
  unfold NoUnderrun Unheld PutsArrived NoStop
  and_intros <;> decide +kernel

/-- A configuration of one writer that is valid: it is its own anchor on circle 0. -/
def config1 : Word := BitVec.ofNat 64 (1 + 2 ^ 2 + 2 ^ 8 + 2 ^ 24 + 2 ^ 32 + 2 ^ 48)
/-- A port that takes part in circle 0, for which `n` frames have begun. -/
def windowing (n : Nat) : State :=
  modCircle (modCore (ported fun p => { p with attached := true, lag := 1, frame := 1 }) 0 fun k => { k with kcfg := config1 })
    (myPort base) 0#4 fun c => { c with frames := n }
/-- A job of that configuration with no element or 2^24 of them, alone at its port. -/
def busStart (n : Fin 2) : BusJob := { (default : BusJob) with seq := 1#32, op := .kred .k8, cfg := config1, n := 2 ^ 24 * n.val }
def busStarting (n : Fin 2) : State := ported fun p => { p with jobs := [busStart n], limit := 1 }
theorem busStarting_cfg (n : Fin 2) : (circleAt (busStarting n) (myPort base) (kCircle (busStart n).cfg)).cfg = none := by
  revert n; decide +kernel
theorem busStarting_next (n : Fin 2) : StartsNext (busStarting n) (myPort base) (busStart n) := by
  refine ⟨?_, ?_, ?_, fun _ _ v h => ?_, [], [], ?_, fun x h => by cases h⟩
  case refine_4 => rw [busStarting_cfg] at h; cases h
  all_goals revert n; decide +kernel
theorem not_takesAnew_config1 : ¬TakesAnew (circleAt addressed (myPort base) 0#4) config1 := by
  rintro (h | ⟨v, h, -⟩)
  · exact absurd h (by decide +kernel)
  · rw [show (circleAt addressed (myPort base) 0#4).cfg = none by decide +kernel] at h; cases h
theorem test_witness_BusEngine : (1 ≤ 1 ∧ (65535 : Nat) < 2 ^ 16 ∧ ∀ xs ∈ [[1], [0]], xs.length = 1 ∧ ∀ x ∈ xs, x < 2 ^ 1) ∧
    goodConfig config1.toNat 1 ∧ ¬goodConfig config1.toNat 0 ∧
    (∀ n : Fin 2, StartsNext (busStarting n) (myPort base) (busStart n) ∧ (busStart n).num = none ∧ (busStart n).ghost = false ∧
      (busStart n).pendingOut = [] ∧ goodConfig (busStart n).cfg.toNat (portAt (busStarting n) (myPort base)).limit) ∧
    (let s := windowing 1
     TakesPart s (myPort base) 0#4 ∧ WindowEnds s (myPort base) 0#4 ∧ ¬WindowEnds (windowing 0) (myPort base) 0#4 ∧
       (circleAt s (myPort base) 0#4).lost = false ∧
       (let t := stageNext (flushPort s (myPort base)) (myPort base) 0#4
        nameUnit t (myPort base) 0#4 = none ∧ (lowestOp t (myPort base) 0#4).all fun x => !x.ghost)) ∧
    memberOf addressed (myPort base) 1#4 = none ∧
    (¬TakesAnew (circleAt addressed (myPort base) 0#4) config1 ∧
      TakesAnew (circleAt (modCircle addressed (myPort base) 0#4 fun c => { c with lost := true }) (myPort base) 0#4) config1) := by
  refine ⟨?_, ?_, ?_, fun n => ⟨busStarting_next n, ?_⟩, ⟨⟨⟨config1, ?_, ?_⟩, ?_⟩, ?_⟩, ?_, not_takesAnew_config1, .inl ?_⟩
  all_goals
    first
    | (unfold goodConfig; decide +kernel)
    | (unfold WindowEnds; decide +kernel)
    | (revert n; unfold goodConfig; decide +kernel)
    | decide +kernel

/-- The first and the last charm; live and not; a target that is a header and one that is not. -/
theorem test_witness_CharmInstructions : (1 ≤ (1#5).toNat ∧ (10#5).toNat ≤ 10) ∧ header base (targetAt base ((0xFFF#12).toInt)) = true ∧
    header base (targetAt base ((0#12).toInt)) = false ∧ base.cur.2 = 0 ∧ charm.cur.2 ≠ 0 ∧ (ctxAt charm 0 (Fin.ofNat 11 1)).run ≠ .off ∧
    (ctxAt base 0 (Fin.ofNat 11 10)).run = .off ∧ Unheld base ∧ PutsArrived base ∧ NoUnderrun base [nx 1#5] ∧
    NoUnderrun charm [nx 1#5] ∧ Unheld charm ∧ PutsArrived charm ∧ NoStop base ∧
    (∀ j : CtxId, 0 < j.val → (ctxAt base 0 j).run = .off) ∧ jobsOutstanding base 0 = false ∧
    (Unheld { charm with cur := (0, 0) } ∧ PutsArrived { charm with cur := (0, 0) } ∧ (ctxAt charm 0 1).run ≠ .off) ∧
    charmLives { charm with cur := (0, 0) } 0 := by
  refine ⟨?_, ?_, ?_, ?_, ?_, ?_, ?_, ?_, ?_, ?_, ?_, ?_, ?_, ?_, ?_, ?_, ⟨?_, ?_, ?_⟩, ⟨1, ?_, ?_⟩⟩ <;>
    first
    | (unfold NoUnderrun; decide +kernel)
    | (unfold Unheld; decide +kernel)
    | (unfold PutsArrived; decide +kernel)
    | (unfold NoStop; decide +kernel)
    | decide +kernel


/-- A record field of a launch. -/
def record (fs : List (Nat × Nat)) : BitVec 2048 := BitVec.ofNat 2048 (packNat fs)
/-- A launch of the package; launch 0 is the one whose team is bound on core 0. -/
def launchWith (n : Nat) (fs : List (Nat × Nat)) : Launch := { (default : Launch) with lid := BitVec.ofNat 32 n, rec_ := record fs }
def launched (ls : List Launch) : State := modHub { base with parts := [⟨0, 4, 1000000⟩], ns := 1000000 } fun h => { h with launches := ls }
/-- Launch 1 of the highest priority waits for the whole of a partition of one die, which launch 0 of the lowest holds in part. -/
def crowded : State :=
  { launched [launchWith 0 [], { launchWith 1 [(3, 7), (12, 2)] with ready := true }] with parts := [⟨0, 1, 1000000⟩] }
/-- Launch 1 has a team of one core to bind. -/
def waitingTeam : Launch := { launchWith 1 [(14, 1)] with ready := true }
/-- ctx0 in S mode with IE. -/
def irqable : State := up fun t => { t with status := 20#64 }
/-- Core 0 is asked to stop, its region not discardable or discardable. -/
def stopping (st : Word) : State := onCtx (upCore fun k => { k with stopReq := .preempt }) fun t => { t with status := st }

theorem test_witness_BoundaryEvents : ((ctxAt base 0 0).wait = .none ∧ ¬Within (ctxAt base 0 0) ∧ ¬StopsFirst base 0 0 ∧
      Within (ctxAt (up fun t => { t with wait := .wfi }) 0 0) ∧ ¬Within (ctxAt supervisor 0 0) ∧ ¬StopsFirst supervisor 0 0 ∧
      ¬Within (ctxAt irqable 0 0) ∧ ¬StopsFirst irqable 0 0) ∧
    ((ctxAt irqable 0 0).run = .on ∧ (ctxAt irqable 0 0).status.getLsbD 2 = true ∧ (ctxAt irqable 0 0).status.getLsbD 4 = true) ∧
    ((ctxAt base 0 10).run ≠ .on ∧ (10 : CtxId) ≠ 0 ∧ (ctxAt supervisor 0 0).status.getLsbD 4 = false) ∧
    (curCtx base).run = .on ∧ Alive base 0 0 ∧ (ctxAt base 0 0).trapDue = none ∧
    (curCtx (up fun t => { t with nul := 1#2 })).nul.getLsbD 0 = true ∧ (curCtx base).nul.getLsbD 0 = false ∧ (ctxAt base 0 0).bpPass = false ∧
    (∀ a : Fin 2, let s := upCore fun k => { k with dbg := { k.dbg with bp := vPut k.dbg.bp 3 0x10009#64, attach := a == 1 } }
     ((coreAt s 0).dbg.bp.get 3).getLsbD 0 = true ∧ (ctxAt s 0 0).pc.addr = bitsOf ((coreAt s 0).dbg.bp.get 3) 2 63 ∧ (coreAt s 0).dbg.attach = (a == 1)) ∧
    ((ctxAt base 0 0).status.getLsbD 2 = false ∧ (ctxAt supervisor 0 0).status.getLsbD 2 = true ∧ (ctxAt supervisor 0 0).run = .on) ∧
    (let s := upCore fun k => { k with ienab := 2#2, door := true }
     (ctxAt s 0 0).status.getLsbD 2 = false ∧ (coreAt s 0).ienab.getLsbD 1 = true ∧ (coreAt s 0).door = true) ∧
    ((coreAt base 0).ienab.getLsbD 0 = false ∧ (coreAt base 0).ienab.getLsbD 1 = false) ∧
    (ctxAt (up fun t => { t with wait := .sleep 5 false }) 0 0).wait = .sleep 5 false := by
  unfold Alive
  refine ⟨⟨?_, notWithin ?_, notStopsFirst ?_, .inr ?_, notWithin ?_, notStopsFirst ?_, notWithin ?_, notStopsFirst ?_⟩, ?_⟩ <;> decide +kernel

theorem mayPreempt_crowded : mayPreempt crowded 0 = true := by decide +kernel
theorem mayPreempt_base : mayPreempt base 0 = false := by decide +kernel
theorem test_witness_StopEvents_team : (coreAt base 1).team = none ∧ (coreAt base 0).team ≠ none ∧ (coreAt base 0).dbg.halt = false ∧
    (coreAt (upCore fun k => { k with dbg := { k.dbg with halt := true } }) 0).dbg.halt = true ∧
    mayPreempt crowded 0 = true ∧ mayPreempt base 0 = false ∧ (coreAt base 0).stopReq = .none ∧ coreDie 0 = coreDie 255 ∧
    (coreAt base 255).team = none ∧ coreDie 0 ≠ coreDie 256 ∧ (190 ≤ 190 ∧ 170 ≤ 170) ∧ 189 < 190 ∧ 170 < 171 := by
  refine ⟨?_, ?_, ?_, ?_, mayPreempt_crowded, mayPreempt_base, ?_⟩ <;> decide +kernel
theorem test_witness_StopEvents :
    (Alive (stopping 0#64) 0 0 ∧ (coreAt (stopping 0#64) 0).stopReq ≠ .none ∧ (ctxAt (stopping 0#64) 0 0).status.getLsbD 2 = false ∧
      (ctxAt (stopping 0#64) 0 0).status.getLsbD 6 = false ∧ (ctxAt (stopping 0#64) 0 0).stopHere = false ∧
      (ctxAt (stopping 0#64) 0 0).rsDue = false ∧ (stopping 0#64).hub.stopped = false) ∧
    (ctxAt (onCtx (stopping 0#64) fun t => { t with stopHere := true }) 0 0).stopHere = true ∧
    (ctxAt (onCtx (stopping 0#64) fun t => { t with rsDue := true }) 0 0).rsDue = true ∧
    (¬Within (ctxAt (stopping 0#64) 0 0) ∧ ¬Within (ctxAt (onCtx (stopping 0#64) fun t => { t with rsDue := true }) 0 0) ∧
      ¬Within (ctxAt (stopping 64#64) 0 0) ∧ ¬Within (ctxAt (onCtx (stopping 64#64) fun t => { t with wait := .sleep 5 false }) 0 0)) ∧
    ((ctxAt (stopping 64#64) 0 0).status.getLsbD 6 = true ∧ (ctxAt (stopping 64#64) 0 0).wait = .none) ∧
    (ctxAt (onCtx (stopping 64#64) fun t => { t with wait := .sleep 5 false }) 0 0).wait ≠ .none := by
  unfold Alive
  refine ⟨?_, ?_, ?_, ⟨notWithin ?_, notWithin ?_, notWithin ?_, notWithin_sleep (n := 5) (w := false) ?_⟩, ?_⟩ <;> decide +kernel

theorem test_witness_SysregWriteEvents : (curCtx base).run = .on ∧ (curCtx supervisor).run = .on ∧ sMode supervisor = true ∧ sMode base = false ∧
    (curCore base).arr.getLsbD (7#3).toNat = false ∧ (curCore (upCore fun k => { k with arr := 0x80#8 })).arr.getLsbD (7#3).toNat = true := by
  decide +kernel

/-- Core 0's team stopped, with every context of it. -/
def stoppedTeam (r : StopReq) : State := onCtx (upCore fun k => { k with stopReq := r }) fun t => { t with run := .discarded }
/-- Core 1 has a slot of the record at 0, which names one core. -/
def slotted : State := modCore base 1 fun k => { k with slot := 1#64 }
theorem dispatchCores_slotted : dispatchCores slotted 0 0 = [1] := by decide +kernel
theorem given_slotted (m : CoreId) : m ∈ [(1 : CoreId)] ↔ ∃ e : DieId, (e = 0 ∨ (e ∈ partDies slotted 0 ∧ (dieAt slotted e).busy = true ∧
    (dieAt slotted e).dispatch.toNat = 0)) ∧ m ∈ dispatchCores slotted e 0 := by
  have h : ∀ e : DieId, (dieAt slotted e).busy = false := by decide +kernel
  constructor
  · exact fun hm => ⟨0, .inl rfl, by rw [dispatchCores_slotted]; exact hm⟩
  · rintro ⟨e, rfl | ⟨-, hb, -⟩, hm⟩
    · rwa [dispatchCores_slotted] at hm
    · rw [h e] at hb; cases hb
/-- The same with a record that says RESTORE. -/
def restoring : State := { slotted with mem := putBytes slotted.mem 13 [1#8] }
def quietCtx (t : Ctx) : Bool := t.sbuf.isEmpty && t.late.isEmpty
theorem quiet_restoring : Quiet restoring := by
  refine ⟨fun c j => ?_, fun h => ?_⟩
  · have h : quietCtx (ctxAt restoring c j) = true :=
      of_decide_eq_true (of_all_cores (p := fun k => decide (∀ j : CtxId, quietCtx (coreCtx k j) = true)) (by decide +kernel) c) j
    simpa only [quietCtx, Bool.and_eq_true, List.isEmpty_iff] using h
  · cases h <;> rename_i x <;> revert x <;> decide +kernel
theorem test_witness_TeamEvents_restore : Quiet restoring ∧ (dieAt restoring 0).busy = false ∧ dispatchCores restoring 0 0 = [1] ∧
    (∀ n ∈ [(1 : CoreId)], (coreAt restoring n).team = none) ∧ homeNat restoring 0 128 / 2 ^ 104 % 2 = 1 ∧
    [(1 : CoreId)].length = homeNat restoring 0 128 / 2 ^ 74 % 2 ^ 10 + 1 ∧ restoring.owner = [] ∧ backed restoring 127 = true ∧
    ∀ e : DieId, (dieAt restoring e).busy = false := by
  refine ⟨quiet_restoring, ?_, ?_, ?_, ?_, ?_, ?_, ?_, ?_⟩ <;> decide +kernel
theorem test_witness_TeamEvents_dispatch : (dieAt base 0).busy = false ∧ (dieAt (modDie base 0 fun k => { k with busy := true }) 0).busy = true ∧
    dispatchCores base 0 0 = [] ∧ ((dieAt slotted 0).busy = false ∧ backed slotted 0 = true ∧ backed slotted (0 + 127) = true ∧ slotted.owner = []) ∧
    dispatchCores slotted 0 0 ≠ [] ∧ (0 : DieId) ∈ partDies slotted 0 ∧ (partDies slotted 0).Nodup ∧ [(1 : CoreId)].Nodup ∧
    [(1 : CoreId)].length = homeNat slotted 0 128 / 2 ^ 74 % 2 ^ 10 + 1 ∧ homeNat slotted 0 128 / 2 ^ 104 % 2 = 0 ∧
    [(1 : CoreId)].length ≠ homeNat { slotted with mem := putBytes slotted.mem 9 [4#8] } 0 128 / 2 ^ 74 % 2 ^ 10 + 1 ∧
    (modHub base fun h => { h with stopped := true }).hub.stopped = true ∧ base.hub.stopped = false := by
  refine ⟨?_, ?_, ?_, ⟨?_, ?_, ?_, ?_⟩, ?_, ?_, ?_, ?_, ?_, ?_, ?_, ?_, ?_⟩ <;> decide +kernel
theorem test_witness_TeamsAndSchedule : backed base 0 = true ∧ backed base 127 = true ∧ base.owner = [] ∧ backed base (2 ^ 51) = false ∧
    (∃ b, (coreAt (stoppedTeam .preempt) 0).team = some b ∧ (teamCores (stoppedTeam .preempt) 0).length = b.n ∧
      engineJobsOf (stoppedTeam .preempt) b = false) ∧
    (∀ m ∈ teamCores (stoppedTeam .preempt) 0, (coreAt (stoppedTeam .preempt) m).stopReq = .preempt ∧
      ∀ j, (ctxAt (stoppedTeam .preempt) m j).run ≠ .on ∧ (ctxAt (stoppedTeam .preempt) m j).run ≠ .dead ∧
        buffersHeld (stoppedTeam .preempt) m j = false) ∧
    ((coreAt base 1).team = none ∧ (ctxAt base 0 0).run = .on ∧ (0 : CoreId) ∈ teamCores base 0) ∧
    ((coreAt (stoppedTeam (.migrate 1)) 0).stopReq = .migrate 1 ∧ (coreAt (stoppedTeam (.migrate 1)) 0).dbg.halt = false ∧
      (coreAt (stoppedTeam (.migrate 1)) 1).team = none ∧
      ∀ j, (ctxAt (stoppedTeam (.migrate 1)) 0 j).run ≠ .on ∧ (ctxAt (stoppedTeam (.migrate 1)) 0 j).run ≠ .dead ∧
        buffersHeld (stoppedTeam (.migrate 1)) 0 j = false) ∧
    (∀ m ∈ teamCores (upCore fun k => { k with finished := true }) 0, (coreAt (upCore fun k => { k with finished := true }) m).finished = true) ∧
    (coreAt base 0).finished = false ∧
    (let s := launched [waitingTeam]
     (0 : PartId).val < s.parts.length ∧ dispatchBusy s 0 (1, 1) = false ∧ (∃ c, firstBindable s 0 = some c ∧ launchOf s c.lid = some waitingTeam ∧ slotFits s 0 c 1 = true ∧
       slotFits s 0 c 0 = false ∧ c.team < 2 ^ 24) ∧
     slotCores (partAt s 0).ndies waitingTeam.rec_ 1 = (1, 1) ∧ backed s (bindRecordPa s 0 1) = true ∧ backed s (bindRecordPa s 0 1 + 127) = true) ∧
    (let s := modDie (launched [waitingTeam]) 0 fun k => { k with bindbase := BitVec.ofNat 64 (2 ^ 51) }
     backed s (bindRecordPa s 0 1) = false) ∧
    dispatchBusy (modDie (launched [waitingTeam]) 0 fun k => { k with busy := true }) 0 (1, 1) = true := by
  refine ⟨?_, ?_, ?_, ?_, ⟨(coreAt base 0).team.get (by decide +kernel), ?_, ?_, ?_⟩, ?_, ?_, ?_, ?_, ?_,
    ⟨?_, ?_, ⟨(firstBindable (launched [waitingTeam]) 0).get (by decide +kernel), ?_, ?_, ?_, ?_, ?_⟩, ?_, ?_, ?_⟩, ?_, ?_⟩ <;> decide +kernel

def buffering (its : List SbItem) : State := up fun t => { t with sbuf := its }
theorem test_witness_MemoryEvents :
    (let it := SbItem.store (.mem 0x10040 false) [1#8] false .pkg false 0 none
     needsLoads it = false ∧ needsLoads (.store (.mem 0x10040 false) [1#8] true .pkg false 0 none) = true ∧
     (ctxAt (buffering [it]) 0 0).sbuf[0]? = some it ∧ mayDrain (buffering [it]) 0 (ctxAt (buffering [it]) 0 0).sbuf 0 it = true ∧
     (ctxAt (buffering [it, it]) 0 0).sbuf[1]? = some it ∧ mayDrain (buffering [it, it]) 0 (ctxAt (buffering [it, it]) 0 0).sbuf 1 it = false) ∧
    (ctxAt base 0 0).sbuf.length ≤ 0 ∧ MapsInv (lined (some 0)) ∧
    (∃ l, l1Line (coreAt (lined (some 0)) 0) (0x10040 / 256) = some l ∧ l.bytes.Pairwise (fun a b => a.1 < b.1) ∧ (∀ e ∈ l.bytes, e.1 < 256) ∧
      ∃ e ∈ l.bytes, e.2.dirty ≠ none) ∧
    (∃ l, l1Line (coreAt (lined none) 0) (0x10040 / 256) = some l ∧ ∀ e ∈ l.bytes, e.2.dirty = none) ∧
    (rootKnown base 0#9 1#35 = true ∧ (1#35).toNat * 2 ^ 17 + 2 ^ 17 ≤ lpddrEnd) ∧ rootKnown base 0#9 2#35 = false ∧
    lpddrEnd < (BitVec.allOnes 35).toNat * 2 ^ 17 + 2 ^ 17 ∧
    (∃ m ∈ groupOf base 0 0#3, hasArrived (coreAt base m) 0#3 = false) ∧
    (∀ m ∈ groupOf (upCore fun k => { k with arr := 0x80#8, vote := 0x80#8 }) 0 7#3,
      hasArrived (coreAt (upCore fun k => { k with arr := 0x80#8, vote := 0x80#8 }) m) 7#3 = true) := by
  refine ⟨⟨?_, ?_, ?_, ?_, ?_, ?_⟩, ?_, maps_of_ok ?_, ⟨⟨0x10040 / 256, 39, [(0x40, ⟨7#8, some 0⟩)]⟩, ?_, ?_, ?_, ⟨(0x40, ⟨7#8, some 0⟩), ?_, ?_⟩⟩,
    ⟨⟨0x10040 / 256, 39, [(0x40, ⟨7#8, none⟩)]⟩, ?_, ?_⟩, ?_, ?_, ?_, ⟨0, ?_, ?_⟩, ?_⟩ <;> decide +kernel

/-- A fault record waits; the ring has room for one more, or is full; HEAD is at an address that nothing backs. -/
def faulted (posted : Nat) (at_ : Nat) : State := modDie base 0 fun k =>
  { k with faults := [default], posted := List.replicate posted default, fqsz := 4#5, fqbase := BitVec.ofNat 64 at_ }
/-- The record of a refused store of core 0's copy unit has been posted; RESP at 0x18 says 1, so that the job goes on. -/
def refusedStore : FaultRec := { (default : FaultRec) with cause := 1#4, seq := 1#32 }
def answered : State :=
  let s := copyingState { copying true 0 with suspended := true }
  { modDie s 0 fun k => { k with posted := [(0, refusedStore, false)], fqsz := 4#5, fqdoor := true } with mem := putBytes s.mem 0x18 [1#8] }
theorem test_witness_ErrorEvents_answers : (dieAt answered 0).posted = [(0, refusedStore, false)] ∧
    (dieAt answered 0).fqbase.toNat + 32 * (0 % 2 ^ (dieAt answered 0).fqsz.toNat) + 24 = 0x18 ∧ answered.owner = [] ∧ answered.lrr = [] ∧
    homeNat answered 0x18 1 % 4 = 1 ∧ refusedStore.cause.toNat < 3 ∧ refusedStore.kind ≠ 4#3 ∧ refusedStore.kind = 0#3 ∧
    (clusterAt answered (unitCluster answered 0 refusedStore)).jobs.find? (·.seq == refusedStore.seq) =
      some { copying true 0 with suspended := true } ∧
    (let r : FaultRec := { refusedStore with cause := 3#4 }
     let s := { modDie answered 0 fun k => { k with posted := [(0, r, false)] } with mem := putBytes answered.mem 0x18 [2#8] }
     (dieAt s 0).posted = [(0, r, false)] ∧ homeNat s 0x18 1 % 4 = 2 ∧ r.cause = 3#4 ∧ r.kind = 0#3 ∧
       (clusterAt s (unitCluster s 0 r)).jobs.find? (·.seq == r.seq) = some { copying true 0 with suspended := true }) := by
  and_intros <;> decide +kernel
theorem test_witness_ErrorEvents_places : isLpddr (2 ^ 51) = false ∧ l1Line (coreAt (lined none) 0) (0x10040 / 256) ≠ none ∧
    l1Line (coreAt base 0) (0x10040 / 256) = none ∧ winAt (windowed [window1]) 0 0x10040 = some window1 ∧
    (ctxAt (up fun t => { t with run := .atWait }) 0 0).run = .atWait ∧ (ctxAt (up fun t => { t with run := .atHeader }) 0 0).run = .atHeader ∧ (ctxAt (up fun t => { t with run := .dead }) 0 0).run = .dead ∧
    base.hub.stopped = false ∧ (modHub base fun h => { h with stopped := true }).hub.stopped = true := by
  and_intros <;> decide +kernel
theorem test_witness_ErrorEvents : isLpddr 0x2FFFFFFFFF = true ∧
    ((ctxAt base 0 0).run = .on ∧ (ctxAt base 0 0).status.getLsbD 2 = false ∧ (ctxAt base 0 0).status.getLsbD 6 = false) ∧
    ((ctxAt supervisor 0 0).run = .on ∧ (ctxAt supervisor 0 0).status.getLsbD 2 = true) ∧ (ctxAt base 0 10).run ≠ .on ∧
    (dieAt base 0).faults = [] ∧ (dieAt (faulted 15 0x20) 0).faults = default :: [] ∧
    (dieAt (faulted 15 0x20) 0).posted.length < 2 ^ (dieAt (faulted 15 0x20) 0).fqsz.toNat ∧
    2 ^ (dieAt (faulted 16 0x20) 0).fqsz.toNat ≤ (dieAt (faulted 16 0x20) 0).posted.length ∧
    (backed (faulted 15 0x20) 0x20 = true ∧ backed (faulted 15 0x20) (0x20 + 31) = true ∧ MapsInv (faulted 15 0x20)) ∧
    backed (faulted 15 (2 ^ 51)) (2 ^ 51) = false := by
  refine ⟨?_, ?_, ?_, ?_, ?_, ?_, ?_, ?_, ⟨?_, ?_, maps_of_ok ?_⟩, ?_⟩ <;> decide +kernel

/-- A grant of two banks and a line in the last bank of the L1. -/
def banked : State := upCore fun k => { k with grant := 2, l1k := 2, l1 := [⟨1, 39, [(0, ⟨0#8, none⟩)]⟩] }
theorem test_witness_BankEvents : bankExists (.array 1 39) = true ∧ bankExists (.array 1 40) = false ∧
    (let s := modCore base 1 fun k => { k with power := 0#80 }
     let s := { s with ns := 10000000 }
     bankState s (.array 1 0) < 3#2 ∧ (3#2).toNat ≤ deepest s (.array 1 0) ∧
       bankUsed s (.array 1 0) + idleTime (heldClock s (.array 1 0)) 3#2 ≤ s.ns) ∧
    ¬bankState base (.array 1 0) < bankState base (.array 1 0) ∧ (1 < (coreAt banked 0).grant ∧ (coreAt banked 0).grant ≤ 2) ∧
    (40 - (coreAt banked 0).l1k ≤ 38 ∧ 37 < 40 - (coreAt banked 0).l1k) ∧ bankHasLine (coreAt banked 0) 39 ∧ ¬bankHasLine (coreAt banked 0) 38 ∧
    (0#2 < bankState base (.array 1 0) ∧ 0#2 < bankState base (.array 0 38) ∧ alwaysDark base (.array 0 1)) ∧
    ((clusterAt base (coreCluster 0)).gated = false ∧ alwaysDark (modCluster base 0 fun k => { k with gated := true }) (.array 0 39)) ∧
    ¬alwaysDark base (.array 0 38) ∧ (clusterAt banked (coreCluster 0)).gated = false ∧ (∀ m, coreCluster m = 127 → (coreAt base m).team = none ∧ corePhase (coreAt base m) = 0#2 ∧
      (coreAt base m).l1 = []) ∧
    coreCluster 0 = 0 ∧ (coreAt base 0).team ≠ none := by
  refine ⟨?_, ?_, ?_, ?_, ?_, ?_, ⟨⟨1, 39, [(0, ⟨0#8, none⟩)]⟩, ?_, ?_, ?_⟩, ?_,
    ⟨?_, ?_, 0, 1, rfl, .inl ?_⟩, ⟨?_, 0, 39, rfl, .inr ?_⟩, ?_, ?_, fun m _ => ?_, ?_, ?_⟩
  case refine_10 =>
    rintro ⟨l, hl, hb, -⟩
    rw [show (coreAt banked 0).l1 = [⟨1, 39, [(0, ⟨0#8, none⟩)]⟩] by decide +kernel] at hl
    simp only [List.mem_singleton] at hl
    subst hl; exact absurd hb (by decide)
  case refine_16 =>
    rintro ⟨c, n, e, h⟩
    cases e
    exact absurd h (by decide +kernel)
  case refine_18 => revert m; decide +kernel
  all_goals decide +kernel


/-- The team of core 0 has an allowance of 0 in this interval. -/
def exhausted (det : Bool) : State :=
  modHub (upCore fun k => { k with team := k.team.map fun b => { b with det := det } }) fun h =>
    { h with meters := [{ (default : Meter) with dealt := true }] }
theorem test_witness_PowerEvents_drawn :
    (∀ det : Bool, ∃ b, (coreAt (exhausted det) 0).team = some b ∧ b.det = det ∧ AllowanceDrawn (exhausted det) b) ∧
    (∃ b, (coreAt base 0).team = some b ∧ ¬AllowanceDrawn base b) ∧
    (TooHot (upCore fun k => { k with temp := 230 }) 0 ∧ ¬TooHot (upCore fun k => { k with temp := 229 }) 0 ∧ lpddrOf base 0 0x10040 ∧
      ¬lpddrOf base 1 0x10040) := by
  refine ⟨fun det => ?_, ⟨(coreAt base 0).team.get (by decide +kernel), ?_, ?_⟩, ⟨?_, 0, ?_, ?_⟩, ?_, ?_, ?_⟩
  · refine ⟨((coreAt base 0).team.map fun b => { b with det := det }).get (by revert det; decide +kernel), ?_, ?_, { (default : Meter) with dealt := true }, ?_, ?_, ?_, rfl, ?_⟩
    all_goals first | exact Nat.zero_le _ | (revert det; decide +kernel)
  · decide +kernel
  · rintro ⟨m, h, -⟩
    rw [show base.hub.meters = [] by decide +kernel] at h; cases h
  all_goals first | (unfold TooHot; decide +kernel) | (unfold lpddrOf; decide +kernel) | decide +kernel
theorem test_witness_PowerEvents : (∃ b, (coreAt base 0).team = some b ∧ b.det = false) ∧
    (∃ b, (coreAt (upCore fun k => { k with team := k.team.map fun b => { b with det := true } }) 0).team = some b ∧ b.det = true) ∧
    (coreAt base 1).team = none ∧ MapsInv base ∧ base.hub.ckptGo = false ∧ base.hub.stopped = false ∧
    ((modHub base fun h => { h with ckptGo := true }).hub.ckptGo = true ∧ MapsInv (modHub base fun h => { h with ckptGo := true })) ∧
    (dieAt base 0).powered = true ∧
    (let l := launchWith 0 []
     l ∈ (launched [l]).hub.launches ∧ l.status = 0 ∧ l.ending = 0 ∧
       ∃ b, coreDie 0 = 0 ∧ (coreAt (launched [l]) 0).team = some b ∧ b.lid = l.lid) ∧
    (let s := modDie State.reset 3 fun k => { k with powered := false }
     (dieAt s 3).powered = false ∧ (s.cores.toList.all fun k => k.team.isNone) = true) := by
  refine ⟨⟨(coreAt base 0).team.get (by decide +kernel), ?_, ?_⟩,
    ⟨(coreAt (upCore fun k => { k with team := k.team.map fun b => { b with det := true } }) 0).team.get (by decide +kernel), ?_, ?_⟩,
    ?_, maps_of_ok ?_, ?_, ?_, ⟨?_, maps_of_ok ?_⟩, ?_, ⟨?_, ?_, ?_, ⟨(coreAt base 0).team.get (by decide +kernel), ?_, ?_, ?_⟩⟩, ?_, ?_⟩ <;>
    decide +kernel

/-- Every CXL port holds its quarter of an image, and none has more than its window. -/
def persistent : State := { base with cxl := Vector.ofFn fun p => (Config.persistBase p.val).val + lpddrEnd / 4 }
theorem lpddrEnd_quarter : lpddrEnd / 4 = 206158430208 := by decide
theorem cxl_persistent (p : Fin 4) : persistent.cxl.get p = (Config.persistBase p.val).val + lpddrEnd / 4 := by
  simp [persistent, Vector.get_ofFn]
theorem test_witness_PowerEvents_capacity : ¬lacksCapacity persistent ∧ (∀ p : Fin 4, persistent.cxl.get p ≤ 2 ^ 48) ∧
    portHolds persistent (0x10040 / 4096 % 4) = true ∧ lacksCapacity base := by
  refine ⟨fun ⟨p, h⟩ => ?_, fun p => ?_, ?_, 0, ?_⟩
  · rw [cxl_persistent] at h; omega
  · rw [cxl_persistent, lpddrEnd_quarter]; omega
  · simp [portHolds, cxl_persistent]
  · rw [show base.cxl.get 0 = 0 by decide +kernel, lpddrEnd_quarter]; omega
/-- Core 0 alone holds a byte of two lines dirty in its L1; at least one of them lies outside the marker. -/
def twoLines : State := upCore fun k => { k with l1 := [⟨0x10040 / 256, 39, [(0x40, ⟨7#8, some 0⟩)]⟩, ⟨0x10140 / 256, 39, [(0x40, ⟨7#8, some 0⟩)]⟩] }
theorem hartBuf_twoLines (h : Hart) : hartBuf twoLines h = [] := by
  cases h <;> rename_i x <;> revert x <;> decide +kernel
theorem l1_twoLines (y : CoreId) (h : y ≠ 0) : (coreAt twoLines y).l1 = [] := by
  rw [twoLines, upCore, coreAt_modCore_ne _ _ h]
  exact of_decide_eq_true (of_all_cores (s := base) (p := fun k => decide (k.l1 = [])) (by decide +kernel) y)
theorem soleDirty_twoLines (n : Fin 2) : SoleDirty twoLines 0 (0x10040 + 256 * n.val) 7#8 := by
  refine ⟨⟨0, 0, by decide, ?_, ?_⟩, fun y h l hl => by rw [l1_twoLines y h] at hl; cases hl⟩
  · match n with
    | 0 => exact ⟨⟨0x10040 / 256, 39, [(0x40, ⟨7#8, some 0⟩)]⟩, by decide +kernel, by decide⟩
    | 1 => exact ⟨⟨0x10140 / 256, 39, [(0x40, ⟨7#8, some 0⟩)]⟩, by decide +kernel, by decide⟩
  · revert n; decide +kernel
theorem test_witness_PowerEvents_dirty : MapsInv twoLines ∧ flushHarts twoLines = twoLines ∧ (∀ h, hartBuf twoLines h = []) ∧
    ∃ n : Fin 2, SoleDirty twoLines 0 (0x10040 + 256 * n.val) 7#8 ∧
      (0x10040 + 256 * n.val < Config.markerAddress ∨ Config.markerAddress + 64 ≤ 0x10040 + 256 * n.val) := by
  refine ⟨maps_of_ok (by decide +kernel), flushHarts_nil hartBuf_twoLines, hartBuf_twoLines, ?_⟩
  · by_cases h : Config.markerAddress + 64 ≤ 0x10140
    · exact ⟨1, soleDirty_twoLines 1, .inr h⟩
    · exact ⟨0, soleDirty_twoLines 0, .inl (by simp; omega)⟩

/-- An offer that just leaves MINC and one that does not; the steps of a loan. -/
def trading (ls : List Loan) : Hub := { State.reset.hub with trade := true, interval := 1, loans := ls }
theorem test_witness_CaratEvents : ((trading []).trade = true ∧ (1 ≤ 255 ∧ 255 ≤ 255) ∧ (trading []).minc.toNat + 1500 ≤ (trading []).ceil.toNat) ∧
    ¬(trading []).minc.toNat + 1501 ≤ (trading []).ceil.toNat ∧ State.reset.hub.trade = false ∧
    (let l : Loan := ⟨2, 0, 4, 5, 1, 0#2, 0, false, 1⟩
     (trading [l]).loans = [] ++ l :: [] ∧ (l.lender = 2 ∧ l.num = 4 ∧ l.phase = 0 ∧ l.from_ = (trading [l]).interval)) ∧
    (let l : Loan := ⟨2, 3, 4, 5, 1, 0#2, 1, false, 0⟩
     (trading [l]).loans = [] ++ l :: [] ∧ (l.lender = 2 ∧ l.borrower = 3 ∧ l.phase = 1 ∧ l.from_ + 1 = (trading [l]).interval)) ∧
    (trading []).loans = [] ∧ (portAt State.reset 0).attached = false ∧
    (let s := modPort base 0 fun p => { p with attached := true, frame := 6104 }
     (portAt s 0).attached = true ∧ 25000000 * (s.hub.interval + 1) < 4096 * (portAt s 0).frame) ∧
    ¬25000000 * (base.hub.interval + 1) < 4096 * 6103 ∧ (0 : Nat) ≤ 1000 * base.hub.ceil.toNat ∧
    (∃ b, (coreAt base 0).team = some b) ∧ reservedFor (dealOrder base) ≤ 1000 * base.hub.ceil.toNat - 0 := by
  refine ⟨?_, ?_, ?_, ?_, ?_, ?_, ?_, ?_, ?_, ?_, ⟨(coreAt base 0).team.get (by decide +kernel), ?_⟩, ?_⟩ <;> decide +kernel

/-- Records at the bounds of the checks. -/
def goodRecord : List (Nat × Nat) := [(0, 1), (14, 1), (108, 2), (116, 8), (131, 1)]
def queued (f : Queue → Queue) (ls : List Launch) : State := modQueue (launched ls) 0 63 f
theorem test_witness_RecordsAndQueues : badRecord (record []) ∧ badRecord (record ((130, 1) :: goodRecord)) ∧
    badRecord (record ((322, 1) :: goodRecord)) ∧ ¬badRecord (record ((323, 1) :: goodRecord)) ∧
    (¬badRecord (record goodRecord) ∧ kernelRecord (record goodRecord) ∧ rfield (record goodRecord) 20 2 = 0 ∧
      rfield (record goodRecord) 88 20 ≤ 311296) ∧
    (¬badRecord (record ((20, 3) :: goodRecord)) ∧ rfield (record ((20, 3) :: goodRecord)) 20 2 ≠ 0 ∧
      rfield (record ((20, 3) :: goodRecord)) 20 2 = partShape 4 ∧ rfield (record ((20, 3) :: goodRecord)) 20 2 ≠ partShape 2) ∧
    (¬badRecord (record ((88, 311297) :: goodRecord)) ∧ 311296 < rfield (record ((88, 311297) :: goodRecord)) 88 20) ∧
    (¬badRecord (record [(0, 1)]) ∧ ¬kernelRecord (record [(0, 1)])) ∧
    (¬stops (queueAt base 0 63) ∧ stops { queueAt base 0 63 with head := 17#32 } ∧ ¬stops { queueAt base 0 63 with head := 16#32 }) ∧
    (let s := queued (fun k => { k with en := true, head := 1#32 }) []
     let k := queueAt s 0 63
     ((0 : PartId).val < s.parts.length ∧ k.en = true ∧ k.front = .idle ∧ k.graph = none ∧ k.head ≠ k.tail ∧ ¬stops k) ∧
       backed s (k.base.toNat + 256 * (k.tail.toNat % 2 ^ k.sz.toNat)) = true ∧
       backed s (k.base.toNat + 256 * (k.tail.toNat % 2 ^ k.sz.toNat) + 255) = true ∧ s.owner = [] ∧ s.lrr = []) ∧
    (let k := queueAt (queued (fun k => { k with en := true, head := 1#32, base := BitVec.ofNat 64 (2 ^ 51) }) []) 0 63
     ¬stops k ∧ backed base k.base.toNat = false) ∧
    (queueAt base 0 63).en = false ∧
    (∀ fs : Fin 3, let l := { launchWith 1 ([[], [(6, 2)], [(512, 0x10040)]].getD fs.val []) with queue := 63 }
     let s := queued (fun k => { k with en := true, front := .wait 1#32 0 1000000 }) [l]
     (queueAt s 0 63).front = .wait 1#32 0 1000000 ∧ (queueAt s 0 63).en = true ∧ s.ns = 1000000 ∧ launchOf s 1#32 = some l ∧ l.part = 0 ∧ l.queue = 63 ∧
       (fs = 0 → rfield l.rec_ 6 2 = 0 ∧ rfield l.rec_ 128 64 = 0 ∧ rfield l.rec_ 11 1 = 0 ∧ BitVec.ofNat 64 (rfield l.rec_ 512 64) = 0#64) ∧
       (fs = 1 → rfield l.rec_ 6 2 ≠ 0) ∧
       (fs = 2 → BitVec.ofNat 64 (rfield l.rec_ 512 64) ≠ 0#64 ∧
         (match frontLoad s (frontWho s l) (BitVec.ofNat 64 (rfield l.rec_ 512 64)) 8 with
          | .error (.fault _ _) => true
          | _ => false) = true)) ∧
    (let l := { launchWith 1 [(265, 1), (512, 0x10040)] with queue := 63 }
     let s := queued (fun k => { k with en := true, front := .wait 1#32 0 1000000 }) [l]
     waitMet 0 0#64 0#64 ∧ ¬waitMet 1 0#64 0#64 ∧ launchOf s 1#32 = some l ∧
       (frontLoad s (frontWho s l) 0x10040#64 8).toOption.isSome = true) ∧
    ((queueAt (queued (fun k => { k with front := .wait 1#32 0 1000001 }) []) 0 63).front = .wait 1#32 0 1000001 ∧
      (launched []).ns < 1000001) ∧
    (let l := { launchWith 1 [(512, 0x0100000000000000)] with queue := 63 }
     let s := modCore (queued (fun k => { k with en := true, front := .wait 1#32 0 1000000 }) [l]) 0 fun k => { k with grant := 1, frozen := true }
     (match frontLoad s (frontWho s l) 0x0100000000000000#64 8 with | .error .held => true | _ => false) = true) := by
  unfold badRecord kernelRecord legalShape stops waitMet
  and_intros <;> decide +kernel


/-- Launch 1 in queue 63, its address space that of the bare team, its record at the front as `f` says. -/
def fronting (fs : List (Nat × Nat)) (f : FrontEnd) : State :=
  queued (fun k => { k with en := true, front := f }) [{ launchWith 1 ((265, 1) :: fs) with queue := 63 }]
theorem test_witness_FrontEndEvents :
    (let s := fronting [(6, 2), (1024, 1), (1028, 63), (1034, 1)] (.action 1#32 0 0)
     (∃ l, launchOf s 1#32 = some l ∧ l.part = 0 ∧ l.queue = 63 ∧ l.rec_.getLsbD 1024 = true ∧ l.rec_.getLsbD 1025 = false ∧
       rfield l.rec_ 6 2 = 2 ∧ rfield l.rec_ 1028 6 = 63 ∧ kernelRecord (record ((265, 1) :: [(128, 1)]))) ∧ MapsInv s ∧
     (queueAt s 0 63).front = .action 1#32 0 0 ∧ 0 < (partAt s 0).ndies ∧ (∃ c, coreDie c = physDie s (partAt s 0).base 0 ∧ (coreAt s c).team ≠ none)) ∧
    (let s := { fronting [(6, 1), (1024, 2), (1034, 1)] (.action 1#32 1 0) with cores := State.reset.cores }
     (queueAt s 0 63).front = .action 1#32 1 0 ∧ (s.cores.toList.all fun k => k.team.isNone) = true ∧
       (match frontRead s (frontWho s (launchWith 1 [])) 0#64 (2 ^ 22) with | .error (.fault _ _) => true | _ => false) = true) ∧
    (queueAt (fronting [] (.action 1#32 4 0)) 0 63).front = .action 1#32 4 0 ∧
    (fronting [] (.action 1#32 4 0)).hub.stopped = false ∧
    ((modHub (fronting [] (.action 1#32 4 0)) fun h => { h with stopped := true }).hub.stopped = true ∧
      (queueAt (modHub (fronting [] (.action 1#32 4 0)) fun h => { h with stopped := true }) 0 63).front = .action 1#32 4 0) ∧
    (let s := modQueue (fronting [] (.header 1#32)) 0 63 fun k => { k with en := false }
     (queueAt s 0 63).en = false ∧ (queueAt s 0 63).front = .header 1#32) ∧
    (let s := fronting [(11, 1), (1152, 0x10040)] (.header 1#32)
     (queueAt s 0 63).front = .header 1#32 ∧ (queueAt s 0 63).en = true ∧
       (frontLoad s (frontWho s (launchWith 1 [(265, 1)])) 0x10040#64 64).toOption.isSome = true ∧
       (match frontLoad s (frontWho s (launchWith 1 [])) 0x10040#64 64 with | .error (.fault _ _) => true | _ => false) = true) ∧
    (∀ b : Fin 2, let h := leNat (leBytes 64 (1 * 2 ^ 64 + b.val * 2 ^ 80 + 0x10100 * 2 ^ 128))
      h / 2 ^ 64 % 2 ^ 16 ≠ 0 ∧ h / 2 ^ 128 % 2 ^ 8 = 0 ∧ h / 2 ^ 80 % 2 = b.val) ∧
    (let g : Graph := ⟨1#32, 1, 0x10100#64, 0, none⟩
     let s := modQueue (fronting [(11, 1)] .idle) 0 63 fun k => { k with graph := some g }
     (queueAt s 0 63).front = .idle ∧ (queueAt s 0 63).graph = some g ∧ g.node < g.nn ∧ nodeDue s g = true ∧
       (frontLoad s (frontWho s (launchWith 1 [(265, 1)])) (g.nodes + BitVec.ofNat 64 (256 * g.node)) 256).toOption.isSome = true) ∧
    (let g : Graph := ⟨1#32, 2, 0x10100#64, 1, some 1#32⟩
     nodeDue (fronting [] .idle) g = false) ∧
    (let s := fronting [(11, 1), (1152, 0x10040)] (.lock 1#32 0 1000000)
     (queueAt s 0 63).front = .lock 1#32 0 1000000 ∧ (queueAt s 0 63).en = true ∧ s.ns = 1000000 ∧
       place s (frontWho s (launchWith 1 [(265, 1)])) .atomic 0x10040#64 8 8 = .ok (.mem 0x10040 false) ∧
       leNat (engineRead (frontAcquire s (frontWho s (launchWith 1 [(265, 1)])) 0x10040#64) (.mem 0x10040 false) 8).2.1 = 0 ∧
       (∃ t, place s (frontWho s (launchWith 1 [])) .atomic 0x10040#64 8 8 = .fault t) ∧ s.lrr = [] ∧ s.owner = []) ∧
    (fronting [] (.lock 1#32 0 1000001)).ns < 1000001 := by
  unfold kernelRecord
  refine ⟨⟨⟨{ launchWith 1 ((265, 1) :: [(6, 2), (1024, 1), (1028, 63), (1034, 1)]) with queue := 63 }, ?_, ?_, ?_, ?_, ?_, ?_, ?_, ?_⟩,
    maps_of_ok ?_, ?_, ?_, ⟨0, ?_, ?_⟩⟩, ⟨?_, ?_, ?_⟩, ?_, ?_, ?_, ?_, ⟨?_, ?_, ?_, ?_⟩, ?_, ⟨?_, ?_, ?_, ?_, ?_⟩, ?_,
    ⟨?_, ?_, ?_, ?_, ?_, ⟨⟨.storePageFault, 0#8, false, false, 0x10040#64⟩, ?_⟩, ?_, ?_⟩, ?_⟩ <;> decide +kernel

/-- A launch that has its status, and one that runs. -/
def endedLaunch : Launch := { launchWith 1 [(265, 1), (448, 0x10040)] with status := 15 }
def runningLaunch : Launch := launchWith 0 []
/-- A graph that has its status and record and still holds PLOCK. -/
def lockedLaunch : Launch := { launchWith 1 [(265, 1), (11, 1), (1152, 0x10040)] with status := 1, done := true, locked := true }
theorem test_witness_LaunchEnds_locked : launchOf (launched [lockedLaunch]) 1#32 = some lockedLaunch ∧
    (lockedLaunch.status ≠ 0 ∧ lockedLaunch.done = true ∧ lockedLaunch.locked = true ∧ lockedLaunch.parent = none) ∧
    MapsInv (launched [lockedLaunch]) ∧
    place (launched [lockedLaunch]) (frontWho (launched [lockedLaunch]) lockedLaunch) .store
      (BitVec.ofNat 64 (rfield lockedLaunch.rec_ 1152 64)) 8 8 = .ok (.mem 0x10040 false) :=
  ⟨by decide +kernel, by decide +kernel, maps_of_ok (by decide +kernel), by decide +kernel⟩
/-- The launch runs on a package none of whose cores holds a team. -/
def pooled : State := modHub State.reset fun h => { h with launches := [runningLaunch] }
theorem coreAt_pooled (c : CoreId) : (coreAt pooled c).team = none := by
  simp [coreAt, pooled, modHub, State.reset, Vector.get, Core.reset]
theorem powerStopped_pooled : powerStopped pooled 0#32 = false := by
  have h : launchCores pooled 0#32 = [] := by simp [launchCores, coreAt_pooled]
  simp [powerStopped, h]
theorem test_witness_LaunchEnds : launchOf (launched [endedLaunch]) 1#32 = some endedLaunch ∧
    (endedLaunch.status ≠ 0 ∧ endedLaunch.status < 16 ∧ endedLaunch.done = false ∧ endedLaunch.parent = none ∧ endedLaunch.locked = false) ∧
    rfield endedLaunch.rec_ 8 2 = 0 ∧ MapsInv (launched [endedLaunch]) ∧
    ((launched [endedLaunch]).dies.toList.all fun k => k.wins.isEmpty) = true ∧
    place (launched [endedLaunch]) (frontWho (launched [endedLaunch]) endedLaunch) .store 0x10040#64 32 32 = .ok (.mem 0x10040 false) ∧
    BitVec.ofNat 64 (rfield endedLaunch.rec_ 448 64) = 0x10040#64 :=
  ⟨by decide +kernel, by decide +kernel, by decide +kernel, maps_of_ok (by decide +kernel), by decide +kernel, by decide +kernel,
    by decide +kernel⟩
theorem test_witness_LaunchEnds_running : launchOf pooled 0#32 = some runningLaunch ∧
    (runningLaunch.status = 0 ∧ runningLaunch.ending = 0 ∧ runningLaunch.left = 0) ∧ rfield runningLaunch.rec_ 11 1 = 0 ∧
    powerStopped pooled 0#32 = false ∧ nodesOf pooled 0#32 = [] ∧ (queueAt pooled 0 0).graph = none ∧ frontOf pooled runningLaunch = none ∧
    ((coreAt (launched [runningLaunch]) 0).team.map (·.lid)) = some 0#32 ∧
    (queueAt (fronting [] (.wait 1#32 0 0)) 0 63).front = .wait 1#32 0 0 :=
  ⟨by decide +kernel, by decide +kernel, by decide +kernel, powerStopped_pooled, by decide +kernel, by decide +kernel, by decide +kernel,
    by decide +kernel, by decide +kernel⟩

/-- No clock is held down on the bare team; it is once a launch with DET has begun. -/
def noDet (k : Core) : Bool := k.team.all fun b => !b.det
theorem noDet_base : base.cores.toList.all noDet = true := by decide +kernel
theorem not_locked_base : ¬Locked base := by
  rintro (⟨l, hl, -⟩ | ⟨c, b, hb, hd⟩)
  · rw [show base.hub.launches = [] by decide +kernel] at hl; cases hl
  · have h := of_all_cores noDet_base c
    simp [noDet, hb, hd] at h
def detLaunch : Launch := { launchWith 0 [(1, 1)] with begun := true }
theorem locked_launched : Locked (launched [detLaunch]) :=
  .inl ⟨detLaunch, by simp [launched, modHub], by decide +kernel, by decide +kernel, by decide +kernel⟩
/-- Beacons two apart, one apart and equal; a frame that takes the wheel and one that does not. -/
theorem test_witness_SegmentAndPackageEvents :
    (let s := modPort base 1 fun p => { p with attached := true, frame := 16, beacon := some 2#32 }
     (portAt s 1).attached = true ∧ s.hub.stopped = false ∧ (portAt s 1).jobs = [] ∧ (portAt s 1).frame % 16 = 0 ∧ (portAt s 1).beacon = some 2#32 ∧ ((0#32).toNat + 2 ≤ (2#32).toNat) ∧
       (2#32).toNat = (1#32).toNat + 1 ∧ (2#32).toNat ≤ (2#32).toNat ∧ liveJobs s 1 0#4 = []) ∧
    (portAt base 1).attached = false ∧ (portAt (modPort base 1 fun p => { p with frame := 15 }) 1).frame % 16 ≠ 0 ∧
    liveJobs (ported fun p => { p with jobs := [default] }) (myPort base) 0#4 ≠ [] ∧
    (lpddrEnd - 8 + 8 ≤ lpddrEnd ∧ lpddrEnd < lpddrEnd - 7 + 8 ∧ base.owner = [] ∧ MapsInv base ∧ (leBytes 8 0).length = 8) ∧
    base.hub.stopped = false ∧
    (MapsInv (modHub base fun h => { h with stopped := true }) ∧ (modHub base fun h => { h with stopped := true }).hub.stopped = true) ∧
    ((∀ a : Fin 8, homeBytes base a.val 8 = leBytes 8 0) ∧ homeBytes base 0 8 ≠ leBytes 8 1) ∧
    (let plan : BootPlan := { (default : BootPlan) with slot1Ok := true, badDies := 8#4, faultQueues := [(0x1000#64, 17)], quantaUs := [100000] }
     (plan.slot0Ok = true ∨ plan.slot1Ok = true) ∧ (Whole plan 2 ∧ ¬Whole plan 3) ∧ plan.faultQueues[(0 : DieId).val]? = some (0x1000#64, 17)) ∧
    (¬Whole { (default : BootPlan) with badDies := 15#4 } 0 ∧ (default : BootPlan).slot0Ok = false ∧ (default : BootPlan).slot1Ok = false) := by
  unfold Whole
  refine ⟨?_, ?_, ?_, ?_, ⟨?_, ?_, ?_, maps_of_ok ?_, ?_⟩, ?_, ⟨maps_of_ok ?_, ?_⟩, ?_, ?_, ?_⟩ <;> decide +kernel

theorem test_witness_RegisterEvents : (dieAt base 0).cgen = false ∧
    (let s := modDie base 0 fun k => { k with cgen := true }
     (dieAt s 0).cgen = true ∧ backed s (dieAt s 0).cgbase.toNat = true ∧
       backed s ((dieAt s 0).cgbase.toNat + 2 ^ (dieAt s 0).cgsz.toNat - 1) = true ∧ MapsInv s) ∧
    (let s := modDie base 0 fun k => { k with cgen := true, cgbase := BitVec.ofNat 64 (2 ^ 51) }
     (dieAt s 0).cgen = true ∧ backed s (dieAt s 0).cgbase.toNat = false) ∧
    4 % 8 ≠ 0 ∧ (portAt base 1).leader = false ∧ (portAt (modPort base 1 fun p => { p with leader := true }) 1).leader = true ∧
    coreDie 255 = 0 ∧ (0x7F8 < 0x800 ∧ 0x7F8 % 8 = 0 ∧ 0x80 ≤ 0x7F8) := by
  refine ⟨?_, ⟨?_, ?_, ?_, maps_of_ok ?_⟩, ?_, ?_, ?_, ?_, ?_, ?_⟩ <;> decide +kernel

theorem test_witness_DebugEvents : (coreAt base 0).dbg.halt = false ∧
    (∀ q : Fin 4, let ev := ([[], [.door], [.stop .preempt], [.generation 7#3 true false []]] : List (List DebugEvent)).getD q.val []
      let s := upCore fun k => { k with dbg := { k.dbg with halt := true, step := true, queued := ev } }
      (coreAt s 0).dbg.halt = true ∧ (coreAt s 0).dbg.queued = ev ∧ (coreAt s 0).team ≠ none ∧ mayIssue (coreAt s 0) 0 = true) := by
  decide +kernel

/-- The word of `base` is fetched by the next step, and decodes. -/
theorem test_witness_StepRunsDecoded : Issues base 0 0 ∧ HeaderGood (fetchState base 0 0) 0 0 ∧
    fetchAt (fetchState base 0 0) 0 0 (ctxAt (fetchState base 0 0) 0 0).pc.addr = .ok (0x10008, 0x05200084#32) ∧
    codePoisoned (fetchState base 0 0) 0 0x10008 = false ∧ isLForm 0x05200084#32 = false ∧
    decode (bytesOfWord 0x05200084#32) = .ok (.addImm 0#3 5#5 4#5 1#12, []) ∧ (coreAt base 0).dbg.halt = false ∧
    ¬AtHeader (fetchState base 0 0) 0 0 ∧
    (let s := State.reset.withFetchWord 64 0x000000010500000F
     Issues s 0 0 ∧ ¬AtHeader (fetchState s 0 0) 0 0 ∧ HeaderGood (fetchState s 0 0) 0 0 ∧ isLForm 0x0500000F#32 = true ∧
     fetchAt (fetchState s 0 0) 0 0 0x10008#64 = .ok (0x10008, 0x0500000F#32) ∧
     fetchAt (fetchState s 0 0) 0 0 0x1000C#64 = .ok (0x1000C, 1#32) ∧ codePoisoned (fetchState s 0 0) 0 0x1000C = false ∧
     (0x1000C#64).toNat < (bodyEnd (fetchState s 0 0) 0 0 0x10000#64).toNat ∧
     decode (bytesOfWord 0x0500000F#32 ++ bytesOfWord 1#32) = .ok (.liw 0#3 5#5 1#32, [])) ∧
    (tick { base with agenda := [.refreshWindow, .nop 0#3] }).agenda = [.refreshWindow, .nop 0#3] ∧ encode .refreshWindow = [] ∧
    encode (.nop 0#3) ≠ [] := by
  unfold Issues HeaderGood AtHeader
  and_intros <;> decide +kernel

theorem test_witness_FetchFaults : Issues base 0 0 ∧
    (let s := fetchState (up fun t => { t with pc := ⟨0xF00000008#64, 0xF00000000#64⟩ }) 0 0
     (match fetchAt s 0 0 (ctxAt s 0 0).pc.addr with | .ok _ => false | .error _ => true) = true) ∧
    (let s := fetchState (up fun t => { t with pc := ⟨0x10040#64, 0x10038#64⟩ }) 0 0
     (fetchAt s 0 0 0x10040#64).toOption.isSome = true ∧ headerFault s 0 0 (ctxAt s 0 0).pc.hdr ≠ none) ∧
    (let s := State.reset.withFetchWord 32 0x0500000F
     let s := fetchState (onCtx s fun t => { t with pc := ⟨0x10010#64, 0x10000#64⟩ }) 0 0
     isLForm 0x0500000F#32 = true ∧ (bodyEnd s 0 0 0x10000#64).toNat ≤ (0x10010#64 + 4#64).toNat) ∧
    codePoisoned (fetchState (upCore fun k => { k with fetchPoison := [0x10008 / 64] }) 0 0) 0 0x10008 = true ∧
    decode (bytesOfWord 0x0000C0FF#32) = .error .header ∧
    (let s := up fun t => { t with pc := ⟨0x10004#64, 0x10000#64⟩ }
     Issues s 0 0 ∧ AtHeader (fetchState s 0 0) 0 0 ∧
       (fetchAt (fetchState s 0 0) 0 0 (ctxAt (fetchState s 0 0) 0 0).pc.addr).toOption.isSome = true) ∧
    ¬AtHeader (fetchState base 0 0) 0 0 := by
  unfold Issues AtHeader
  and_intros <;> decide +kernel

theorem test_witness_DecodeEncode : (Instr.bfx 7#3 31#5 31#5 63#6 0#6).wf = true ∧ encode (.bfx 7#3 31#5 31#5 63#6 0#6) ≠ [] := by decide

theorem test_witness_StepKeepsMaps : MapsInv State.reset ∧ (∃ u, step State.reset = .next u) ∧ MapsInv base ∧ ∃ u, step base = .next u := by
  have h (s : State) (a : (match step s with | .next _ => true | _ => false) = true) : ∃ u, step s = .next u := by
    revert a; cases step s <;> simp
  exact ⟨maps_of_ok (by decide +kernel), h _ (by decide +kernel), maps_of_ok (by decide +kernel), h _ (by decide +kernel)⟩



end Sys2Proof.Tests
end

section
/-! PROOFS. The scalar and control instructions of file 06: what one that writes a register delivers (R129-R133, R143), NOP (R148) and the
hardware loop (R141). Word arithmetic is said for every width; each clause of a statement then cites one fact about words. -/

namespace Sys2Proof.ScalarControl
open Sys2Proof Sys2Proof.Machine Sys2Proof.Claims

/-! ### Words as numbers -/

theorem setWidth_ofInt {v w : Nat} (h : w ≤ v) (z : Int) : (BitVec.ofInt v z).setWidth w = BitVec.ofInt w z := by
  apply BitVec.eq_of_toNat_eq
  have dvd : ((2 ^ w : Nat) : Int) ∣ (2 ^ v : Nat) := Int.natCast_dvd_natCast.2 (Nat.pow_dvd_pow 2 h)
  have nonneg : 0 ≤ z % (2 ^ v : Nat) := Int.emod_nonneg z (by positivity)
  rw [BitVec.toNat_setWidth, BitVec.toNat_ofInt, BitVec.toNat_ofInt, ← Int.emod_emod_of_dvd z dvd,
    Int.toNat_emod nonneg (Int.natCast_nonneg _), Int.toNat_natCast]

theorem add_signExtend_eq_ofInt {v w : Nat} (x : BitVec w) (y : BitVec v) :
    x + y.signExtend w = BitVec.ofInt w (x.toInt + y.toInt) := by
  rw [BitVec.ofInt_add, BitVec.ofInt_toInt]; rfl

theorem add_signExtend_eq_ofInt_toNat {v w : Nat} (x : BitVec w) (y : BitVec v) :
    x + y.signExtend w = BitVec.ofInt w (x.toNat + y.toInt) := by
  rw [BitVec.ofInt_add, BitVec.ofInt_natCast, BitVec.ofNat_toNat, BitVec.setWidth_eq]; rfl

theorem ite_eq_zero_eq_ite_toNat_ne_zero {w : Nat} (x y z : BitVec w) :
    (if x = 0#w then z else y) = if x.toNat ≠ 0 then y else z := by
  have zero : x = 0#w ↔ x.toNat = 0 := by rw [BitVec.toNat_eq, BitVec.toNat_zero]
  rw [ite_not, if_congr zero rfl rfl]

theorem shiftLeft_eq_ofNat_mul {w : Nat} (x : BitVec w) (n : Nat) : x <<< n = BitVec.ofNat w (x.toNat * 2 ^ n) :=
  BitVec.eq_of_toNat_eq (by simp [Nat.shiftLeft_eq])

theorem ushiftRight_eq_ofNat_div {w : Nat} (x : BitVec w) (n : Nat) : x >>> n = BitVec.ofNat w (x.toNat / 2 ^ n) := by
  rw [← Nat.shiftRight_eq_div_pow, ← BitVec.toNat_ushiftRight, BitVec.ofNat_toNat, BitVec.setWidth_eq]

theorem sshiftRight_eq_ofInt_div {w : Nat} (x : BitVec w) (n : Nat) :
    x.sshiftRight n = BitVec.ofInt w (x.toInt / 2 ^ n) := by
  rw [BitVec.sshiftRight_eq, Int.shiftRight_eq_div_pow, Nat.cast_pow, Nat.cast_ofNat]

theorem rotateLeft_eq_or {w n : Nat} (x : BitVec w) (h : n < w) :
    x.rotateLeft n = BitVec.ofNat w (x.toNat * 2 ^ n) ||| BitVec.ofNat w (x.toNat / 2 ^ (w - n)) := by
  rw [BitVec.rotateLeft_eq_rotateLeftAux_of_lt h, ← shiftLeft_eq_ofNat_mul, ← ushiftRight_eq_ofNat_div]; rfl

theorem rotateRight_eq_or {w n : Nat} (x : BitVec w) (h : n < w) :
    x.rotateRight n = BitVec.ofNat w (x.toNat / 2 ^ n) ||| BitVec.ofNat w (x.toNat * 2 ^ (w - n)) := by
  rw [BitVec.rotateRight_eq_rotateRightAux_of_lt h, ← shiftLeft_eq_ofNat_mul, ← ushiftRight_eq_ofNat_div]; rfl

/-- Two halves of a 64-bit word side by side. -/
theorem halves_eq_ofNat (hi lo : Word32) :
    (zext64 hi <<< 32) ||| zext64 lo = BitVec.ofNat 64 (hi.toNat * 2 ^ 32 + lo.toNat) := by
  have inWord : hi.toNat <<< 32 < 2 ^ 64 := by have := hi.isLt; omega
  apply BitVec.eq_of_toNat_eq
  rw [BitVec.toNat_or, BitVec.toNat_shiftLeft, BitVec.toNat_setWidth_of_le (by decide), BitVec.toNat_setWidth_of_le (by decide),
    Nat.mod_eq_of_lt inWord, ← Nat.shiftLeft_add_eq_or_of_lt lo.isLt, Nat.shiftLeft_eq, BitVec.toNat_ofNat,
    Nat.mod_eq_of_lt (by have := hi.isLt; have := lo.isLt; omega)]

/-! ### Bit fields (R132) -/

theorem one_shiftLeft_sub_one (w n : Nat) : 1#w <<< n - 1#w = BitVec.ofNat w (2 ^ n - 1) := by
  have power : 1#w <<< n = BitVec.ofNat w (2 ^ n - 1) + 1#w := by
    rw [← BitVec.ofNat_add, Nat.sub_add_cancel Nat.one_le_two_pow]
    exact BitVec.eq_of_toNat_eq (BitVec.toNat_twoPow w n)
  rw [power, BitVec.add_sub_cancel]

/-- The mask has exactly the bits of the field. -/
theorem getLsbD_fieldMask (len pos : BitVec 6) {i : Nat} (hi : i < 64) :
    (fieldMask len pos).getLsbD i = decide (pos.toNat ≤ i ∧ i < pos.toNat + (len.toNat + 1)) := by
  unfold fieldMask
  rw [one_shiftLeft_sub_one, BitVec.getLsbD_shiftLeft, BitVec.getLsbD_ofNat, Nat.testBit_two_pow_sub_one,
    Bool.eq_iff_iff]
  simp only [Bool.and_eq_true, Bool.not_eq_true', decide_eq_true_iff, decide_eq_false_iff_not]
  omega

theorem extractField_eq_ofNat (x : Word) (len pos : BitVec 6) :
    extractField x len pos = BitVec.ofNat 64 (x.toNat / 2 ^ pos.toNat % 2 ^ (len.toNat + 1)) := by
  apply BitVec.eq_of_getLsbD_eq
  intro i hi
  unfold extractField
  rw [BitVec.getLsbD_ushiftRight, BitVec.getLsbD_and, BitVec.getLsbD_ofNat, Nat.testBit_mod_two_pow, Nat.testBit_div_two_pow]
  by_cases h : pos.toNat + i < 64
  · rw [getLsbD_fieldMask len pos h]
    simp [hi, BitVec.testBit_toNat, Nat.add_comm i, Bool.and_comm]
  · simp [BitVec.testBit_toNat, Nat.add_comm i, BitVec.getLsbD_of_ge x _ (Nat.le_of_not_lt h)]

theorem getLsbD_insertField (old x : Word) (len pos : BitVec 6) {i : Nat} (hi : i < 64) :
    (insertField old x len pos).getLsbD i =
      if pos.toNat ≤ i ∧ i < pos.toNat + (len.toNat + 1) then x.getLsbD (i - pos.toNat) else old.getLsbD i := by
  unfold insertField
  rw [BitVec.getLsbD_or, BitVec.getLsbD_and, BitVec.getLsbD_and, BitVec.getLsbD_not, BitVec.getLsbD_shiftLeft,
    getLsbD_fieldMask len pos hi]
  split
  · next inside => simp [inside, hi]
  · next outside => simp [outside, hi]

/-! ### Instructions whose only effect is a register -/

section
variable {s : State} {i : Instr} {stl : Stl} {d a b : Reg} {lat : Nat} {v : Word}

theorem writes_of_alu1 {f : Word → Word} (he : exec i s = alu1 s stl d a f) (h : NoUnderrun s [nx a]) (hv : f (reads s a) = v) :
    Writes s i stl d v := by
  subst hv
  unfold Writes Completes
  rw [he]
  exact alu1_writes s stl d a f h

theorem writes_of_alu2 {f : Word → Word → Word} (he : exec i s = alu2 s stl lat d a b f) (h : NoUnderrun s [nx a, nx b])
    (hv : f (reads s a) (reads s b) = v) : Writes s i stl d v := by
  subst hv
  unfold Writes Completes
  rw [he]
  exact alu2_writes s stl lat d a b f h

/-- One that reads the registers `rs` and delivers what its body computes. -/
theorem writes_of_instr {rs : List Nat} {f : CoreId → CtxId → Word}
    (he : exec i s = instr s stl 0 rs fun c j => .done (writeX s c j d lat (f c j))) (h : NoUnderrun s rs)
    (hv : f s.cur.1 s.cur.2 = v) : Writes s i stl d v := by
  subst hv
  unfold Writes Completes
  rw [he, instr_body s stl 0 rs _ h]
  exact finish_writes s stl 0 d lat _

end

/-- An instruction that reads no register has no underrun. -/
theorem noUnderrun_nil (s : State) : NoUnderrun s [] := .inr rfl

/-! ### What each instruction computes (R129-R133, R141, R143, R148) -/

section
variable (s : State) (stl : Stl) (w : Bool) (d a b c : Reg) (imm : BitVec 12) (n len pos : BitVec 6) (lit : Word32)

theorem exec_nop : exec (.nop stl) s = instr s stl 0 [] fun _ _ => .done s := rfl
theorem exec_addImm : exec (.addImm stl d a imm) s = alu1 s stl d a fun x => x + sext64 imm := rfl
theorem exec_addWImm : exec (.addWImm stl d a imm) s = alu1 s stl d a fun x => sext64 (lo32 (x + sext64 imm)) := rfl
theorem exec_andImm : exec (.andImm stl d a imm) s = alu1 s stl d a fun x => x &&& sext64 imm := rfl
theorem exec_orImm : exec (.orImm stl d a imm) s = alu1 s stl d a fun x => x ||| sext64 imm := rfl
theorem exec_xorImm : exec (.xorImm stl d a imm) s = alu1 s stl d a fun x => x ^^^ sext64 imm := rfl
theorem exec_andnImm : exec (.andnImm stl d a imm) s = alu1 s stl d a fun x => x &&& ~~~sext64 imm := rfl
theorem exec_sllImm : exec (.sllImm stl w d a n) s =
    alu1 s stl d a fun x => if w then sext64 (lo32 x <<< n.toNat) else x <<< n.toNat := rfl
theorem exec_srlImm : exec (.srlImm stl w d a n) s =
    alu1 s stl d a fun x => if w then sext64 (lo32 x >>> n.toNat) else x >>> n.toNat := rfl
theorem exec_sraImm : exec (.sraImm stl w d a n) s =
    alu1 s stl d a fun x => if w then sext64 ((lo32 x).sshiftRight n.toNat) else x.sshiftRight n.toNat := rfl
theorem exec_rolImm : exec (.rolImm stl w d a n) s =
    alu1 s stl d a fun x => if w then sext64 ((lo32 x).rotateLeft n.toNat) else x.rotateLeft n.toNat := rfl
theorem exec_rorImm : exec (.rorImm stl w d a n) s =
    alu1 s stl d a fun x => if w then sext64 ((lo32 x).rotateRight n.toNat) else x.rotateRight n.toNat := rfl
theorem exec_sel : exec (.sel stl d a b c) s = instr s stl 0 [nx a, nx b, nx c] fun p j => .done (writeX s p j d 1
    (if readX s (ctxAt s p j) c = 0#64 then readX s (ctxAt s p j) b else readX s (ctxAt s p j) a)) := rfl
theorem exec_bfx : exec (.bfx stl d a len pos) s = alu1 s stl d a fun x => extractField x len pos := rfl
theorem exec_bfi : exec (.bfi stl d a len pos) s = alu2 s stl 1 d d a fun t x => insertField t x len pos := rfl
theorem exec_liw : exec (.liw stl d lit) s = instr s stl 0 [] fun c j => .done (writeX s c j d 1 (sext64 lit)) := rfl
theorem exec_liwh : exec (.liwh stl d lit) s = alu1 s stl d d fun x => (zext64 lit <<< 32) ||| zext64 (lo32 x) := rfl
theorem exec_addpc : exec (.addpc stl d lit) s =
    instr s stl 0 [] fun c j => .done (writeX s c j d 1 ((ctxAt s c j).pc.addr + sext64 lit)) := rfl
theorem exec_rng : exec (.rng stl d a b) s = alu2 s stl 3 d a b fun x y =>
    (zext64 (genG (lo32 x ^^^ 0x5BD1E995#32) (lo32 y)) <<< 32) ||| zext64 (genG (lo32 x) (lo32 y)) := rfl
theorem exec_loop : exec (.loop stl a) s = if !loopPlace s s.cur.1 s.cur.2 then blockFault s stl else
    instr s stl 0 [nx a] fun c j => .done (modCtx s c j fun t =>
      { t with lc := readX s t a, lblk := nextHeader s c j (ctxAt s c j).pc.hdr ||| 1#64 }) := rfl

end

/-! ### The statement about immediates and the other scalar forms -/

theorem scalarImmediate_holds : ScalarImmediate := by
  intro s stl d a imm n h x S p sh
  have h64 : sh < 64 := n.isLt
  have add : x + sext64 imm = BitVec.ofInt 64 (x.toInt + S) := add_signExtend_eq_ofInt x imm
  refine ⟨writes_of_alu1 (exec_addImm ..) h add, writes_of_alu1 (exec_addWImm ..) h ?_, writes_of_alu1 (exec_andImm ..) h rfl,
    writes_of_alu1 (exec_orImm ..) h rfl, writes_of_alu1 (exec_xorImm ..) h rfl, writes_of_alu1 (exec_andnImm ..) h rfl,
    writes_of_alu1 (exec_sllImm ..) h (shiftLeft_eq_ofNat_mul x sh), writes_of_alu1 (exec_srlImm ..) h (ushiftRight_eq_ofNat_div x sh),
    writes_of_alu1 (exec_sraImm ..) h (sshiftRight_eq_ofInt_div x sh), writes_of_alu1 (exec_rolImm ..) h (rotateLeft_eq_or x h64),
    writes_of_alu1 (exec_rorImm ..) h (rotateRight_eq_or x h64), fun h32 => ⟨
      writes_of_alu1 (exec_sllImm ..) h (congrArg sext (shiftLeft_eq_ofNat_mul p sh)),
      writes_of_alu1 (exec_srlImm ..) h (congrArg sext (ushiftRight_eq_ofNat_div p sh)),
      writes_of_alu1 (exec_sraImm ..) h (congrArg sext (sshiftRight_eq_ofInt_div p sh)),
      writes_of_alu1 (exec_rolImm ..) h (congrArg sext (rotateLeft_eq_or p h32)),
      writes_of_alu1 (exec_rorImm ..) h (congrArg sext (rotateRight_eq_or p h32))⟩⟩
  exact congrArg sext ((congrArg lo32 add).trans (setWidth_ofInt (by decide) _))

theorem nop_completes (s : State) (stl : Stl) : Completes s (.nop stl) stl s := by
  unfold Completes
  rw [exec_nop, instr_body s stl 0 [] _ (noUnderrun_nil s)]
  exact finish_completes s s stl 0 rfl

/-- The literal of LIWH takes the upper half and leaves the lower (R133). -/
theorem liwh_value (lit : Word32) (old : Word) :
    (zext64 lit <<< 32) ||| zext64 (lo32 old) = BitVec.ofNat 64 (lit.toNat * 2 ^ 32 + old.toNat % 2 ^ 32) := by
  rw [halves_eq_ofNat, BitVec.toNat_setWidth]

theorem scalarOther_holds : ScalarOther := by
  intro s stl d a b c len pos lit x old n p G k v
  refine ⟨nop_completes s stl, fun h => writes_of_instr (exec_sel ..) h ?_,
    fun h _ => writes_of_alu1 (exec_bfx ..) h (extractField_eq_ofNat x len pos),
    fun h _ => ⟨insertField old x len pos, writes_of_alu2 (exec_bfi ..) h rfl, fun i hi => getLsbD_insertField old x len pos hi⟩,
    writes_of_instr (exec_liw ..) (noUnderrun_nil s) rfl, fun h => writes_of_alu1 (exec_liwh ..) h (liwh_value lit old),
    writes_of_instr (exec_addpc ..) (noUnderrun_nil s) (add_signExtend_eq_ofInt_toNat (curCtx s).pc.addr lit),
    fun h => writes_of_alu2 (exec_rng ..) h (halves_eq_ofNat _ _)⟩
  exact ite_eq_zero_eq_ite_toNat_ne_zero (reads s c) x (reads s b)

/-- Settles O3: each instruction is one register operation of the model, and its value is that of R129-R133 and R143 by a fact about
words; NOP ends with the state it began with. -/
theorem scalarImmediateAndOther : Obligations.ScalarImmediateAndOther := ⟨scalarImmediate_holds, scalarOther_holds⟩

/-! ### The hardware loop (R141) -/

theorem endOfBlock_eq_bodyEnd (s : State) : endOfBlock s = bodyEnd s s.cur.1 s.cur.2 (curCtx s).pc.hdr := by
  unfold endOfBlock bodyEnd
  simp only []
  rw [BitVec.ofNat_add, ← BitVec.add_assoc]

theorem followingHeader_eq_nextHeader (s : State) : followingHeader s = nextHeader s s.cur.1 s.cur.2 (curCtx s).pc.hdr := by
  unfold followingHeader nextHeader
  simp only []
  rw [BitVec.ofNat_add, ← BitVec.add_assoc]

theorem loopPlace_iff (s : State) :
    loopPlace s s.cur.1 s.cur.2 = true ↔ (curCtx s).pc.addr.toNat + 12 ≤ (endOfBlock s).toNat := by
  rw [endOfBlock_eq_bodyEnd]
  exact decide_eq_true_iff

/-- The state with the loop that LOOP arms: trips from x[a], body the block that follows. -/
def armed (s : State) (a : Reg) : State := onCtx s fun t => { t with lc := reads s a, lblk := followingHeader s ||| 1#64 }

theorem exec_loop_inPlace {s : State} (stl : Stl) {a : Reg} (h : NoUnderrun s [nx a])
    (hp : (curCtx s).pc.addr.toNat + 12 ≤ (endOfBlock s).toNat) : exec (.loop stl a) s = finish s stl 0 (.done (armed s a)) := by
  have effect : (modCtx s s.cur.1 s.cur.2 fun t =>
      { t with lc := readX s t a, lblk := nextHeader s s.cur.1 s.cur.2 (curCtx s).pc.hdr ||| 1#64 }) = armed s a := by
    rw [← followingHeader_eq_nextHeader]
    exact modCtx_congr s _ rfl
  rw [exec_loop, (loopPlace_iff s).2 hp, ← effect, Bool.not_true, if_neg Bool.false_ne_true]
  exact instr_body s stl 0 _ _ h

theorem exec_loop_outOfPlace {s : State} (stl : Stl) (a : Reg) (hp : ¬(curCtx s).pc.addr.toNat + 12 ≤ (endOfBlock s).toNat) :
    exec (.loop stl a) s = blockFault s stl := by
  rw [exec_loop, Bool.eq_false_iff.2 (mt (loopPlace_iff s).1 hp)]
  rfl

/-- Settles O8: the place that the model asks for is that of R141, and there the loop is the instruction's only effect. -/
theorem hardwareLoop : Obligations.HardwareLoop := by
  unfold Obligations.HardwareLoop
  intro s stl a h p
  refine ⟨fun hp => ?_, fun hp => ?_⟩
  · unfold Completes
    rw [exec_loop_inPlace stl h hp]
    exact finish_completes s (armed s a) stl 0 rfl
  · exact exec_loop_outOfPlace stl a (Nat.not_le.2 hp)

end Sys2Proof.ScalarControl
end
